-- ==== Sys2Proof/Word.lean ====
section
/-! DEFINITION. The word types of the Vorlo V8 and the sparse map in which files of like things are held. -/

namespace Sys2Proof

/-- A scalar register, an address, a special register (02 R40). -/
abbrev W64 := BitVec 64
/-- One byte of memory. -/
abbrev Byte := BitVec 8
/-- The image of a vector register: 512 elements of 32 bits, element i at bits 32i+31:32i (04 R85). -/
abbrev Vec := BitVec 16384
/-- A mask register: bit i governs element i (02 R40). -/
abbrev MaskReg := BitVec 512
/-- The image of an accumulator: FP32 element (r, c) at bits 32(64r+c)+31 down (16 R287, 14 R257). -/
abbrev AccImg := BitVec 131072
/-- The image of an operand slot: byte b of row r at bits 8(128r+b)+7 down (16 R294). -/
abbrev OpImg := BitVec 65536

/-- A file of like things: what is listed, by number, strictly rising; every unlisted number holds the
file's default, and no listed entry equals it. -/
abbrev Map (α : Type) := List (Nat × α)

end Sys2Proof
end

