-- ==== Sys2Proof/Syntax.lean ====
section
/-! DEFINITION. The instructions of Gralia and the other transitions of the Vorlo V8: one constructor per row of
the opcode table. A slot instruction carries its operand bits in the layout of 01 R20, every bit of it. -/

namespace Sys2Proof

/-- Layout RRR (01 R20): 47:40 D, 39:32 A, 31:24 B, 23:16 C, 15:0 MOD. -/
structure RRR where
  d : BitVec 8
  a : BitVec 8
  b : BitVec 8
  c : BitVec 8
  mod : BitVec 16
  deriving DecidableEq, Repr

/-- Layout RRI (01 R20): 47:40 D, 39:32 A, 31:0 IMM32. -/
structure RRI where
  d : BitVec 8
  a : BitVec 8
  imm : BitVec 32
  deriving DecidableEq, Repr

/-- Layout RI (01 R20): 47:40 D, 39:0 IMM40. -/
structure RI where
  d : BitVec 8
  imm : BitVec 40
  deriving DecidableEq, Repr

/-- Layout BRN (01 R20): 47:40 A, 39:0 OFF40. -/
structure BRN where
  a : BitVec 8
  off : BitVec 40
  deriving DecidableEq, Repr

/-- Layout CMPF (01 R20): 47:42 PD1, 41:36 PD2, 35:33 CT, 32:29 COND, 28:21 A, 20:13 B, 12:0 reserved. -/
structure CMPF where
  pd1 : BitVec 6
  pd2 : BitVec 6
  ct : BitVec 3
  cond : BitVec 4
  a : BitVec 8
  b : BitVec 8
  rsv : BitVec 13
  deriving DecidableEq, Repr

/-- Layout CMPI (01 R20): 47:42 PD1, 41:36 PD2, 35:33 CT, 32:29 COND, 28:21 A, 20:0 IMM21. -/
structure CMPI where
  pd1 : BitVec 6
  pd2 : BitVec 6
  ct : BitVec 3
  cond : BitVec 4
  a : BitVec 8
  imm : BitVec 21
  deriving DecidableEq, Repr

/-- Layout MEM (01 R20): 47:40 D, 39:32 BASE, 31:28 MODE, 27:24 HINT, 23:0 OFF24. -/
structure MEM where
  d : BitVec 8
  base : BitVec 8
  mode : BitVec 4
  hint : BitVec 4
  off : BitVec 24
  deriving DecidableEq, Repr

/-- Layout ENG (01 R20): 47:42 KP, 41:39 CMASK, 38:33 KA, 32:27 KB, 26:21 KC, 20:0 EOP. -/
structure ENG where
  kp : BitVec 6
  cmask : BitVec 3
  ka : BitVec 6
  kb : BitVec 6
  kc : BitVec 6
  eop : BitVec 21
  deriving DecidableEq, Repr

/-- Layout SYE (01 R20), below the realign bit: 46:41 KP, 40:38 CMASK, 37:32 KA, 31:26 KB, 25:20 KC, 19:0 EOP. -/
structure SYE where
  kp : BitVec 6
  cmask : BitVec 3
  ka : BitVec 6
  kb : BitVec 6
  kc : BitVec 6
  eop : BitVec 20
  deriving DecidableEq, Repr

/-- Layout SYN (01 R20), below the realign bit: 46:0 per entry. -/
structure SYN where
  bits : BitVec 47
  deriving DecidableEq, Repr

/-- The two queues whose results land by issue-cycle count (04 R89). -/
inductive VQueue where
  | va
  | vb
  deriving DecidableEq, Repr

/-- The six trailing queues (07 R134). -/
inductive Queue where
  | va
  | vb
  | mx
  | mem
  | cp
  | sy
  deriving DecidableEq, Repr

/-- A physical dimension, 0 to 14 (11 R203). -/
abbrev Dim := Nat

/-- A die's physical coordinate (00 R1). -/
abbrev Coord := BitVec 15

/-- The engines that take commands of the core (09 R168, 20 R337, 05 R116, 11 R208), and the sync slot's own productions of
tokens (09 R188, R191). -/
inductive Engine where
  | copy
  | filet
  | l2
  | dim (d : Dim)
  | sync
  deriving DecidableEq, Repr

/-- A FLAG word with its count on the cordonnet (09 R188, 11 R218). `apart` holds the parts of the word behind its first that the range registers map elsewhere: their
places in the word, where they lie, and their lengths (14 R254). -/
structure FlagMsg where
  addr : Nat
  owner : BitVec 16
  value : W64
  cnt : Nat
  die : Coord
  core : BitVec 6
  id : Nat
  apart : List (Nat × Nat × Nat)
  deriving DecidableEq, Repr

/-- Where a contribution to a reduction comes from: a core of this die, or the partner over a logical dimension (25 R388). -/
inductive CSrc where
  | core (c : BitVec 6)
  | dim (l : Nat)
  deriving DecidableEq, Repr

/-- The group that a message of a collective branch is of (25 R388): its kernel, by owner tag and launch tag, its number, and the membership that its sender holds (23 R372, 25
R397). -/
structure GroupId where
  owner : BitVec 16
  ltag : W64
  g : Nat
  gdim : BitVec 15
  gcore : W64
  deriving DecidableEq, Repr

/-- A contribution or partial result of a collective branch (25 R388). -/
structure Contribution where
  id : GroupId
  n : BitVec 32
  any : Bool
  value : Bool
  src : CSrc
  deriving DecidableEq, Repr

/-- The state of a link (11 R214). -/
inductive LinkState where
  | up
  | degraded
  | dead
  deriving DecidableEq, Repr

/-- The messages of the cordonnet (11 R218, 25 R396). `detourAck` and `cordAck` acknowledge a flit, and a
message, to the die that sent it over a detour (11 R216, log 15). -/
inductive CMsg where
  | flag (m : FlagMsg)
  | barrier (owner : BitVec 16) (ltag : W64) (scope : Nat) (die : Coord) (core : BitVec 6)
  | contribution (m : Contribution)
  | result (g : Nat) (n : BitVec 32) (r : Bool)
  | brk (id : GroupId)
  | suspend (id : GroupId)
  | resume (id : GroupId)
  | linkState (coord : Coord) (d : Dim) (st : LinkState)
  | ec (ec : Nat) (v : W64)
  | detourAck (orig dest : Coord) (pseq : BitVec 22)
  | cordAck (orig dest : Coord) (seq : Nat)
  deriving DecidableEq, Repr

/-- A message of the cordonnet on its way: the dies that it is from and for, its number in that pair (log 15), the hops of a detour that it
has begun, and the set of dimensions over which it may detour (11 R215). -/
structure CordMsg where
  orig : Coord
  dest : Coord
  seq : Nat
  via : List Dim
  dims : BitVec 15
  msg : CMsg
  deriving DecidableEq, Repr

/-- One handshake flit's content (12 R232): an ephemeral key, a signature, and the certificate chain. -/
structure AuthMsg where
  key : BitVec 768
  signature : BitVec 768
  chain : List Byte
  deriving DecidableEq, Repr

/-- A remote die's request to a page homed on this die (14 R265): the addresses and lengths of its runs, and the bytes of a write, run after run. An engine's
write names the runs of one sector, which perform together (13 R248). `count` says that it ends a write that FLAG counts (09 R188). -/
structure RemoteReq where
  id : Nat
  core : BitVec 6
  write : Bool
  runs : List (Nat × Nat)
  bytes : List Byte
  owner : BitVec 16
  atom : Option (Nat × W64 × W64)
  count : Bool
  deriving DecidableEq, Repr

/-- The header of an Imoux message and the queue pair that it came on (27 R422). -/
structure MsgHdr where
  qp : Nat
  mtype : BitVec 8
  die : BitVec 3
  seq : BitVec 32
  tag : W64
  reserved : Bool
  deriving DecidableEq, Repr

/-- A page entry that the command processor creates (14 R264, log 25). -/
structure PageDesc where
  large : Bool
  owner : BitVec 16
  frame : Nat
  key : Nat
  uncached : Bool
  ro : Bool
  home : Coord
  deriving DecidableEq, Repr

/-- What the management path assigns to a tenant (26 R404, 14 R432): its allotment, the triples of its range image, and its event counters. -/
structure TenantDesc where
  base : Coord
  mask : BitVec 15
  ranges : List (W64 × W64 × BitVec 52)
  ecs : List Nat
  deriving DecidableEq, Repr

/-- The management registers that the spec names; it gives them no numbers (12 R234, 14 R270, 27 R431, R427, 26 R408). `page` and `tenant` stand for the management path's
way to the page entries (14 R264) and to the tenants (26 R404, 14 R432). -/
inductive MReg where
  | lpctl (d : Dim)
  | migc
  | pwrctl
  | wdogDefault
  | cbtoDefault
  | offload
  | preempt
  | warmReset
  | bind (cq : Nat)
  | page (ia : Nat) (e : Option PageDesc)
  | tenant (owner : BitVec 16) (e : Option TenantDesc)
  | other (n : Nat)
  deriving DecidableEq, Repr

/-- What the management path binds a queue pair to (27 R421). -/
inductive QpRole where
  | management
  | tenant (owner : BitVec 16)
  | unbound
  deriving DecidableEq, Repr

/-- An ingest window (27 R424). -/
structure Window where
  iabase : Nat
  len : Nat
  owner : BitVec 16
  rkey : BitVec 32
  qpset : BitVec 4096
  deriving DecidableEq, Repr

/-- A host-tier region (27 R427). -/
structure Region where
  owner : BitVec 16
  qp : Nat
  rkey : BitVec 32
  base : W64
  len : Nat
  deriving DecidableEq, Repr

/-- The body of NVRD (27 R426). -/
structure NvRead where
  win : Nat
  target : BitVec 32
  ns : Nat
  lba : Nat
  count : Nat
  off : Nat
  ec : Nat
  status : Nat
  deriving DecidableEq, Repr

/-- A message of SPDM (27 R428). -/
inductive SpdmMsg where
  | getVersion
  | getCapabilities
  | negotiateAlgorithms (p384 sha384 : Bool)
  | getDigests
  | getCertificate (off len : Nat)
  | challenge (nonce : BitVec 256)
  | getMeasurements (nonce : BitVec 256)
  deriving DecidableEq, Repr

/-- The body of an Imoux message that the anchor relays to another die of the package (00 R5, 27 R422). -/
inductive HostMsg where
  | cqwr (cq : Nat) (rcd : BitVec 512)
  | mgrd (r : MReg)
  | mgwr (r : MReg) (v : W64)
  | migcClear (v : W64)
  | pwrctlWrite (v : W64)
  | warmReset
  | qpBind (qp : Nat) (role : QpRole)
  | wopen (n : Nat) (w : Window)
  | wclose (n : Nat)
  | ingev (win n : Nat) (inc : W64)
  | nvrd (c : NvRead)
  | htreg (n : Nat) (r : Region)
  | spdm (m : SpdmMsg)
  deriving DecidableEq, Repr

/-- A message to the host, with the host tag that it echoes (27 R422), or a RoCE remote-access NAK. -/
inductive Reply where
  | compl (tag : W64) (cq : Nat) (ltag : Nat) (status : BitVec 256)
  | refuse (h : MsgHdr) (reason : Nat)
  | mgdata (tag : W64) (v : W64)
  | nak (qp : Nat)
  | spdm (tag : W64) (kind : Nat) (body : List Byte)
  deriving DecidableEq, Repr

/-- What a flit's payload carries. The spec gives the payload no layout of its own (12 R221, log 15). -/
inductive Body where
  | empty
  | stream (core : BitVec 6) (bytes : List Byte) (last : Bool)
  | mcast (core : BitVec 6) (mask : BitVec 15) (bytes : List Byte) (last : Bool)
  | request (r : RemoteReq)
  | response (id : Nat) (bytes : List Byte) (last : Bool) (home : Coord)
  | ack (id : Nat) (home : Coord)
  | refuse (id cause : Nat) (home : Coord)
  | home (ia : Nat) (home : Coord)
  | directory (ia : Nat) (home : Coord)
  | streamAck (core : BitVec 6) (mcast : Option (BitVec 15)) (cause : Nat)
  | credit (core : BitVec 6) (dim vectors : Nat)
  | host (h : MsgHdr) (m : HostMsg)
  | heard (qp : Nat)
  | pin (n : Nat) (owner : BitVec 16) (ia len : Nat) (on : Bool)
  | pinned (n : Nat)
  | tier (ia k : Nat) (out : Bool)
  | tierRead (ia n : Nat)
  | reply (r : Reply)
  | messages (ms : List CordMsg)
  | marker (epoch : Nat)
  | linkAck (epoch counter : Nat) (nak : Bool)
  | auth (m : AuthMsg)
  deriving DecidableEq, Repr

/-- A flit (12 R221): the header's fields, what its payload carries, the integrity field, the key epoch and invocation counter under
which it was sealed (12 R228), the hops of a detour that it has begun, closed by 15 plus the dimension of the hop that it replaces, the set of dimensions over which its traffic may detour
(11 R215), the cordonnet message whose second half it bears, and whether its origin has numbered it. -/
structure Flit where
  cord : BitVec 64
  ftype : BitVec 4
  ch : BitVec 2
  orig : Coord
  dest : Coord
  pseq : BitVec 22
  nval : BitVec 6
  body : Body
  via : List Dim
  dims : BitVec 15
  ride : Option CordMsg
  numbered : Bool
  epoch : Nat
  counter : Nat
  tag : BitVec 128
  deriving DecidableEq, Repr

/-- Why shared receivers are granted (12 R226), in order of priority. -/
inductive Purpose where
  | mcast (root : Coord)
  | detour (d : Dim)
  | widen (d : Dim)
  deriving DecidableEq, Repr

/-- A grant of one shared fibre of a hoop group to a colour (12 R225, R226). -/
structure Grant where
  grp : Nat
  fibre : Nat
  colour : BitVec 3
  purpose : Purpose
  deriving DecidableEq, Repr

/-- A record that another die's command processor has selected (26 R433): the record, its tenant, and the class of the kernel that launched it. -/
structure FarRec where
  bits : BitVec 512
  owner : BitVec 16
  cls : Nat
  deriving DecidableEq, Repr

/-- The open choice of a placement (26 R406, R407, R433): the base coordinate, the physical dimension of each
logical one, this die's clusters, whether every other die of the subcube can hold the kernel, and the record where it is another die's. -/
structure Placement where
  base : Coord
  dims : List Dim
  clusters : List Nat
  others : Bool
  far : Option FarRec
  deriving DecidableEq, Repr

/-- What a die takes from the configuration image (27 R429, 14 R263): its coordinate and identity key, the lanes of its links, the links for which it holds equaliser
settings, its disabled cores, its HBM channels, and its installed neighbours. -/
structure ConfigMap where
  coord : Coord
  identity : BitVec 384
  lanes : List (Dim × Nat)
  eqCached : List Dim
  disabled : List Nat
  channels : Nat
  hasNeighbour : List Dim
  deriving DecidableEq, Repr

/-- The configuration image with its signature (27 R429). -/
structure ConfigImage where
  map : ConfigMap
  signature : BitVec 768
  deriving DecidableEq, Repr

/-- A message at the directory die (14 R266): a request for a page's home, or a home update from a move. -/
inductive DirQuery where
  | ask (ia : Nat) (die : Coord)
  | update (ia : Nat) (home : Coord)
  deriving DecidableEq, Repr

/-- The transitions of the machine: one constructor per row of the opcode table, those with operands first. -/
inductive Instr where
  /-- LATCH_LANDS (R89): A VA or VB compute result lands in its destination L issue cycles after it issued. -/
  | latchLands (q : VQueue)
  /-- INTERLOCKED_WRITE_LANDS (R138): A memory-delivered or engine-delivered register value lands, and its scoreboard entry clears. -/
  | interlockedWriteLands (k : Nat)
  /-- THROTTLE_START (R431): The die's draw exceeds LIMIT, so the die withholds issue cycles and sets THR. -/
  | throttleStart (draw : BitVec 16)
  /-- THROTTLE_END (R431): The die's draw falls below LIMIT, and issue resumes at full rate. -/
  | throttleEnd (draw : BitVec 16)
  /-- PREEMPTION_REQUEST (R413): The command processor requests pre-emption of every core of a running kernel. -/
  | preemptionRequest (kernel : Nat)
  /-- ENGINE_COMMAND_START (R167): An engine starts a queued command once its consumed tokens, bobbin counters and source lines allow it. -/
  | engineCommandStart (e : Engine)
  /-- TOKEN_COMPLETION (R167): An engine instruction's work completes and its produced token completes, possibly in the error state. -/
  | tokenCompletion (k : Nat)
  /-- BARRIER_ARRIVAL (R189): A barrier arrival message of scope 3 or 4 arrives over the cordonnet. -/
  | barrierArrival (scope : Nat) (die : BitVec 15) (core : BitVec 6)
  /-- FLIT_RECEIVED (R213): A flit arrives on a link direction, is checked, and its payload is written in per-pair order or relayed onward. -/
  | flitReceived (d : Dim) (f : Flit)
  /-- NAK_REPLAY (R230): A NAK makes the sender replay its flits from the named one out of its replay buffer. -/
  | nakReplay (d : Dim) (epoch : Nat) (counter : Nat)
  /-- ACK_RECEIVED (R230): A cumulative acknowledgement frees replay-buffer entries, and old key slots once they are drained. -/
  | ackReceived (d : Dim) (epoch : Nat) (counter : Nat)
  /-- ACK_TIMEOUT (R230): An acknowledgement missing for 20 µs causes a replay from the oldest unacknowledged flit. -/
  | ackTimeout (d : Dim)
  /-- KEY_SWITCH (R229): The invocation counter reaches 2^39, so the sender derives the next epoch and sends a marker. -/
  | keySwitch (d : Dim)
  /-- CONTROL_FLIT_SEND (R222): A cordonnet message with no data flit within 8 cycles is sent in a control flit. -/
  | controlFlitSend (d : Dim)
  /-- AUTHENTICATION (R232): The authentication handshake exchanges signed ECDH keys, checks the peer's chain and coordinate, and derives PRK. -/
  | authentication (d : Dim) (m : AuthMsg)
  /-- LINK_BRINGUP (R231): A link of dimensions 3 to 14 locks, aligns its lanes and authenticates, trying fast bring-up first. -/
  | linkBringup (d : Dim) (lanes : Nat) (fast : Bool)
  /-- FAST_BRINGUP_TIMEOUT (R231): Lock and alignment are not reached within the fast bound, so full training begins. -/
  | fastBringupTimeout (d : Dim)
  /-- BRINGUP_TIMEOUT (R233): A link still not up 2 ms after a failed fast bring-up or after alignment is declared dead. -/
  | bringupTimeout (d : Dim)
  /-- LANE_FAILURE (R220): A lane fails during traffic and is removed from the stripe after replay. -/
  | laneFailure (d : Dim)
  /-- LINK_STATE_NOTICE (R214): A link-state notice arrives and updates the die's link map. -/
  | linkStateNotice (coord : Coord) (d : Dim) (st : LinkState)
  /-- SHARED_LANE_GRANT (R226): Port controllers grant a die's shared receivers to a colour for an MCST, a detour or widening. -/
  | sharedLaneGrant (g : Grant)
  /-- SHARED_LANE_RELEASE (R226): A grant is released when its purpose ends, or when the queue depth falls to PARKQ. -/
  | sharedLaneRelease (grp : Nat) (fibre : Nat)
  /-- LANE_PARK (R234): The queue depth stays at or below PARKQ for PARKT, so one lane parks. -/
  | lanePark (d : Dim)
  /-- LANE_WAKE (R234): The queue depth reaches WAKEQ, so every parked lane rejoins the stripe. -/
  | laneWake (d : Dim)
  /-- FLAG_WORD_ARRIVES (R188): A FLAG word with its count arrives at its destination die. -/
  | flagWordArrives (m : FlagMsg)
  /-- CBR_RESULT_ARRIVES (R376): The agreed result of a collective branch reaches a member, which commits or rolls back. -/
  | cbrResultArrives (g : Nat) (n : BitVec 32) (r : Bool)
  /-- CBR_CONTRIBUTION_ARRIVES (R388): A contribution or partial result arrives at a die, is combined, and is forwarded or delivered. -/
  | cbrContributionArrives (m : Contribution)
  /-- CBR_BREAK (R377): A break message arrives and marks the group broken on the member. -/
  | cbrBreak (g : Nat)
  /-- CBR_SUSPEND_NOTICE (R396): A suspend notice stops the members' CBTO counts. -/
  | cbrSuspendNotice (g : Nat)
  /-- CBR_RESUME_NOTICE (R396): A resume notice restarts the members' CBTO counts. -/
  | cbrResumeNotice (g : Nat)
  /-- EC_INCREMENT_MESSAGE (R411): An event-counter increment from another die arrives over the cordonnet and is applied atomically. -/
  | ecIncrementMessage (ec : Nat) (v : W64)
  /-- HOME_ACCESS (R265): A request arrives at a page's home, is checked and performed, and is answered. -/
  | homeAccess (k : Nat)
  /-- REMOTE_WRITE_ACK (R236): The acknowledgement of a remote write reaches the writer. -/
  | remoteWriteAck (id : Nat)
  /-- HOME_LOOKUP (R266): The directory die's answer arrives, and the held request is sent to the page's home. -/
  | homeLookup (k : Nat) (home : Coord)
  /-- PAGE_MOVE_COMPLETE (R269): The copy finishes: the directory is updated and the held accesses are forwarded. -/
  | pageMoveComplete (ia : Nat)
  /-- OFFLOAD_START (R427): With free frames below 1/16 of the frames, or on request, a page is set OFFLOADING and copied to the host tier. -/
  | offloadStart (ia : Nat) (region : Nat) (off : Nat)
  /-- OFFLOAD_COMPLETE (R427): The offload copy finishes and the page becomes OFFLOADED. -/
  | offloadComplete (ia : Nat)
  /-- RETURN_COMPLETE (R427): The RDMA READ of a returning page finishes and the page becomes RESIDENT. -/
  | returnComplete (ia : Nat) (ok : Bool)
  /-- REGION_LOST (R427): A host-tier region's queue pair fails, or the host refuses a read, and the region is marked lost. -/
  | regionLost (r : Nat)
  /-- RECORD_SELECTION (R403): The command processor selects an eligible queue head by class and round-robin, and acts on it. -/
  | recordSelection (p : Placement)
  /-- KERNEL_COMPLETION (R409): A record completes: the status is written, DONEEC is incremented and the completion is sent. -/
  | kernelCompletion (k : Nat)
  /-- CQWR (R422): The host appends a 64-byte record to a command queue. -/
  | cqwr (h : MsgHdr) (cq : Nat) (rec : BitVec 512)
  /-- MGRD (R422): A management read of a register, answered by MGDATA. -/
  | mgrd (h : MsgHdr) (r : MReg)
  /-- MGWR (R422): A management write to a register that has no row of its own, such as LPCTL. -/
  | mgwr (h : MsgHdr) (r : MReg) (v : W64)
  /-- MIGC_CLEAR (R270): A management write of 1 to a MIGC field clears that field. -/
  | migcClear (h : MsgHdr) (v : W64)
  /-- PWRCTL_WRITE (R431): A management write sets the die LIMIT, clamped to 100 to 600 W. -/
  | pwrctlWrite (h : MsgHdr) (v : W64)
  /-- WARM_RESET (R430): A warm reset written by MGWR cancels every kernel, refuses the queued records and repeats bring-up from step 2. -/
  | warmReset (h : MsgHdr)
  /-- QP_BIND (R421): The management path binds a queue pair to the management role or to a tenant. -/
  | qpBind (h : MsgHdr) (qp : Nat) (role : QpRole)
  /-- WOPEN (R424): Opens an ingest window and pins its pages. -/
  | wopen (h : MsgHdr) (n : Nat) (w : Window)
  /-- WCLOSE (R422): Closes an ingest window after its writes have performed. -/
  | wclose (h : MsgHdr) (n : Nat)
  /-- RDMA_WRITE (R424): An RDMA WRITE into an ingest window is carried to the page's home and performed, or NAKed. -/
  | rdmaWrite (qp : Nat) (rkey : BitVec 32) (ia : Nat) (bytes : List Byte)
  /-- INGEV (R425): After earlier writes on its queue pair have performed, INGEV increments an event counter. -/
  | ingev (h : MsgHdr) (win : Nat) (ec : Nat) (inc : W64)
  /-- NVRD (R426): Starts an NVMe-over-RDMA read into an ingest window. -/
  | nvrd (h : MsgHdr) (c : NvRead)
  /-- NVRD_COMPLETE (R426): All bytes of an NVMe read have performed: status is written and the counter is incremented. -/
  | nvrdComplete (k : Nat) (status : W64) (bytes : List Byte)
  /-- HTREG (R427): Registers or removes a host-tier region. -/
  | htreg (h : MsgHdr) (n : Nat) (r : Region)
  /-- NEGOTIATE_ALGORITHMS (R428): An SPDM NEGOTIATE_ALGORITHMS request, with P-384 and SHA-384 only. -/
  | negotiateAlgorithms (p384 : Bool) (sha384 : Bool)
  /-- GET_CERTIFICATE (R428): An SPDM GET_CERTIFICATE request returning the device identity chain. -/
  | getCertificate (off : Nat) (len : Nat)
  /-- CHALLENGE (R428): An SPDM CHALLENGE request signed by the device identity key. -/
  | challenge (nonce : BitVec 256)
  /-- GET_MEASUREMENTS (R428): An SPDM GET_MEASUREMENTS request returning the configuration-image and firmware digests. -/
  | getMeasurements (nonce : BitVec 256)
  /-- COLD_RESET (R430): A cold reset verifies the image, brings up the dies, HBM, Ethernet and links, and starts TICK. -/
  | coldReset (img : ConfigImage)
  /-- MOVI (R67): Writes a sign-extended 40-bit immediate to a scalar register. -/
  | movi (o : RI)
  /-- MOVHI (R67): Replaces the high 32 bits of a scalar value with an immediate. -/
  | movhi (o : RRI)
  /-- ADD (R65): Scalar two's-complement addition. -/
  | add (o : RRR)
  /-- SUB (R65): Scalar subtraction. -/
  | sub (o : RRR)
  /-- MUL (R65): Low half of a scalar product. -/
  | mul (o : RRR)
  /-- MULH (R65): High half of the signed scalar product. -/
  | mulh (o : RRR)
  /-- ADDI (R67): Adds a sign-extended immediate. -/
  | addi (o : RRI)
  /-- MULI (R67): Multiplies by a sign-extended immediate. -/
  | muli (o : RRI)
  /-- DIV (R66): Signed division truncated toward zero, with no trap. -/
  | div (o : RRR)
  /-- DIVU (R66): Unsigned division, with no trap. -/
  | divu (o : RRR)
  /-- REM (R66): Signed remainder. -/
  | rem (o : RRR)
  /-- REMU (R66): Unsigned remainder. -/
  | remu (o : RRR)
  /-- MIN (R65): Signed scalar minimum. -/
  | min (o : RRR)
  /-- MAX (R65): Signed scalar maximum. -/
  | max (o : RRR)
  /-- MINU (R65): Unsigned scalar minimum. -/
  | minu (o : RRR)
  /-- MAXU (R65): Unsigned scalar maximum. -/
  | maxu (o : RRR)
  /-- SEL (R65): Selects one of two scalars by a predicate. -/
  | sel (o : RRR)
  /-- ABS (R65): Scalar absolute value. -/
  | abs (o : RRR)
  /-- AND (R65): Scalar bitwise AND. -/
  | and (o : RRR)
  /-- OR (R65): Scalar bitwise OR. -/
  | or (o : RRR)
  /-- XOR (R65): Scalar bitwise exclusive-or. -/
  | xor (o : RRR)
  /-- ANDN (R65): Scalar a and not b. -/
  | andn (o : RRR)
  /-- ANDI (R67): Bitwise AND with a zero-extended immediate. -/
  | andi (o : RRI)
  /-- ORI (R67): Bitwise OR with a zero-extended immediate. -/
  | ori (o : RRI)
  /-- XORI (R67): Bitwise exclusive-or with a zero-extended immediate. -/
  | xori (o : RRI)
  /-- SHL (R65): Scalar shift left by a register amount. -/
  | shl (o : RRR)
  /-- SHR (R65): Scalar logical shift right. -/
  | shr (o : RRR)
  /-- SAR (R65): Scalar arithmetic shift right. -/
  | sar (o : RRR)
  /-- ROL (R65): Scalar rotate left. -/
  | rol (o : RRR)
  /-- SHLI (R67): Shift left by an immediate amount. -/
  | shli (o : RRI)
  /-- SHRI (R67): Logical shift right by an immediate amount. -/
  | shri (o : RRI)
  /-- SARI (R67): Arithmetic shift right by an immediate amount. -/
  | sari (o : RRI)
  /-- CLZ (R65): Counts leading zeros. -/
  | clz (o : RRR)
  /-- CTZ (R65): Counts trailing zeros. -/
  | ctz (o : RRR)
  /-- POPC (R65): Counts one bits. -/
  | popc (o : RRR)
  /-- BSWAP (R65): Reverses byte order. -/
  | bswap (o : RRR)
  /-- EXT (R65): Extracts a bit field. -/
  | ext (o : RRR)
  /-- DEP (R65): Deposits a bit field. -/
  | dep (o : RRR)
  /-- SHADD (R65): Computes (a << n) + b. -/
  | shadd (o : RRR)
  /-- CMP (R68): Signed compare of two registers, writing two predicates under R25. -/
  | cmp (o : CMPF)
  /-- CMPI (R68): Signed compare with an immediate, writing two predicates. -/
  | cmpi (o : CMPI)
  /-- CMPU (R68): Unsigned compare of two registers. -/
  | cmpu (o : CMPF)
  /-- CMPUI (R68): Unsigned compare with an immediate. -/
  | cmpui (o : CMPI)
  /-- PAND (R69): Predicate AND. -/
  | pand (o : RRR)
  /-- POR (R69): Predicate OR. -/
  | por (o : RRR)
  /-- PXOR (R69): Predicate exclusive-or. -/
  | pxor (o : RRR)
  /-- PANDN (R69): Predicate a and not b. -/
  | pandn (o : RRR)
  /-- MOVSP (R69): Writes predicates from a scalar register under a bit mask. -/
  | movsp (o : RRR)
  /-- MOVPS (R69): Copies the predicate file into a scalar register. -/
  | movps (o : RRR)
  /-- MFSR (R70): Reads a special register into a scalar register. -/
  | mfsr (o : RRI)
  /-- MTSR (R70): Writes a special register after earlier bundles drain, subject to access rules. -/
  | mtsr (o : RRI)
  /-- RDLI (R79): Reads the index of a loop level. -/
  | rdli (o : RRR)
  /-- MTAG (R71): Writes an address-generator field and resets its running indices. -/
  | mtag (o : RRR)
  /-- MFAG (R71): Reads an address-generator field. -/
  | mfag (o : RRR)
  /-- MTBB (R72): Writes a bobbin descriptor field, or resets its counters. -/
  | mtbb (o : RRR)
  /-- MFBB (R72): Reads a bobbin descriptor field or counter. -/
  | mfbb (o : RRR)
  /-- BR (R73): Branches to a PC-relative bundle after the whole bundle. -/
  | br (o : BRN)
  /-- CALL (R73): Saves the return address and branches. -/
  | call (o : BRN)
  /-- JMPR (R73): Jumps through a register and saves the link. -/
  | jmpr (o : RRR)
  /-- RET (R74): Returns through a register, or ends the kernel when the register is zero. -/
  | ret (o : RRR)
  /-- LOOP (R76): Pushes a hardware loop level, or skips the body for a count of 0. -/
  | loop (o : BRN)
  /-- BRK (R78): Pops loop levels L0 to Lk and exits past Lk's END. -/
  | brk (o : RI)
  /-- TRAP (R81): Raises the software-trap cause with a code after its bundle executes. -/
  | trap (o : RI)
  /-- LSCALE (R84): Updates the loss-scale exponent and counter, and writes the skip predicate and the scale. -/
  | lscale (o : RRR)
  /-- CBR (R376): Collective branch: sets a mark, contributes a predicate and runs ahead on the prediction. -/
  | cbr (o : BRN)
  /-- CBRX (R378): A handler contributes the predicate owed for a held CBR. -/
  | cbrx (o : RRR)
  /-- MEMBW (R373): Writes a group's membership and clears its SEQ and broken flag. -/
  | membw (o : RRR)
  /-- MEMBR (R373): Reads a group's GDIM or GCORE. -/
  | membr (o : RRR)
  /-- CBST (R374): Returns a group's collective-branch status word. -/
  | cbst (o : RRR)
  /-- BKT (R371): Finds the first boundary not below a count and jumps into a table. -/
  | bkt (o : RRR)
  /-- V_ADD (R92): Vector addition in FP or INT32. -/
  | vAdd (o : RRR)
  /-- V_SUB (R92): Vector subtraction. -/
  | vSub (o : RRR)
  /-- V_MUL (R92): Vector multiplication. -/
  | vMul (o : RRR)
  /-- V_MIN (R93): Vector minimum. -/
  | vMin (o : RRR)
  /-- V_MAX (R93): Vector maximum. -/
  | vMax (o : RRR)
  /-- V_ABS (R93): Vector absolute value. -/
  | vAbs (o : RRR)
  /-- NEG (R93): Vector negation. -/
  | neg (o : RRR)
  /-- V_AND (R95): Vector bitwise AND. -/
  | vAnd (o : RRR)
  /-- V_OR (R95): Vector bitwise OR. -/
  | vOr (o : RRR)
  /-- V_XOR (R95): Vector bitwise exclusive-or. -/
  | vXor (o : RRR)
  /-- V_ANDN (R95): Vector a and not b. -/
  | vAndn (o : RRR)
  /-- V_SHL (R95): Vector shift left. -/
  | vShl (o : RRR)
  /-- V_SHR (R95): Vector logical shift right. -/
  | vShr (o : RRR)
  /-- V_SAR (R95): Vector arithmetic shift right. -/
  | vSar (o : RRR)
  /-- V_MULH (R95): High 32 bits of the vector product. -/
  | vMulh (o : RRR)
  /-- FMA (R92): Fused a × b + c with one rounding. -/
  | fma (o : RRR)
  /-- FMS (R92): Fused a × b − c. -/
  | fms (o : RRR)
  /-- FNMA (R92): Fused c − a × b. -/
  | fnma (o : RRR)
  /-- RCP (R94): Faithful reciprocal. -/
  | rcp (o : RRR)
  /-- RSQ (R94): Faithful reciprocal square root. -/
  | rsq (o : RRR)
  /-- EXP2 (R94): Base-2 exponential. -/
  | exp2 (o : RRR)
  /-- LOG2 (R94): Base-2 logarithm. -/
  | log2 (o : RRR)
  /-- VCMP (R97): Elementwise compare into a mask register. -/
  | vcmp (o : RRR)
  /-- MKAND (R98): Mask AND. -/
  | mkand (o : RRR)
  /-- MKOR (R98): Mask OR. -/
  | mkor (o : RRR)
  /-- MKXOR (R98): Mask exclusive-or. -/
  | mkxor (o : RRR)
  /-- MKNOT (R98): Mask complement. -/
  | mknot (o : RRR)
  /-- SELV (R96): Selects whole elements by a mask. -/
  | selv (o : RRR)
  /-- CVT (R99): Converts one part of a vector between formats. -/
  | cvt (o : RRR)
  /-- BCST (R96): Broadcasts a scalar into every lane. -/
  | bcst (o : RRR)
  /-- PERM (R96): Permutes elements by an index vector. -/
  | perm (o : RRR)
  /-- MOVV (R96): Copies a vector register. -/
  | movv (o : RRR)
  /-- IOTA (R96): Writes an ascending index sequence. -/
  | iota (o : RRR)
  /-- RSUM (R101): Sum reduction by a fixed pairwise tree. -/
  | rsum (o : RRR)
  /-- RMAX (R101): Maximum reduction. -/
  | rmax (o : RRR)
  /-- RMIN (R101): Minimum reduction. -/
  | rmin (o : RRR)
  /-- PART (R102): Sorts element indices by mask bit, with the count. -/
  | part (o : RRR)
  /-- GNORM (R369): Renormalises groups of k elements by their sum. -/
  | gnorm (o : RRR)
  /-- CHB (R290): Opens an MMS chain on an accumulator. -/
  | chb (o : RRR)
  /-- CHE (R290): Closes a chain once its last step has landed. -/
  | che (o : RRR)
  /-- OCLM (R291): Claims an operand slot. -/
  | oclm (o : RRR)
  /-- OREL (R291): Releases an operand slot after its earlier readers finish. -/
  | orel (o : RRR)
  /-- MMS (R295): A matrix step that adds its contribution to the accumulator. -/
  | mms (o : RRR)
  /-- MMZ (R295): A matrix step that overwrites the accumulator with its contribution. -/
  | mmz (o : RRR)
  /-- ACCRD_V (R302): Drains a scaled accumulator into vector registers. -/
  | accrdV (o : RRR)
  /-- ACCRD_SP (R303): Drains a scaled accumulator to memory through a generator. -/
  | accrdSp (o : ENG)
  /-- SCGB (R298): Binds a block-scale geometry to operand A or B. -/
  | scgb (o : RRR)
  /-- CBLD (R300): Loads a codebook table from the scratchpad. -/
  | cbld (o : ENG)
  /-- PRKLD (R305): Loads and checks the pricking rules. -/
  | prkld (o : ENG)
  /-- KNLD (R337): Loads a knot set from the scratchpad. -/
  | knld (o : ENG)
  /-- FCHB (R340): Opens a filet chain on an accumulator. -/
  | fchb (o : RRR)
  /-- SPL (R341): Filet forward step over 16 samples. -/
  | spl (o : RRR)
  /-- SPLD (R341): Filet derivative step over 16 samples. -/
  | spld (o : RRR)
  /-- GREF (R345): Refines a filet grid to twice its intervals. -/
  | gref (o : ENG)
  /-- FDRN (R343): Drains a row group of an accumulator into vector registers. -/
  | fdrn (o : RRR)
  /-- LD_B (R109): Loads a byte, zero-extended. -/
  | ldB (o : MEM)
  /-- LD_H (R109): Loads a half-word, zero-extended. -/
  | ldH (o : MEM)
  /-- LD_W (R109): Loads a word, zero-extended. -/
  | ldW (o : MEM)
  /-- LD_D (R109): Loads a doubleword. -/
  | ldD (o : MEM)
  /-- LD_BS (R109): Loads a byte, sign-extended. -/
  | ldBs (o : MEM)
  /-- LD_HS (R109): Loads a half-word, sign-extended. -/
  | ldHs (o : MEM)
  /-- LD_WS (R109): Loads a word, sign-extended. -/
  | ldWs (o : MEM)
  /-- LD_V (R109): Loads a whole vector. -/
  | ldV (o : MEM)
  /-- LDG (R110): Gathers up to 512 words by an index vector. -/
  | ldg (o : MEM)
  /-- BBACQ (R115): Acquires a bobbin slot, waiting for the counter. -/
  | bbacq (o : MEM)
  /-- LDB (R116): Declares and fills an L2 block. -/
  | ldb (o : ENG)
  /-- XLT (R118): Translates and pins, or unpins, up to 64 pages. -/
  | xlt (o : MEM)
  /-- TOPK (R367): Selects the top K scores of each row with their indices. -/
  | topk (o : MEM)
  /-- POPW (R184): Pops the oldest vector from a stream receive buffer. -/
  | popw (o : MEM)
  /-- AADD (R119): Atomic add. -/
  | aadd (o : MEM)
  /-- AAND (R119): Atomic AND. -/
  | aand (o : MEM)
  /-- AOR (R119): Atomic OR. -/
  | aor (o : MEM)
  /-- AXOR (R119): Atomic exclusive-or. -/
  | axor (o : MEM)
  /-- AMIN (R119): Atomic signed minimum. -/
  | amin (o : MEM)
  /-- AMAX (R119): Atomic signed maximum. -/
  | amax (o : MEM)
  /-- ASWP (R119): Atomic swap. -/
  | aswp (o : MEM)
  /-- ACAS (R119): Atomic compare-and-swap. -/
  | acas (o : MEM)
  /-- AFADD (R119): Atomic FP32 add. -/
  | afadd (o : MEM)
  /-- ST_B (R109): Stores a byte. -/
  | stB (o : MEM)
  /-- ST_H (R109): Stores a half-word. -/
  | stH (o : MEM)
  /-- ST_W (R109): Stores a word. -/
  | stW (o : MEM)
  /-- ST_D (R109): Stores a doubleword. -/
  | stD (o : MEM)
  /-- ST_V (R109): Stores a whole vector. -/
  | stV (o : MEM)
  /-- STS (R110): Scatters words by an index vector. -/
  | sts (o : MEM)
  /-- BBREL (R115): Releases a bobbin slot to the other side. -/
  | bbrel (o : MEM)
  /-- CLRF (R114): Sets scratchpad lines empty. -/
  | clrf (o : MEM)
  /-- CPY (R171): Engine copy between generators or bobbins, with optional conversion. -/
  | cpy (o : ENG)
  /-- CPYT (R173): Copy that starts when TICK reaches a given time. -/
  | cpyt (o : ENG)
  /-- CPYG (R174): Gathers 32 rows by an index vector. -/
  | cpyg (o : ENG)
  /-- CPYS (R174): Scatters 32 rows by an index vector. -/
  | cpys (o : ENG)
  /-- CPYO (R175): Fills rows of a claimed operand slot. -/
  | cpyo (o : ENG)
  /-- TRN (R176): Transposes a square tile. -/
  | trn (o : ENG)
  /-- XCH (R179): Exchanges data with the partner over a logical dimension. -/
  | xch (o : ENG)
  /-- XCMB (R180): Exchanges and combines lanes with the partner. -/
  | xcmb (o : ENG)
  /-- SIB (R179): Sends or receives by a coordinate bit. -/
  | sib (o : ENG)
  /-- GSH (R181): Gray-code ring shift over a dimension mask. -/
  | gsh (o : ENG)
  /-- MCST (R182): Multicasts from a root over shared hoop lanes. -/
  | mcst (o : ENG)
  /-- SPLG (R344): Scatters filet coefficient gradients by atomic adds. -/
  | splg (o : ENG)
  /-- TWAIT (R185): Waits for tokens and holds every queue until they complete. -/
  | twait (o : SYE)
  /-- TJOIN (R185): Joins up to three tokens into one. -/
  | tjoin (o : SYE)
  /-- FENCE (R186): Holds later bundles until earlier accesses have performed within the scope. -/
  | fence (o : SYN)
  /-- DRAIN (R187): Waits for tokens and remote acknowledgements, with a limit. -/
  | drain (o : SYE)
  /-- FLAG (R188): Sends a counted flag word to its home. -/
  | flag (o : SYE)
  /-- BAR (R189): Barrier over the cores of a scope. -/
  | bar (o : SYN)
  /-- FMT (R190): Sets FMTR fields, in force after a four-bundle shadow. -/
  | fmt (o : SYN)
  /-- PFNC (R191): Port fence: acknowledge, set or release a port fence. -/
  | pfnc (o : SYE)
  /-- LWID (R192): Sets the dedicated and shared lane width of a port. -/
  | lwid (o : SYN)
  /-- LAUNCH (R193): Enqueues a launch record on a device queue. -/
  | launch (o : SYE)
  /-- EVWAIT (R194): Waits until an event counter reaches a threshold. -/
  | evwait (o : SYN)
  /-- PORT_SENDS_FLIT (R419): A port chooses the next requester round-robin, with the cordonnet ahead of it, and sends one flit on its route or detour. -/
  | portSendsFlit (d : Dim)
  /-- ACKNOWLEDGEMENT_INTERVAL (R230): The 1 µs interval expires and the receiver sends a cumulative acknowledgement although fewer than 16 flits have arrived. -/
  | acknowledgementInterval (d : Dim)
  /-- RECEIVER_RELOCK (R227): After a circuit change has retuned a shared receiver, the receiver relocks and the port fence is released. -/
  | receiverRelock (grp : Nat) (fibre : Nat)
  /-- FULL_TRAINING_COMPLETE (R231): Full training of a link ends, either with lock and alignment reached, leading to authentication, or failed, leaving the link dead. -/
  | fullTrainingComplete (d : Dim) (ok : Bool) (lanes : Nat)
  /-- DIRECTORY_QUERY (R266): A request for a page's home, or a home update from a move, arrives at the region's directory die, which answers or records it. -/
  | directoryQuery (q : DirQuery)
  /-- BUNDLE_DISPATCH (R134): The front end dispatches one bundle: it executes the scalar slot, captures operands, predicates, the loop-index snapshot and the BSN, and places slots 1 to 7 in their trailing queues. -/
  | bundleDispatch
  /-- REALIGN (R140): Once every earlier bundle has issued and landed, every trailing queue issues the realign bundle. -/
  | realign
  /-- MATRIX_STEP_LANDS (R289): An MMS or MMZ step lands in its accumulator 40 matrix issue cycles after it issued. -/
  | matrixStepLands
  /-- FILET_STEP_LANDS (R342): An SPL or SPLD step lands in its accumulator 44 matrix issue cycles after it issued. -/
  | filetStepLands
  /-- LINE_FILL_RELEASE (R113): A load or operand fetch waiting on an empty scratchpad line resumes when the line becomes full. -/
  | lineFillRelease
  /-- MARK_SET (R122): Once the queues have drained to the point of the mark, the gate performs, the journal empties and a mark is recorded. -/
  | markSet
  /-- ASYNC_TRAP_ENTRY (R155): A pending asynchronous cause is taken between dispatches: the queues drain forward, latch records are saved, and the handler is entered. -/
  | asyncTrapEntry
  /-- TIMER_INTERRUPT (R150): The command processor's per-core timer expires and raises cause 0x30. -/
  | timerInterrupt
  /-- WATCHDOG_EXPIRY (R145): The watchdog count reaches WDOG and raises cause 0x06. -/
  | watchdogExpiry
  /-- MACHINE_CHECK (R165): An uncorrectable soft error in idle architectural state raises cause 0x38. -/
  | machineCheck
  /-- CONTEXT_SAVE (R166): Once every token of the core has completed after a landing, the core saves its 4 MiB context image. -/
  | contextSave
  /-- PREEMPTION_WITHDRAWAL (R415): If some core has not landed 4 ms after the request, the request is withdrawn and the saved cores resume in place. -/
  | preemptionWithdrawal
  /-- CORE_COMPLETION (R74): After a kernel-ending RET, once the queues, latches and tokens have finished, an exit mark is set and the core reports completion. -/
  | coreCompletion
  /-- TIMED_COPY_START (R173): A CPYT in the timed buffer becomes startable once TICK reaches its time T. -/
  | timedCopyStart
  /-- TWAIT_RELEASE (R185): The consumed tokens of a TWAIT or TJOIN complete, so KP completes and the held queues resume. -/
  | twaitRelease
  /-- DRAIN_COMPLETION (R187): The tokens and remote acknowledgements that a DRAIN awaits are complete, so KP completes. -/
  | drainCompletion
  /-- DRAIN_TIMEOUT (R187): A DRAIN's limit expires first and raises cause 0x25. -/
  | drainTimeout
  /-- BARRIER_COMPLETION (R189): Every core of the set has reached the n-th BAR, so the barrier completes. -/
  | barrierCompletion
  /-- EVWAIT_RELEASE (R194): The event counter reaches the EVWAIT threshold, and later bundles issue. -/
  | evwaitRelease
  /-- EVWAIT_TIMEOUT (R194): An EVWAIT's limit expires first and raises cause 0x36. -/
  | evwaitTimeout
  /-- POPW_TIMEOUT (R184): No vector arrives within the POPW limit, so cause 0x22 is raised. -/
  | popwTimeout
  /-- BBACQ_GRANT (R115): A waiting BBACQ is granted when its bobbin counter becomes nonzero. -/
  | bbacqGrant
  /-- FLAG_WORD_WRITE (R188): Once it has performed the counted writes from the sender, the destination writes the flag word. -/
  | flagWordWrite
  /-- COLLECTIVE_TIMEOUT (R377): A member's CBTO count expires: it rolls back, marks the group broken, sends a break and takes 0x33. -/
  | collectiveTimeout
  /-- MIGRATION_INTERVAL (R267): At the end of each 256 µs interval the home judges move candidates. -/
  | migrationInterval
  /-- CLASS_AGEING (R402): Each whole 4 ms that a record is eligible lowers its effective class by one. -/
  | classAgeing
  /-- GET_VERSION (R428): An SPDM GET_VERSION request answered by the die. -/
  | getVersion
  /-- GET_CAPABILITIES (R428): An SPDM GET_CAPABILITIES request answered by the die. -/
  | getCapabilities
  /-- GET_DIGESTS (R428): An SPDM GET_DIGESTS request answered by the die. -/
  | getDigests
  /-- NOP (R18): No operation in any slot; in the sync slot it may carry the realign bit. -/
  | nop
  /-- YIELD (R80): Realign and flush point that restarts the watchdog and lets pre-emption land. -/
  | yield
  /-- ERET (R162): Returns from a handler, restoring the position and FMTR and re-injecting latch records. -/
  | eret
  /-- RWFL (R304): Explicit flush point of the rewrite stage. -/
  | rwfl
  /-- MARK (R122): Sets an explicit mark after its bundle. -/
  | mark
  /-- REALN (R37): Version-1 sync instruction that makes its bundle a realign bundle. -/
  | realn
  /-- STEP_LAST_BEAT (R291): A matrix or filet step works its 32nd beat, which frees the array for the next step and releases an OREL, CPYO, CBLD or GREF waiting on earlier readers. -/
  | stepLastBeat
  deriving DecidableEq, Repr

end Sys2Proof
end

