-- ==== Sys2Proof/Config.lean ====
section
/-! DEFINITION. What the spec leaves open: values that the device chooses within a bound, and the cryptographic functions that the
spec names and does not spell out. Every one is opaque: nothing in Lean can evaluate it. -/

namespace Sys2Proof.Config

/-- The device's RCP, RSQ, EXP2 and LOG2 of an FP32 value (04 R94): a value within the spec's bound is used as it is (log 8). -/
opaque rcp : BitVec 32 → BitVec 32
opaque rsq : BitVec 32 → BitVec 32
opaque exp2 : BitVec 32 → BitVec 32
opaque log2 : BitVec 32 → BitVec 32

/-- The n-th choice of each bit between the old and the new value of a register read across queues (07 R139, log 10). -/
opaque mixed : Nat → BitVec 16384
/-- The n-th choice, byte by byte, between the values before and after a copy's own write (09 R171, log 11). -/
opaque overlapNew : Nat → Nat → Bool
/-- The n-th order of the contributions of a chain: the rank of the i-th of them (18 R320, log 9). -/
opaque chainRank : Nat → Nat → Nat
/-- Which of the values that an element of an accumulator has had since a step's issue the step lands on, at the n-th landing (18 R319, log 9). -/
opaque landsOn : Nat → Nat → Nat
/-- The n-th value that an engine reads of an accumulator element in an open chain (18 R319, log 21). -/
opaque windowWord : Nat → Nat → BitVec 32

/-- What the cores of a kernel that this model does not show report ahead of this one, for the n-th completion (26 R410, log 22). -/
opaque otherStatus : Nat → Option (BitVec 256)

/-- Whether the partner of this core receives the n-th stream into stream registers, so that it goes against credits (11 R210, log 28). -/
opaque partnerWr : Nat → Bool
/-- Whether a link of another die is installed, by its lower end and its dimension (26 R404, R407, log 22). -/
opaque linkInstalled : Coord → Nat → Bool
/-- The clusters of another die with so many working cores (26 R404, log 22). -/
opaque dieClusters : Coord → Nat → Nat
/-- Whether the device finds no place on other dies for a head, at the n-th choice (26 R413, log 22). -/
opaque unplaceable : Nat → Bool
/-- Which of the kernels that are asked to stop is the next to save a context or to have saved its last one (26 R415, log 22). -/
opaque whichSaves : Nat → Nat

/-- The frame that a home gives a page, the n-th time that one is given (14 R264, log 27). -/
opaque freeFrame : Nat → Nat
/-- The free frames that another die offers before this die has seen a page move there (14 R263, R267, log 27). -/
opaque otherFrames : Coord → Nat
/-- The cores of the kernel that no longer run it, the n-th time that the device asks the kernel to stop for another (14 R258, log 27). -/
opaque goneCores : Nat → BitVec 64

/-- The n-th value that the spec names and does not give: the reason code of a REFUSE, and what MGRD answers for a register without a
layout (27 R422, log 23). -/
opaque openWord : Nat → W64
/-- The n-th SPDM message that a die answers of a kind, where its content is that of DMTF SPDM 1.2 and 1.3 (27 R428, log 14). -/
opaque spdmBody : Nat → List Byte → List Byte

/-- The HBM channels that come through training, the n-th time (27 R430, log 23). -/
opaque trainedChannels : Nat → Nat
/-- The die's draw in watts, averaged over the 10 µs before a TICK (27 R431, log 23). -/
opaque drawAt : W64 → BitVec 16
/-- What is signed of an SPDM exchange, from its nonce and the contents that the spec names (27 R428, log 14). -/
opaque spdmTranscript : BitVec 256 → List Byte → List Byte
/-- The bytes of a flit's payload beside the data that it carries (log 15). -/
opaque bodyBytes : Body → List Byte

/-! ### Cryptography (log 14) -/

/-- SHA-384. -/
opaque sha384 : List Byte → BitVec 384
/-- ECDSA P-384 verification of a signature over bytes, under a public key. -/
opaque ecdsaOk : BitVec 768 → List Byte → BitVec 768 → Bool
/-- ECDSA P-384 signature of bytes under an identity key. -/
opaque ecdsaSign : BitVec 384 → List Byte → BitVec 768
/-- The configuration image as on-package flash holds it (27 R429). -/
opaque imageBytes : ConfigMap → List Byte
/-- Ebsal's public key, under which configuration images are signed (27 R429). -/
opaque ebsalKey : BitVec 768
/-- Whether a certificate chain runs to Ebsal's root (12 R232). -/
opaque chainOk : List Byte → Bool
/-- The identity key at the end of a certificate chain. -/
opaque chainKey : List Byte → BitVec 768
/-- The coordinate that a certificate chain certifies (12 R232). -/
opaque chainCoord : List Byte → BitVec 15
/-- The certificate chain of an identity key to Ebsal's root (27 R428). -/
opaque ownChain : BitVec 384 → List Byte
/-- This die's n-th ephemeral ECDH P-384 public key. -/
opaque ephemeral : Nat → BitVec 768
/-- The ECDH shared secret of the n-th ephemeral key with a peer's public key. -/
opaque shared : Nat → BitVec 768 → BitVec 384
/-- HKDF-Extract-SHA-384 with a salt. -/
opaque hkdfExtract : BitVec 384 → BitVec 384 → BitVec 384
/-- The 36 bytes of HKDF-Expand-SHA-384 for a direction byte and an epoch (12 R229): key and salt. -/
opaque hkdfExpand : BitVec 384 → Nat → Nat → BitVec 288
/-- AES-256-GCM (12 R228): under a key, a 96-bit IV, additional data and a plaintext, the ciphertext and the tag. -/
opaque gcm : BitVec 256 → BitVec 96 → List Byte → List Byte → List Byte × BitVec 128
/-- The digest of the command processor's firmware (27 R428). -/
opaque firmwareDigest : BitVec 384

end Sys2Proof.Config
end

