-- ==== Sys2Proof/Machine/Operands.lean ====
section
/-! DEFINITION. The operand forms of the slot instructions: the fields of each layout (01 R20, R21 and the EOP maps of
the entries), the registers that an encoding names (01 R22, R28), and the three checks of an encoding taken alone:
a reserved bit, a register beyond its file, a field value that the entry does not accept (01 R31). -/

namespace Sys2Proof

/-- Bits hi down to lo of a word, as a number. -/
def fieldN {w : Nat} (x : BitVec w) (hi lo : Nat) : Nat := (x.toNat >>> lo) % 2 ^ (hi + 1 - lo)
/-- One bit of a word. -/
def bitB {w : Nat} (x : BitVec w) (i : Nat) : Bool := x.getLsbD i
/-- The sign extension of the low n bits of a number to 64 bits (01 R23). -/
def sextN (n x : Nat) : W64 :=
  if x % 2 ^ n < 2 ^ (n - 1) then BitVec.ofNat 64 (x % 2 ^ n) else BitVec.ofNat 64 (2 ^ 64 - 2 ^ n + x % 2 ^ n)

/-! ### The MOD field (01 R21) -/

def RRR.ef (o : RRR) : Nat := fieldN o.mod 15 12
def RRR.rm (o : RRR) : Nat := fieldN o.mod 11 10
def RRR.sat (o : RRR) : Bool := bitB o.mod 9
def RRR.me (o : RRR) : Bool := bitB o.mod 8
def RRR.mkn (o : RRR) : Nat := fieldN o.mod 7 4
def RRR.xop (o : RRR) : Nat := fieldN o.mod 3 0
/-- TB of a matrix step (16 R292). -/
def RRR.tb (o : RRR) : Bool := bitB o.mod 3
/-- TA of a matrix step (16 R292). -/
def RRR.ta (o : RRR) : Bool := bitB o.mod 2
/-- BSEL of a matrix step (16 R292). -/
def RRR.bsel (o : RRR) : Nat := fieldN o.mod 1 0

/-- CG, PS, ANY and the target offset of CBR (23 R375). -/
def BRN.cg (o : BRN) : Nat := fieldN o.a 7 6
def BRN.ps (o : BRN) : Nat := fieldN o.a 5 0
def BRN.any (o : BRN) : Bool := bitB o.off 39
def BRN.off39 (o : BRN) : W64 := sextN 39 (o.off.toNat % 2 ^ 39)
/-- The byte displacement of a branch (01 R23). -/
def BRN.disp (o : BRN) : W64 := sextN 40 o.off.toNat * 64

def MEM.modeN (o : MEM) : Nat := o.mode.toNat
def MEM.glb (o : MEM) : Bool := bitB o.hint 3
def MEM.nowait (o : MEM) : Bool := bitB o.hint 1
/-- Sc and Vm of an INDEX access (05 R103). -/
def MEM.sc (o : MEM) : Nat := fieldN o.off 15 8
def MEM.vm (o : MEM) : Nat := fieldN o.off 7 0
/-- Sb of an atomic or TOPK (05 R119, 23 R366), and of XLT (05 R117). -/
def MEM.sb (o : MEM) : Nat := fieldN o.off 23 16
def MEM.xltSb (o : MEM) : Nat := fieldN o.off 7 0
def MEM.low16 (o : MEM) : Nat := fieldN o.off 15 0
def MEM.scope (o : MEM) : Nat := fieldN o.hint 2 0

/-- The validated consumed tokens, in the order KA, KB, KC (01 R24). -/
def ENG.consumed (o : ENG) : List Nat :=
  (if bitB o.cmask 0 then [o.ka.toNat] else []) ++ (if bitB o.cmask 1 then [o.kb.toNat] else []) ++
  (if bitB o.cmask 2 then [o.kc.toNat] else [])
def SYE.consumed (o : SYE) : List Nat :=
  (if bitB o.cmask 0 then [o.ka.toNat] else []) ++ (if bitB o.cmask 1 then [o.kb.toNat] else []) ++
  (if bitB o.cmask 2 then [o.kc.toNat] else [])
def ENG.f (o : ENG) (hi lo : Nat) : Nat := fieldN o.eop hi lo
def SYE.f (o : SYE) (hi lo : Nat) : Nat := fieldN o.eop hi lo
def SYN.f (o : SYN) (hi lo : Nat) : Nat := fieldN o.bits hi lo

/-- The elements of each format in a vector register (04 R85). -/
def lanesOf (ef : Nat) : Nat :=
  match ef with
  | 0 => 512 | 8 => 512 | 1 => 1024 | 2 => 1024 | 7 => 1024 | 3 => 2048 | 4 => 2048 | 6 => 2048 | _ => 4096

/-! ### What an encoding names and what its entry refuses -/

/-- The files that a register-number field can name (01 R22). -/
inductive File where
  | s | p | v | mk | ag | acc | o | k | w | bb | cb | kn | lvl | sr | dim
  deriving DecidableEq, Repr

/-- The special registers of 02 R42. -/
def isSpecialReg (n : Nat) : Bool :=
  n ∈ [0x000, 0x001, 0x002, 0x003, 0x008, 0x009, 0x00A, 0x010, 0x011, 0x012, 0x018, 0x019, 0x020, 0x021,
       0x028, 0x029, 0x02A, 0x02B] || (0x040 ≤ n && n < 0x070)

/-- The registers a version has in each file (01 R22, R38). -/
def File.has (ver : Nat) (f : File) (n : Nat) : Bool :=
  match f with
  | .s => n < 64 | .p => n < 64 | .v => if ver = 1 then n < 128 else n < 192 | .mk => n < 16 | .ag => n < 16
  | .acc => n < 8 | .o => n < 32 | .k => n < 64 | .w => n < 15 | .bb => n < 8 | .cb => n < 4 | .kn => n < 4
  | .lvl => n < 6 | .sr => isSpecialReg n | .dim => n < 15

/-- How an access counts for 01 R28: a read, a write, a write of a constant by a combining compare (R26), or
neither (the field is only checked against its file). -/
inductive Use where
  | rd | wr | comb (b : Bool) | none
  deriving DecidableEq, Repr

/-- One register that an encoding names. -/
structure Opd where
  file : File
  n : Nat
  use : Use
  deriving DecidableEq, Repr

/-- What an encoding gives the checks of 01 R31: a set reserved bit, the registers named, a refused field value. -/
structure Form where
  rsv : Bool
  ops : List Opd
  bad : Bool
  deriving DecidableEq, Repr

def rS (x : BitVec 8) : Opd := ⟨.s, x.toNat, .rd⟩
def wS (x : BitVec 8) : Opd := ⟨.s, x.toNat, .wr⟩
def rP (x : BitVec 8) : Opd := ⟨.p, x.toNat, .rd⟩
def wP (x : BitVec 8) : Opd := ⟨.p, x.toNat, .wr⟩
def rV (x : BitVec 8) : Opd := ⟨.v, x.toNat, .rd⟩
def wV (x : BitVec 8) : Opd := ⟨.v, x.toNat, .wr⟩
def rMK (x : BitVec 8) : Opd := ⟨.mk, x.toNat, .rd⟩
def wMK (x : BitVec 8) : Opd := ⟨.mk, x.toNat, .wr⟩

/-- An ALU instruction of 03 R64: the formats it accepts, and which of B, C and XOP its entry uses. -/
def aluForm (o : RRR) (efs : List Nat) (ops : List Opd) (useB useC useX : Bool) : Form :=
  { rsv := o.me || o.mkn != 0 || (!useX && o.xop != 0) || (!useB && o.b != 0) || (!useC && o.c != 0)
    ops := ops
    bad := !(efs.contains o.ef) || o.rm != 0 || o.sat }
/-- S[D], S[A] and S[B], formats 8 and 9. -/
def alu3 (o : RRR) : Form := aluForm o [8, 9] [wS o.d, rS o.a, rS o.b] true false false
/-- S[D] and S[A], formats 8 and 9. -/
def alu2 (o : RRR) : Form := aluForm o [8, 9] [wS o.d, rS o.a] false false false
/-- S[D], S[A] and S[B], format 9 only. -/
def alu39 (o : RRR) : Form := aluForm o [9] [wS o.d, rS o.a, rS o.b] true false false
/-- An RRR scalar instruction outside the ALU (03 R64): MOD 15:4 reserved. -/
def ctlForm (o : RRR) (ops : List Opd) (useD useA useB useX bad : Bool) : Form :=
  { rsv := fieldN o.mod 15 4 != 0 || (!useX && o.xop != 0) || (!useD && o.d != 0) || (!useA && o.a != 0)
      || (!useB && o.b != 0) || o.c != 0
    ops := ops, bad := bad }
/-- S[D] and S[A] with an immediate. -/
def immForm (o : RRI) (rsv : Bool) : Form := { rsv := rsv, ops := [wS o.d, rS o.a], bad := false }
/-- The two predicates of a compare (01 R25, R26). -/
def cmpOps (pd1 pd2 : BitVec 6) (ct : BitVec 3) : List Opd :=
  match fieldN ct 1 0 with
  | 2 => [⟨.p, pd1.toNat, .comb false⟩, ⟨.p, pd2.toNat, .comb true⟩]
  | 3 => [⟨.p, pd1.toNat, .comb true⟩, ⟨.p, pd2.toNat, .comb false⟩]
  | _ => [⟨.p, pd1.toNat, .wr⟩, ⟨.p, pd2.toNat, .wr⟩]
def cmpBad (ver : Nat) (pd1 pd2 : BitVec 6) (ct : BitVec 3) (cond : BitVec 4) : Bool :=
  7 < cond.toNat || (ver = 1 && 3 < ct.toNat) || (pd1 = pd2 && pd1 != 0)

/-- A vector instruction (04 R87): MKN is reserved without ME, and MK[MKN] is read with it (R86). -/
def vecForm (o : RRR) (ops : List Opd) (useB useC : Bool) : Form :=
  { rsv := (!useB && o.b != 0) || (!useC && o.c != 0) || (!o.me && o.mkn != 0)
    ops := ops ++ (if o.me then [⟨.mk, o.mkn, .rd⟩] else [])
    bad := false }
def vec3 (o : RRR) : Form := vecForm o [wV o.d, rV o.a, rV o.b] true false
def vec2 (o : RRR) : Form := vecForm o [wV o.d, rV o.a] false false
def vecFma (o : RRR) : Form := vecForm o [wV o.d, rV o.a, rV o.b, rV o.c] true true
def vecMk (o : RRR) (ops : List Opd) (useB : Bool) : Form := vecForm o ops useB false

/-- What a matrix-slot RRR instruction leaves reserved. -/
def mxForm (o : RRR) (ops : List Opd) (useA useB useC : Bool) (modRsv bad : Bool) : Form :=
  { rsv := (!useA && o.a != 0) || (!useB && o.b != 0) || (!useC && o.c != 0) || modRsv, ops := ops, bad := bad }
/-- The consecutive vector registers that a drain writes, those of them that exist (16 R302). -/
def drainOps (ver d n : Nat) (lenient : Bool) : List Opd :=
  ((List.range n).map fun k => (⟨.v, d + k, .wr⟩ : Opd)).filter
    fun x => !lenient || File.has ver .v x.n || x.n = d
/-- Registers that ACCRD.v fills for a format (16 R302). -/
def accRegs (ef : Nat) : Nat := 4096 / lanesOf ef
/-- Registers that FDRN fills for a format (20 R343). -/
def fdrnRegs (ef : Nat) : Nat := max 1 (1024 / lanesOf ef)
def isDrainFmt (ef : Nat) (sat : Bool) : Bool := ef ≤ 8 && (ef != 5 || sat)

/-- The token fields of ENG and SYE (01 R24): unvalidated fields are reserved, and KP is not consumed. -/
def tokForm (kp ka kb kc : BitVec 6) (cmask : BitVec 3) : Form :=
  { rsv := (!bitB cmask 0 && ka != 0) || (!bitB cmask 1 && kb != 0) || (!bitB cmask 2 && kc != 0)
    ops := ⟨.k, kp.toNat, .wr⟩ :: ((if bitB cmask 0 then [⟨.k, ka.toNat, .rd⟩] else [])
      ++ (if bitB cmask 1 then [⟨.k, kb.toNat, .rd⟩] else []) ++ (if bitB cmask 2 then [⟨.k, kc.toNat, .rd⟩] else []))
    bad := (bitB cmask 0 && ka = kp) || (bitB cmask 1 && kb = kp) || (bitB cmask 2 && kc = kp) }
def engForm (o : ENG) (ops : List Opd) (rsv bad : Bool) : Form :=
  let t := tokForm o.kp o.ka o.kb o.kc o.cmask
  { rsv := t.rsv || rsv, ops := t.ops ++ ops, bad := t.bad || bad }
def syeForm (o : SYE) (ops : List Opd) (rsv bad : Bool) : Form :=
  let t := tokForm o.kp o.ka o.kb o.kc o.cmask
  { rsv := t.rsv || rsv, ops := t.ops ++ ops, bad := t.bad || bad }
/-- An access through a generator counts as a write of it (05 R108). -/
def wAG (n : Nat) : Opd := ⟨.ag, n, .wr⟩
def rSn (n : Nat) : Opd := ⟨.s, n, .rd⟩
def rVn (n : Nat) : Opd := ⟨.v, n, .rd⟩
def rO (n : Nat) : Opd := ⟨.o, n, .rd⟩

/-- A load or store through MODE 0 or 1 (05 R103, R104). -/
def memForm (o : MEM) (d : Opd) (store : Bool) : Form :=
  { rsv := bitB o.hint 0 || (o.modeN = 1 && o.off != 0)
    ops := d :: (match o.modeN with | 0 => [rS o.base] | 1 => [wAG o.base.toNat] | _ => [])
    bad := 1 < o.modeN || (store && o.nowait) }
/-- LDG and STS: MODE 2 (05 R103, R110). -/
def idxForm (o : MEM) (d : Opd) (store : Bool) : Form :=
  { rsv := bitB o.hint 0 || (o.modeN = 2 && fieldN o.off 23 16 != 0)
    ops := d :: (if o.modeN = 2 then [rS o.base, rVn o.vm, rSn o.sc] else [])
    bad := o.modeN != 2 || (store && o.nowait) }
def atomForm (o : MEM) (rdD : Bool) : Form :=
  { rsv := bitB o.hint 3
    ops := [wS o.d, rS o.base, rSn o.sb] ++ (if rdD then [rS o.d] else [])
    bad := o.modeN != 0 || 4 < o.scope }

/-- A copy side: a generator or a bobbin (09 R170). -/
def copySide (bob : Bool) (n : Nat) : Opd := if bob then ⟨.bb, n, .wr⟩ else wAG n
def cpyForm (o : ENG) (timed : Bool) : Form :=
  let db := bitB o.eop 16
  let sb := bitB o.eop 11
  let sz := o.f 10 8
  let cv := o.f 7 6
  engForm o ([copySide db (o.f 20 17), copySide sb (o.f 15 12)] ++ (if timed then [rSn (o.f 5 0)] else []))
    (!timed && o.f 5 0 != 0)
    ((db && sb) || ((db || sb) && 5 < sz) || cv = 3 || (cv != 0 && sz < 3))
/-- XCH, XCMB and SIB (09 R178). -/
def dimForm (o : ENG) (rsv bad : Bool) : Form :=
  let wr := bitB o.eop 8
  engForm o ([⟨.dim, o.f 20 17, .none⟩, wAG (o.f 16 13)] ++ (if wr then [⟨.w, o.f 20 17, .wr⟩] else [wAG (o.f 12 9)]))
    (rsv || (wr && o.f 12 9 != 0)) bad

/-- The generator or slot that each operand of a step names (16 R292). -/
def stepOps (o : RRR) : List Opd :=
  [⟨.acc, o.d.toNat, .wr⟩, (if o.ta then wAG o.a.toNat else rO o.a.toNat),
   (if o.tb then wAG o.b.toNat else rO o.b.toNat)] ++ (if o.bsel = 1 then [⟨.cb, o.c.toNat, .rd⟩] else [])
def stepForm (ver : Nat) (o : RRR) : Form :=
  mxForm o (stepOps o) true true (o.bsel = 1) (o.mkn != 0)
    (o.rm != 0 || o.sat || o.me || o.bsel = 3 || (o.bsel = 1 && (ver = 1 || o.tb)))
def accOp (o : RRR) : List Opd := [⟨.acc, o.d.toNat, .rd⟩]
def slotOp (o : RRR) : List Opd := [⟨.o, o.d.toNat, .rd⟩]

/-- The form of every slot instruction in an encoding version, from its entry. Of NOP, YIELD, ERET, RWFL, MARK and REALN every
operand bit is reserved: the decoder checks those bits, and the term does not hold them. Events have no encoding. -/
def form (ver : Nat) (i : Instr) : Form :=
  match i with
  | .nop => ⟨false, [], false⟩
  | .movi o => ⟨false, [wS o.d], false⟩
  | .movhi o => immForm o false
  | .addi o => immForm o false
  | .muli o => immForm o false
  | .andi o => immForm o false
  | .ori o => immForm o false
  | .xori o => immForm o false
  | .shli o => immForm o (fieldN o.imm 31 6 != 0)
  | .shri o => immForm o (fieldN o.imm 31 6 != 0)
  | .sari o => immForm o (fieldN o.imm 31 6 != 0)
  | .add o => alu3 o
  | .sub o => alu3 o
  | .mul o => alu3 o
  | .mulh o => alu3 o
  | .div o => alu3 o
  | .divu o => alu3 o
  | .rem o => alu3 o
  | .remu o => alu3 o
  | .min o => alu3 o
  | .max o => alu3 o
  | .minu o => alu3 o
  | .maxu o => alu3 o
  | .sel o => aluForm o [9] [wS o.d, rS o.a, rS o.b, rP o.c] true true false
  | .abs o => alu2 o
  | .and o => alu39 o
  | .or o => alu39 o
  | .xor o => alu39 o
  | .andn o => alu39 o
  | .shl o => alu3 o
  | .shr o => alu3 o
  | .sar o => alu3 o
  | .rol o => alu3 o
  | .clz o => alu2 o
  | .ctz o => alu2 o
  | .popc o => alu2 o
  | .bswap o => alu2 o
  | .ext o => alu39 o
  | .dep o => aluForm o [9] [wS o.d, rS o.a, rS o.b, rS o.c] true true false
  | .shadd o => aluForm o [8, 9] [wS o.d, rS o.a, rS o.b] true false true
  | .cmp o => ⟨o.rsv != 0, cmpOps o.pd1 o.pd2 o.ct ++ [rS o.a, rS o.b], cmpBad ver o.pd1 o.pd2 o.ct o.cond⟩
  | .cmpu o => ⟨o.rsv != 0, cmpOps o.pd1 o.pd2 o.ct ++ [rS o.a, rS o.b], cmpBad ver o.pd1 o.pd2 o.ct o.cond⟩
  | .cmpi o => ⟨false, cmpOps o.pd1 o.pd2 o.ct ++ [rS o.a], cmpBad ver o.pd1 o.pd2 o.ct o.cond⟩
  | .cmpui o => ⟨false, cmpOps o.pd1 o.pd2 o.ct ++ [rS o.a], cmpBad ver o.pd1 o.pd2 o.ct o.cond⟩
  | .pand o => ctlForm o [wP o.d, rP o.a, rP o.b] true true true false false
  | .por o => ctlForm o [wP o.d, rP o.a, rP o.b] true true true false false
  | .pxor o => ctlForm o [wP o.d, rP o.a, rP o.b] true true true false false
  | .pandn o => ctlForm o [wP o.d, rP o.a, rP o.b] true true true false false
  | .movsp o => ctlForm o ([rS o.a, rS o.b] ++ (List.range 63).map fun k => ⟨.p, k + 1, .wr⟩)
      false true true false false
  | .movps o => ctlForm o (wS o.d :: (List.range 63).map fun k => ⟨.p, k + 1, .rd⟩) true false false false false
  | .mfsr o => ⟨o.a != 0 || fieldN o.imm 31 12 != 0, [wS o.d, ⟨.sr, fieldN o.imm 11 0, .rd⟩], false⟩
  | .mtsr o => ⟨o.d != 0 || fieldN o.imm 31 12 != 0, [rS o.a, ⟨.sr, fieldN o.imm 11 0, .wr⟩], false⟩
  | .rdli o => ctlForm o [wS o.d, ⟨.lvl, o.a.toNat, .rd⟩] true true false false false
  | .mtag o => ctlForm o [wAG o.d.toNat, rS o.a] true true false true (9 < o.xop)
  | .mfag o => ctlForm o [wS o.d, ⟨.ag, o.a.toNat, .rd⟩] true true false true (9 < o.xop)
  | .mtbb o => ctlForm o [⟨.bb, o.d.toNat, .wr⟩, rS o.a] true true false true (!([0, 1, 2, 5].contains o.xop))
  | .mfbb o => ctlForm o [wS o.d, ⟨.bb, o.a.toNat, .rd⟩] true true false true (4 < o.xop)
  | .br o => ⟨o.a != 0, [], false⟩
  | .call o => ⟨false, [wS o.a], false⟩
  | .jmpr o => ctlForm o [wS o.d, rS o.a] true true false false false
  | .ret o => ctlForm o [rS o.a] false true false false false
  | .loop o => ⟨false, [rS o.a], o.off = 0 || bitB o.off 39⟩
  | .brk o => ⟨o.imm != 0, [⟨.lvl, o.d.toNat, .wr⟩], false⟩
  | .yield => ⟨false, [], false⟩
  | .trap o => ⟨o.d != 0 || fieldN o.imm 39 16 != 0, [], false⟩
  | .eret => ⟨false, [], false⟩
  | .lscale o => ctlForm o [wP o.d, rP o.a, wS o.b] true true true false false
  | .cbr o => ⟨false, [⟨.p, o.ps, .rd⟩], false⟩
  | .cbrx o => ctlForm o [rP o.a] true true false false (3 < o.d.toNat)
  | .membw o => ctlForm o [rS o.a, rS o.b] true true true false (3 < o.d.toNat)
  | .membr o => ctlForm o [wS o.d] true true false true (3 < o.a.toNat || 1 < o.xop)
  | .cbst o => ctlForm o [wS o.d] true true false false (3 < o.a.toNat)
  | .bkt o => ctlForm o [wS o.d, rS o.a, rS o.b, rSn (o.b.toNat + 1), rSn (o.b.toNat + 2), rSn (o.b.toNat + 3)]
      true true true true false
  | .vAdd o => vec3 o
  | .vSub o => vec3 o
  | .vMul o => vec3 o
  | .vMin o => vec3 o
  | .vMax o => vec3 o
  | .vAbs o => vec2 o
  | .neg o => vec2 o
  | .vAnd o => vec3 o
  | .vOr o => vec3 o
  | .vXor o => vec3 o
  | .vAndn o => vec3 o
  | .vShl o => vec3 o
  | .vShr o => vec3 o
  | .vSar o => vec3 o
  | .vMulh o => vec3 o
  | .fma o => vecFma o
  | .fms o => vecFma o
  | .fnma o => vecFma o
  | .rcp o => vec2 o
  | .rsq o => vec2 o
  | .exp2 o => vec2 o
  | .log2 o => vec2 o
  | .vcmp o => vecForm o [wMK o.d, rV o.a, rV o.b] true false
  | .mkand o => vecMk o [wMK o.d, rMK o.a, rMK o.b] true
  | .mkor o => vecMk o [wMK o.d, rMK o.a, rMK o.b] true
  | .mkxor o => vecMk o [wMK o.d, rMK o.a, rMK o.b] true
  | .mknot o => vecMk o [wMK o.d, rMK o.a] false
  | .selv o => vecForm o [wV o.d, rV o.a, rV o.b, rMK o.c] true true
  | .cvt o =>
      let f := vecForm o [wV o.d, rV o.a] true false
      { f with rsv := f.rsv || fieldN o.b 7 4 != 0 }
  | .bcst o => vecForm o [wV o.d, rS o.a] false false
  | .perm o => vec3 o
  | .movv o => vec2 o
  | .iota o => vecForm o [wV o.d, rS o.a] false false
  | .rsum o => vec2 o
  | .rmax o => vec2 o
  | .rmin o => vec2 o
  | .part o => vecMk o [wV o.d, rMK o.a] false
  | .gnorm o => vec2 o
  | .chb o => mxForm o (accOp o) false false false (o.mod != 0) false
  | .che o => mxForm o (accOp o) false false false (o.mod != 0) false
  | .oclm o => mxForm o (slotOp o) false false false (o.mod != 0) false
  | .orel o => mxForm o (slotOp o) false false false (o.mod != 0) false
  | .mms o => stepForm ver o
  | .mmz o => stepForm ver o
  | .accrdV o =>
      mxForm o (drainOps ver o.d.toNat (accRegs (if o.ef = 15 then 0 else o.ef)) (o.ef = 15)
          ++ [⟨.acc, o.a.toNat, .rd⟩, rS o.b]) true true false (o.mkn != 0 || o.xop != 0)
        (o.me || (o.ef != 15 && !isDrainFmt o.ef o.sat))
  | .accrdSp o =>
      engForm o [⟨.acc, o.f 20 18, .rd⟩, wAG (o.f 17 14), rSn (o.f 13 8)] (bitB o.eop 0)
        (o.f 7 4 != 15 && !isDrainFmt (o.f 7 4) (bitB o.eop 1))
  | .scgb o =>
      mxForm o (if o.xop % 4 = 0 then [] else [⟨.ag, o.d.toNat, .rd⟩]) false false false
        (o.mkn != 0 || bitB o.mod 3 || (o.xop % 4 = 0 && o.d != 0))
        (o.ef != 0 || o.rm != 0 || o.sat || o.me || o.xop % 4 = 3)
  | .cbld o => engForm o [⟨.cb, o.f 20 19, .wr⟩, rSn (o.f 18 13)] (o.f 12 0 != 0) false
  | .rwfl => ⟨false, [], false⟩
  | .prkld o => engForm o [rSn (o.f 20 15)] (o.f 7 0 != 0) (64 < o.f 14 8)
  | .knld o => engForm o [⟨.kn, o.f 20 19, .wr⟩, rSn (o.f 18 13)] (o.f 12 0 != 0) false
  | .fchb o =>
      mxForm o [⟨.acc, o.d.toNat, .rd⟩, rO o.a.toNat, ⟨.kn, o.b.toNat, .rd⟩] true true false
        (fieldN o.mod 15 1 != 0) (32 < o.a.toNat + (if bitB o.mod 0 then 16 else 8))
  | .spl o =>
      mxForm o [⟨.acc, o.d.toNat, .wr⟩, rO o.a.toNat] true false false (o.mkn != 0 || bitB o.mod 3)
        (o.ef != 0 || o.rm != 0 || o.sat || o.me)
  | .spld o =>
      mxForm o [⟨.acc, o.d.toNat, .wr⟩, rO o.a.toNat, rO o.b.toNat] true true false (o.mkn != 0 || bitB o.mod 3)
        (o.ef != 0 || o.rm != 0 || o.sat || o.me)
  | .gref o =>
      engForm o [⟨.o, o.f 20 16, .wr⟩, rO (o.f 15 11), ⟨.kn, o.f 10 9, .wr⟩, ⟨.kn, o.f 8 7, .rd⟩] (o.f 6 0 != 0) false
  | .fdrn o =>
      mxForm o (drainOps ver o.d.toNat (fdrnRegs (if o.ef = 15 then 0 else o.ef)) (o.ef = 15)
          ++ [⟨.acc, o.a.toNat, .rd⟩]) true false false (o.mkn != 0 || fieldN o.mod 3 2 != 0)
        (o.me || (o.ef != 15 && !isDrainFmt o.ef o.sat))
  | .ldB o => memForm o (wS o.d) false
  | .ldH o => memForm o (wS o.d) false
  | .ldW o => memForm o (wS o.d) false
  | .ldD o => memForm o (wS o.d) false
  | .ldBs o => memForm o (wS o.d) false
  | .ldHs o => memForm o (wS o.d) false
  | .ldWs o => memForm o (wS o.d) false
  | .ldV o => memForm o (wV o.d) false
  | .ldg o => idxForm o (wV o.d) false
  | .bbacq o => ⟨o.mode != 0 || o.off != 0 || fieldN o.hint 3 1 != 0, [wS o.d, ⟨.bb, o.base.toNat, .wr⟩], false⟩
  | .ldb o => engForm o [rSn (o.f 20 15)] (o.f 8 0 != 0) false
  | .xlt o => ⟨fieldN o.off 23 8 != 0 || fieldN o.hint 3 1 != 0, [wS o.d, rS o.base, rSn o.xltSb], o.modeN != 0⟩
  | .topk o =>
      ⟨bitB o.hint 3 || bitB o.hint 2 || bitB o.hint 0,
       [wV o.d, ⟨.v, o.d.toNat + 1, .wr⟩, rS o.base, rSn o.sb], o.modeN != 0 || o.low16 % 4 != 0⟩
  | .popw o => ⟨o.hint != 0, [wV o.d, ⟨.w, o.base.toNat, .wr⟩], o.modeN != 0⟩
  | .aadd o => atomForm o false
  | .aand o => atomForm o false
  | .aor o => atomForm o false
  | .axor o => atomForm o false
  | .amin o => atomForm o false
  | .amax o => atomForm o false
  | .aswp o => atomForm o false
  | .acas o => atomForm o true
  | .afadd o => atomForm o false
  | .stB o => memForm o (rS o.d) true
  | .stH o => memForm o (rS o.d) true
  | .stW o => memForm o (rS o.d) true
  | .stD o => memForm o (rS o.d) true
  | .stV o => memForm o (rV o.d) true
  | .sts o => idxForm o (rV o.d) true
  | .bbrel o => ⟨o.mode != 0 || o.off != 0 || fieldN o.hint 3 1 != 0 || o.d != 0, [⟨.bb, o.base.toNat, .wr⟩], false⟩
  | .mark => ⟨false, [], false⟩
  | .clrf o => ⟨o.hint != 0, [rS o.d, rS o.base], o.modeN != 0⟩
  | .cpy o => cpyForm o false
  | .cpyt o => cpyForm o true
  | .cpyg o => engForm o [wAG (o.f 20 17), rVn (o.f 16 9), rSn (o.f 8 3)] false false
  | .cpys o => engForm o [wAG (o.f 20 17), rVn (o.f 16 9), rSn (o.f 8 3)] false false
  | .cpyo o => engForm o [⟨.o, o.f 20 16, .wr⟩, wAG (o.f 15 12)] false (64 < o.f 11 6 + o.f 5 0 + 1)
  | .trn o => engForm o [wAG (o.f 20 17), wAG (o.f 16 13)] (o.f 4 0 != 0) (o.f 12 11 = 3)
  | .xch o => dimForm o (o.f 4 0 != 0) false
  | .xcmb o => dimForm o (o.f 1 0 != 0) (o.f 4 2 = 7)
  | .sib o => dimForm o false false
  | .gsh o => engForm o [rSn (o.f 20 15), wAG (o.f 14 11), wAG (o.f 10 7)] (o.f 2 0 != 0) false
  | .mcst o => engForm o [rSn (o.f 20 15), wAG (o.f 14 11), wAG (o.f 10 7)] (o.f 3 0 != 0) false
  | .splg o => engForm o [wAG (o.f 20 17), rO (o.f 16 12), rO (o.f 11 7), ⟨.kn, o.f 6 5, .rd⟩] (o.f 3 0 != 0) false
  | .twait o => syeForm o [] (o.f 19 0 != 0) false
  | .tjoin o => syeForm o [] (o.f 19 0 != 0) false
  | .fence o => ⟨o.f 46 3 != 0, [], 4 < o.f 2 0⟩
  | .drain o => syeForm o [] false false
  | .flag o => syeForm o [rSn (o.f 19 14), rSn (o.f 13 8)] (o.f 7 0 != 0) false
  | .bar o => ⟨o.f 46 3 != 0, [], o.f 2 0 = 0 || 4 < o.f 2 0⟩
  | .fmt o =>
      ⟨o.f 46 25 != 0 || (List.range 5).any fun j => !bitB o.bits (20 + j) && o.f (4 * j + 3) (4 * j) != 0, [],
       (List.range 5).any fun j => bitB o.bits (20 + j) && 9 < o.f (4 * j + 3) (4 * j)⟩
  | .pfnc o => syeForm o [] (o.f 13 0 != 0) (o.f 15 14 = 3)
  | .lwid o => ⟨o.f 46 20 != 0 || o.f 15 10 != 0, [], false⟩
  | .launch o => syeForm o [rSn (o.f 17 12)] (o.f 11 0 != 0) false
  | .evwait o => ⟨o.f 46 24 != 0, [rSn (o.f 15 10)], false⟩
  | .realn => ⟨false, [], false⟩
  | _ => ⟨false, [], false⟩

/-! ### The format checks (04 R87, R88; 16 R293, R301; 20 R343; 23 R368; 09 R170) -/

/-- The modifiers of a floating-point operation that rounds: any RM, no SAT, no XOP. -/
def rndOk (o : RRR) : Bool := !o.sat && o.xop = 0
/-- No RM, SAT or XOP. -/
def plainOk (o : RRR) : Bool := o.rm = 0 && !o.sat && o.xop = 0
/-- CVT from sf to df (04 R88, R99, R100). -/
def cvtOk (o : RRR) (df sf : Nat) : Bool :=
  df ≤ 8 && sf ≤ 8 && df != sf && (df != 5 || o.sat) &&
  o.xop < max (lanesOf df) (lanesOf sf) / min (lanesOf df) (lanesOf sf)

/-- Whether a vector instruction accepts format ef (and source format sf, for CVT) with its modifiers. -/
def vecOk (i : Instr) (ef sf : Nat) : Bool :=
  match i with
  | .vAdd o => if ef = 8 then o.rm = 0 && o.xop = 0 else ef ≤ 1 && rndOk o
  | .vSub o => if ef = 8 then o.rm = 0 && o.xop = 0 else ef ≤ 1 && rndOk o
  | .vMul o => if ef = 8 then plainOk o else ef ≤ 1 && rndOk o
  | .vMin o => o.rm = 0 && !o.sat && (if ef = 8 then o.xop ≤ 1 else ef ≤ 1 && o.xop = 0)
  | .vMax o => o.rm = 0 && !o.sat && (if ef = 8 then o.xop ≤ 1 else ef ≤ 1 && o.xop = 0)
  | .vAbs o => (ef = 8 || ef ≤ 1) && plainOk o
  | .neg o => (ef = 8 || ef ≤ 1) && plainOk o
  | .vAnd o => ef = 8 && plainOk o
  | .vOr o => ef = 8 && plainOk o
  | .vXor o => ef = 8 && plainOk o
  | .vAndn o => ef = 8 && plainOk o
  | .vShl o => ef = 8 && plainOk o
  | .vShr o => ef = 8 && plainOk o
  | .vSar o => ef = 8 && plainOk o
  | .vMulh o => ef = 8 && o.rm = 0 && !o.sat && o.xop ≤ 1
  | .fma o => ef ≤ 1 && rndOk o
  | .fms o => ef ≤ 1 && rndOk o
  | .fnma o => ef ≤ 1 && rndOk o
  | .rcp o => ef ≤ 1 && plainOk o
  | .rsq o => ef ≤ 1 && plainOk o
  | .exp2 o => ef ≤ 1 && plainOk o
  | .log2 o => ef ≤ 1 && plainOk o
  | .vcmp o => (ef = 0 || ef = 8) && o.rm = 0 && !o.sat && o.xop ≤ 7
  | .mkand o => o.ef = 0 && plainOk o && !o.me
  | .mkor o => o.ef = 0 && plainOk o && !o.me
  | .mkxor o => o.ef = 0 && plainOk o && !o.me
  | .mknot o => o.ef = 0 && plainOk o && !o.me
  | .part o => o.ef = 0 && plainOk o && !o.me
  | .selv o => o.ef = 0 && plainOk o
  | .perm o => o.ef = 0 && plainOk o
  | .movv o => o.ef = 0 && plainOk o
  | .cvt o => cvtOk o ef sf
  | .bcst o => ef ≤ 8 && plainOk o
  | .iota o => ef = 8 && plainOk o
  | .rsum o => if ef = 8 then plainOk o else ef ≤ 1 && rndOk o
  | .rmax o => (ef = 8 || ef ≤ 1) && plainOk o
  | .rmin o => (ef = 8 || ef ≤ 1) && plainOk o
  | .gnorm o => ef = 0 && !o.sat
  | _ => true

/-- The accepted operand pairs of a matrix step (16 R293). `af` is A's format, `bf` B's under BSEL 0: with EF 0xF that
is MBFMT, and every pair that the table accepts is accepted of MAFMT and MBFMT. -/
def pairOk (o : RRR) (af bf : Nat) : Bool :=
  (match o.bsel with
   | 0 => ((af = 1 || af = 2) && (bf = 1 || bf = 2)) || ((af = 3 || af = 4) && (bf = 3 || bf = 4)) ||
       (af = 5 && bf = 5) || (af = 6 && bf = 6)
   | 1 => af = 3 || af = 4
   | 2 => af = 1 || af = 2 || af = 3 || af = 4
   | _ => false)
  && !(af = 5 && (o.ta || o.tb))

/-- The EF of an instruction whose format may come from FMTR (01 R21). -/
def efOf (i : Instr) : Option (Nat × Nat) :=
  match i with
  | .vAdd o => some (o.ef, 0) | .vSub o => some (o.ef, 0) | .vMul o => some (o.ef, 0) | .vMin o => some (o.ef, 0)
  | .vMax o => some (o.ef, 0) | .vAbs o => some (o.ef, 0) | .neg o => some (o.ef, 0) | .vAnd o => some (o.ef, 0)
  | .vOr o => some (o.ef, 0) | .vXor o => some (o.ef, 0) | .vAndn o => some (o.ef, 0) | .vShl o => some (o.ef, 0)
  | .vShr o => some (o.ef, 0) | .vSar o => some (o.ef, 0) | .vMulh o => some (o.ef, 0) | .fma o => some (o.ef, 0)
  | .fms o => some (o.ef, 0) | .fnma o => some (o.ef, 0) | .rcp o => some (o.ef, 0) | .rsq o => some (o.ef, 0)
  | .exp2 o => some (o.ef, 0) | .log2 o => some (o.ef, 0) | .vcmp o => some (o.ef, 0) | .bcst o => some (o.ef, 0)
  | .iota o => some (o.ef, 0) | .rsum o => some (o.ef, 0) | .rmax o => some (o.ef, 0) | .rmin o => some (o.ef, 0)
  | .gnorm o => some (o.ef, 0) | .mkand o => some (o.ef, 0) | .mkor o => some (o.ef, 0) | .mkxor o => some (o.ef, 0)
  | .mknot o => some (o.ef, 0) | .part o => some (o.ef, 0) | .selv o => some (o.ef, 0) | .perm o => some (o.ef, 0)
  | .movv o => some (o.ef, 0) | .cvt o => some (o.ef, fieldN o.b 3 0)
  | _ => none

/-- The fields of FMTR (07 R142). -/
def vfmt (fmtr : BitVec 32) : Nat := fieldN fmtr 3 0
def mafmt (fmtr : BitVec 32) : Nat := fieldN fmtr 7 4
def mbfmt (fmtr : BitVec 32) : Nat := fieldN fmtr 11 8
def dfmt (fmtr : BitVec 32) : Nat := fieldN fmtr 15 12
def cfmt (fmtr : BitVec 32) : Nat := fieldN fmtr 19 16
/-- EF with 0xF replaced by the given format (01 R21). -/
def efIn (ef fm : Nat) : Nat := if ef = 15 then fm else ef

/-- The checks that a format makes, with the FMTR in force for the bundle: the ENCD raised, if any
(01 R21, 07 R143, 16 R293, R302, 20 R343, 09 R170). -/
def formatEncd (ver : Nat) (fmtr : BitVec 32) (i : Instr) : Option Nat :=
  match i with
  | .mms o => if pairOk o (efIn o.ef (mafmt fmtr)) (if o.ef = 15 then mbfmt fmtr else o.ef) then none else some 3
  | .mmz o => if pairOk o (efIn o.ef (mafmt fmtr)) (if o.ef = 15 then mbfmt fmtr else o.ef) then none else some 3
  | .accrdV o =>
      if o.ef != 15 then none
      else if !File.has ver .v (o.d.toNat + accRegs (dfmt fmtr) - 1) then some 2
      else if isDrainFmt (dfmt fmtr) o.sat then none else some 3
  | .accrdSp o => if o.f 7 4 != 15 || isDrainFmt (dfmt fmtr) (bitB o.eop 1) then none else some 3
  | .fdrn o =>
      if o.ef != 15 then none
      else if !File.has ver .v (o.d.toNat + fdrnRegs (dfmt fmtr) - 1) then some 2
      else if isDrainFmt (dfmt fmtr) o.sat then none else some 3
  | .cpy o => if o.f 7 6 = 0 || (1 ≤ cfmt fmtr && cfmt fmtr ≤ 5) then none else some 3
  | .cpyt o => if o.f 7 6 = 0 || (1 ≤ cfmt fmtr && cfmt fmtr ≤ 5) then none else some 3
  | i => match efOf i with
      | none => none
      | some (ef, sf) => if vecOk i (efIn ef (vfmt fmtr)) (efIn sf (vfmt fmtr)) then none else some 3

/-- The encoding detail of an instruction that does not depend on FMTR: the lowest that applies (01 R31, R32). -/
def staticEncd (ver : Nat) (i : Instr) : Option Nat :=
  let f := form ver i
  if f.rsv then some 1
  else if f.ops.any fun x => !File.has ver x.file x.n then some 2
  else if f.bad then some 3 else none


end Sys2Proof
end

