-- ==== Sys2Proof/Machine/Num.lean ====
section
/-! DEFINITION. Numbers: the formats of 15 R272 to R276 decoded to exact values, exact arithmetic on them, the roundings of R277,
and the conversion of 04 R100. -/

namespace Sys2Proof.Machine

/-- An exact value: (−1)^neg × man × 2^exp, with a signed zero where man is 0; an infinity; or a NaN. -/
inductive Num where
  | nan
  | inf (neg : Bool)
  | fin (neg : Bool) (man : Nat) (exp : Int)
  deriving DecidableEq, Repr

/-- A floating-point format: width, mantissa bits, the exponent of its smallest subnormal, its largest finite magnitude code, the code of
infinity if it has one, and the NaN that it produces (15 R272, R273). -/
structure Fmt where
  w : Nat
  m : Nat
  sub : Int
  maxCode : Nat
  infCode : Option Nat
  nanCode : Nat
  deriving DecidableEq, Repr

def fp32 : Fmt := ⟨32, 23, -149, 0x7F7FFFFF, some 0x7F800000, 0x7FC00000⟩
def bf16 : Fmt := ⟨16, 7, -133, 0x7F7F, some 0x7F80, 0x7FC0⟩
def fp16 : Fmt := ⟨16, 10, -24, 0x7BFF, some 0x7C00, 0x7E00⟩
def e4m3 : Fmt := ⟨8, 3, -9, 0x7E, none, 0x7F⟩
def e5m2 : Fmt := ⟨8, 2, -16, 0x7B, some 0x7C, 0x7E⟩
def e2m1 : Fmt := ⟨4, 1, -1, 0x7, none, 0⟩
/-- The floating-point format of an EF code. -/
def fmtOf (ef : Nat) : Fmt :=
  match ef with | 0 => fp32 | 1 => bf16 | 2 => fp16 | 3 => e4m3 | 4 => e5m2 | _ => e2m1
/-- Whether an EF code is an integer format (15 R276). -/
def isIntFmt (ef : Nat) : Bool := 6 ≤ ef && ef ≤ 9
/-- The width of an element format. -/
def widthOf (ef : Nat) : Nat :=
  match ef with | 0 => 32 | 8 => 32 | 9 => 64 | 1 => 16 | 2 => 16 | 7 => 16 | 5 => 4 | _ => 8

/-- The value of a floating-point code (15 R272, R273). -/
def Fmt.value (f : Fmt) (x : Nat) : Num :=
  let neg := x / 2 ^ (f.w - 1) % 2 = 1
  let mag := x % 2 ^ (f.w - 1)
  let e := mag / 2 ^ f.m
  let m := mag % 2 ^ f.m
  match f.infCode with
  | some c => if mag = c then .inf neg else if c < mag then .nan
      else if e = 0 then .fin neg m f.sub else .fin neg (m + 2 ^ f.m) (f.sub + e - 1)
  | none => if f.maxCode < mag then .nan
      else if e = 0 then .fin neg m f.sub else .fin neg (m + 2 ^ f.m) (f.sub + e - 1)

/-- The two's complement value of the low w bits. -/
def intOf (w x : Nat) : Int :=
  if x % 2 ^ w < 2 ^ (w - 1) then Int.ofNat (x % 2 ^ w) else Int.ofNat (x % 2 ^ w) - Int.ofNat (2 ^ w)
/-- An integer as an exact value. -/
def Num.ofInt (i : Int) : Num := .fin (i < 0) i.natAbs 0
/-- The value of an element of a format (15 R272 to R276). -/
def numOf (ef x : Nat) : Num :=
  if isIntFmt ef then .ofInt (intOf (widthOf ef) x) else (fmtOf ef).value x

/-! ### Exact arithmetic (04 R91, 15 R286) -/

def Num.neg : Num → Num
  | .nan => .nan
  | .inf s => .inf !s
  | .fin s m e => .fin (!s) m e
def Num.isZero : Num → Bool
  | .fin _ 0 _ => true
  | _ => false
def Num.isNan : Num → Bool
  | .nan => true
  | _ => false
def Num.isNeg : Num → Bool
  | .nan => false
  | .inf s => s
  | .fin s _ _ => s
/-- The signed integer man × 2^(exp − e), for e ≤ exp. -/
def scaled (neg : Bool) (man : Nat) (exp e : Int) : Int :=
  let x := Int.ofNat (man <<< (exp - e).toNat)
  if neg then -x else x
def Num.mul : Num → Num → Num
  | .nan, _ => .nan
  | _, .nan => .nan
  | .inf s, y => if y.isZero then .nan else .inf (s != y.isNeg)
  | x, .inf s => if x.isZero then .nan else .inf (s != x.isNeg)
  | .fin s m e, .fin t n g => .fin (s != t) (m * n) (e + g)
/-- An exact sum; a zero sum of operands of opposite sign is +0, or −0 when `down` (04 R91). -/
def Num.add (down : Bool) : Num → Num → Num
  | .nan, _ => .nan
  | _, .nan => .nan
  | .inf s, .inf t => if s = t then .inf s else .nan
  | .inf s, _ => .inf s
  | _, .inf t => .inf t
  | .fin s m e, .fin t n g =>
    let k : Int := if e ≤ g then e else g
    let x : Int := scaled s m e k + scaled t n g k
    if x = 0 then .fin (if s = t then s else down) 0 0 else .fin (x < 0) x.natAbs k
/-- An exact sum of terms; an exact zero is +0 unless every term is −0 (15 R286). -/
def Num.sum (xs : List Num) : Num :=
  if xs.any Num.isNan then .nan
  else if xs.contains (.inf false) then (if xs.contains (.inf true) then .nan else .inf false)
  else if xs.contains (.inf true) then .inf true
  else
    let es := xs.map fun | .fin _ _ e => e | _ => 0
    let k := es.foldl min 0
    let x : Int := xs.foldl (fun a n => match n with | .fin s m e => a + scaled s m e k | _ => a) 0
    if x = 0 then .fin (!xs.isEmpty && xs.all fun n => n.isNeg) 0 0 else .fin (x < 0) x.natAbs k
/-- Numerical order of values that are not NaN, with −0 equal to +0. -/
def Num.lt : Num → Num → Bool
  | .nan, _ => false
  | _, .nan => false
  | .inf s, .inf t => s && !t
  | .inf s, _ => s
  | _, .inf t => !t
  | .fin s m e, .fin t n g => let k := min e g; scaled s m e k < scaled t n g k
def Num.eq (x y : Num) : Bool := !x.isNan && !y.isNan && !x.lt y && !y.lt x

/-! ### Rounding (15 R277) -/

/-- man / 2^shift rounded to an integer: 0 RNE, 1 RZ, 2 RU, 3 RD. -/
def roundShift (rm : Nat) (neg : Bool) (man shift : Nat) : Nat :=
  let q := man >>> shift
  let r := man % 2 ^ shift
  if r = 0 then q
  else match rm with
    | 0 => if 2 ^ shift < 2 * r || (2 * r = 2 ^ shift && q % 2 = 1) then q + 1 else q
    | 1 => q
    | 2 => if neg then q else q + 1
    | _ => if neg then q + 1 else q
/-- The magnitude code of man × 2^exp rounded to a format, as if its exponents were unbounded above. -/
def Fmt.roundCode (f : Fmt) (rm : Nat) (neg : Bool) (man : Nat) (exp : Int) : Nat :=
  if man = 0 then 0
  else
    let e := max f.sub (Int.ofNat (Nat.log2 man) + exp - f.m)
    let q := if e ≤ exp then man <<< (exp - e).toNat else roundShift rm neg man (e - exp).toNat
    if q < 2 ^ f.m then q
    else (e - f.sub).toNat * 2 ^ f.m + q
/-- A code with its sign bit. -/
def Fmt.signed (f : Fmt) (neg : Bool) (mag : Nat) : Nat := if neg then mag + 2 ^ (f.w - 1) else mag
/-- Overflow by rounding mode (04 R91): whether it gives the infinity. -/
def overInf (rm : Nat) (neg : Bool) : Bool :=
  match rm with | 0 => true | 1 => false | 2 => !neg | _ => neg
/-- One rounding of an exact value to FP32 or BF16 arithmetic (04 R91). -/
def Fmt.round (f : Fmt) (rm : Nat) : Num → Nat
  | .nan => f.nanCode
  | .inf s => f.signed s (f.infCode.getD f.maxCode)
  | .fin s m e =>
    let c := f.roundCode rm s m e
    if f.maxCode < c then f.signed s (if overInf rm s then f.infCode.getD f.maxCode else f.maxCode)
    else f.signed s c
/-- An exact quotient for one rounding: enough bits for every format here, and a last bit that says whether any were lost. -/
def Num.div : Num → Num → Num
  | .fin s m e, .fin t n g =>
    if n = 0 then (if m = 0 then .nan else .inf (s != t))
    else if m = 0 then .fin (s != t) 0 0
    else
      let k := 64 + Nat.log2 n
      let q := (m <<< k) / n
      .fin (s != t) (2 * q + (if (m <<< k) % n = 0 then 0 else 1)) (e - g - k - 1)
  | .nan, _ => .nan
  | _, .nan => .nan
  | .inf s, .inf _ => if s then .nan else .nan
  | .inf s, y => .inf (s != y.isNeg)
  | x, .inf t => .fin (x.isNeg != t) 0 0

/-- The conversion of 04 R100 into a format by its EF code. `src` says that the source is an integer format. -/
def convert (ef rm : Nat) (sat srcInt : Bool) (x : Num) : Nat :=
  if isIntFmt ef then
    let w := widthOf ef
    let lo : Int := -(Int.ofNat (2 ^ (w - 1)))
    let hi : Int := Int.ofNat (2 ^ (w - 1)) - 1
    let wrap (i : Int) : Nat := (i % Int.ofNat (2 ^ w)).toNat
    match x with
    | .nan => 0
    | .inf s => if sat && !s then wrap hi else wrap lo
    | .fin s m e =>
      let q := if 0 ≤ e then m <<< e.toNat else roundShift rm s m (-e).toNat
      let i : Int := if s then -(Int.ofNat q) else Int.ofNat q
      if lo ≤ i && i ≤ hi then wrap i
      else if sat then (if i < lo then wrap lo else wrap hi)
      else if srcInt then wrap i else wrap lo
  else
    let f := fmtOf ef
    match x with
    | .nan => f.nanCode
    | .inf s =>
      if sat then f.signed s f.maxCode
      else match f.infCode with
        | some c => f.signed s c
        | none => f.signed s 0x7F
    | .fin s m e =>
      let c := f.roundCode rm s m e
      if c ≤ f.maxCode then f.signed s c
      else if sat then f.signed s f.maxCode
      else match f.infCode with
        | some k => f.signed s (if overInf rm s then k else f.maxCode)
        | none => f.signed s 0x7F

/-- SAT of a conversion from sf to df: a conversion that widens a floating-point format is exact, and SAT has no effect on it (04 R100). -/
def cvtSat (df sf : Nat) (sat : Bool) : Bool := sat && !(!isIntFmt df && !isIntFmt sf && widthOf sf < widthOf df)

/-! ### FP32 and BF16 lanes -/

def fadd (f : Fmt) (rm : Nat) (x y : Nat) : Nat := f.round rm (.add (rm = 3) (f.value x) (f.value y))
def fmul (f : Fmt) (rm : Nat) (x y : Nat) : Nat := f.round rm (.mul (f.value x) (f.value y))
/-- a × b + c with one rounding (04 R92). -/
def ffma (f : Fmt) (rm : Nat) (x y z : Num) : Nat := f.round rm (.add (rm = 3) (.mul x y) z)
/-- MIN and MAX of 04 R93: −0 below +0, a NaN yields to the other operand. -/
def fminmax (f : Fmt) (isMax : Bool) (x y : Nat) : Nat :=
  let a := f.value x
  let b := f.value y
  if a.isNan then (if b.isNan then f.nanCode else y)
  else if b.isNan then x
  else
    let less := a.lt b || (!(b.lt a) && a.isNeg && !b.isNeg)
    if isMax then (if less then y else x) else (if less then x else y)
/-- The step of an accumulator: RNE_FP32(acc + C) (15 R285). -/
def acc32 (x y : BitVec 32) : BitVec 32 := BitVec.ofNat 32 (fadd fp32 0 x.toNat y.toNat)

/-! ### RCP, RSQ, EXP2 and LOG2 (04 R94, log 8) -/

/-- The two FP32 codes between which an exact value lies. -/
def bracket (x : Num) : Nat × Nat := (fp32.round 3 x, fp32.round 2 x)
/-- A device value if it is faithful to the exact value, else the exact value rounded to nearest. -/
def faithful (exact : Num) (dev : Nat) : Nat :=
  let (a, b) := bracket exact
  if dev = a || dev = b then dev else fp32.round 0 exact
/-- Newton's iteration for the integer square root. -/
def isqrtGo : Nat → Nat → Nat → Nat
  | 0, _, x => x
  | k + 1, n, x => let y := (x + n / x) / 2; if x ≤ y then x else isqrtGo k n y
/-- The integer square root. -/
def isqrt (n : Nat) : Nat := if n = 0 then 0 else isqrtGo (Nat.log2 n + 2) n (2 ^ (Nat.log2 n / 2 + 1))
/-- 1/√x for a positive finite value, with a last bit that says whether any were lost. -/
def invSqrt (m : Nat) (e : Int) : Num :=
  let odd := e % 2 != 0
  let m' := if odd then 2 * m else m
  let h := (if odd then e - 1 else e) / 2
  let k := 64 + Nat.log2 m'
  let t := 2 ^ (2 * k) / m'
  let r := isqrt t
  .fin false (2 * r + (if r * r * m' = 2 ^ (2 * k) then 0 else 1)) (-h - k - 1)
def rcp32 (x : Nat) : Nat :=
  match fp32.value x with
  | .nan => 0x7FC00000
  | .inf s => fp32.signed s 0
  | .fin s 0 _ => fp32.signed s 0x7F800000
  | .fin s m e =>
    if !((Num.fin false 1 (-128)).lt (.fin false m e)) then fp32.signed s 0x7F800000
    else faithful (Num.div (.fin false 1 0) (.fin s m e)) (Config.rcp (BitVec.ofNat 32 x)).toNat
def rsq32 (x : Nat) : Nat :=
  match fp32.value x with
  | .nan => 0x7FC00000
  | .inf s => if s then 0x7FC00000 else 0
  | .fin s 0 _ => fp32.signed s 0x7F800000
  | .fin true _ _ => 0x7FC00000
  | .fin false m e => faithful (invSqrt m e) (Config.rsq (BitVec.ofNat 32 x)).toNat

/-- √ of a fixed-point number with 96 fraction bits. -/
def fxSqrt (x : Nat) : Nat := isqrt (x <<< 96)
/-- 2^(f / 2^n) with 96 fraction bits, bit by bit from the top of f: `root` is 2^(1/2^k). -/
def fxExp2 : Nat → Nat → Nat → Nat → Nat
  | 0, _, _, acc => acc
  | n + 1, f, root, acc =>
    let r := fxSqrt root
    fxExp2 n f r (if f / 2 ^ n % 2 = 1 then acc * r / 2 ^ 96 else acc)
/-- n bits of log2 of a fixed-point number in [1, 2) with 96 fraction bits. -/
def fxLog2 : Nat → Nat → Nat → Nat
  | 0, _, acc => acc
  | n + 1, y, acc =>
    let z := y * y / 2 ^ 96
    if 2 ^ 97 ≤ z then fxLog2 n (z / 2) (2 * acc + 1) else fxLog2 n z (2 * acc)
/-- The ulp of FP32 for a value whose magnitude lies in [2^e, 2^(e+1)), as an exponent; of a subnormal 2^−149. The spec does not say which
binade's ulp bounds a result near a power of two: DESIGN CHOICE, the exact value's (log 8). -/
def ulpExp (e : Int) : Int := max (e - 23) (-149)
/-- Whether an FP32 code lies within 2^b of a value. -/
def within (code : Nat) (x : Num) (b : Int) : Bool :=
  match fp32.value code, x with
  | .fin s m e, .fin t n g =>
    let k := min (min e g) b
    (scaled s m e k - scaled t n g k).natAbs ≤ (scaled false 1 b k).natAbs
  | _, _ => false
/-- A device value if it lies within 2^b of every value from lo to hi, between which the exact one lies; else lo rounded to nearest. -/
def bounded (lo hi : Num) (b : Int) (dev : Nat) : Nat :=
  if within dev lo b && within dev hi b then dev else fp32.round 0 lo
def exp2_32 (x : Nat) : Nat :=
  match fp32.value x with
  | .nan => 0x7FC00000
  | .inf s => if s then 0 else 0x7F800000
  | .fin _ 0 _ => 0x3F800000
  | .fin s m e =>
    let v := scaled s m e (-149)
    let one : Int := Int.ofNat (2 ^ 149)
    let i := v / one
    let f := (v % one).toNat
    if 128 ≤ i then 0x7F800000
    else if v ≤ -150 * one then 0
    else if f = 0 then fp32.round 0 (.fin false 1 i)
    else
      let y := fxExp2 149 f (2 ^ 97) (2 ^ 96)
      bounded (.fin false y (i - 96)) (.fin false (min (y + 2 ^ 16) (2 ^ 97)) (i - 96)) (ulpExp i + 1) (Config.exp2 (BitVec.ofNat 32 x)).toNat
def log2_32 (x : Nat) : Nat :=
  match fp32.value x with
  | .nan => 0x7FC00000
  | .inf s => if s then 0x7FC00000 else 0x7F800000
  | .fin _ 0 _ => 0xFF800000
  | .fin true _ _ => 0x7FC00000
  | .fin false m e =>
    let p := Nat.log2 m
    let i : Int := Int.ofNat p + e
    if m = 2 ^ p then fp32.round 0 (.ofInt i)
    else
      let f := fxLog2 84 ((m <<< 96) / 2 ^ p) 0
      let v : Int := i * Int.ofNat (2 ^ 84) + Int.ofNat f
      let num (v : Int) : Num := .fin (v < 0) v.natAbs (-84)
      let near := -1 ≤ i && i < 1
      let e : Int := Int.ofNat (Nat.log2 (if v < 0 then v.natAbs - 1 else v.natAbs)) - 84
      bounded (num v) (num (v + 2)) (if near then -22 else ulpExp e + 1) (Config.log2 (BitVec.ofNat 32 x)).toNat

end Sys2Proof.Machine
end

