-- ==== Sys2Proof/WellFormed.lean ====
section
/-! DEFINITION. Well-formed slot words: what the decoder of a version accepts, said of the decoded term. -/

namespace Sys2Proof

/-- A decoded slot word (01 R15, R19): the stop bit, the qualifying predicate and its sense, the realign bit of the sync slot, and
the instruction. -/
structure SlotWord where
  stop : Bool
  qp : BitVec 6
  qn : Bool
  realign : Bool
  instr : Instr
  deriving DecidableEq, Repr

/-- The encoding checks of the instruction itself: no reserved bit set, no register beyond its file, no refused field (01 R31). -/
def WellFormed (ver : Nat) (i : Instr) : Prop := staticEncd ver i = none

end Sys2Proof
end

