-- ==== Sys2Proof/Decode.lean ====
section
/-! DEFINITION. The decoder: from the bits of a slot word, a bundle or memory bytes to instructions, with every word that is
not an instruction refused by the name of its reason (01 R31); and the encoder, from the same tables (02 R44 to R50). -/

namespace Sys2Proof

/-! ### The layouts (01 R20) -/

def RRR.ofBits (x : BitVec 48) : RRR :=
  ⟨x.extractLsb' 40 8, x.extractLsb' 32 8, x.extractLsb' 24 8, x.extractLsb' 16 8, x.extractLsb' 0 16⟩
def RRI.ofBits (x : BitVec 48) : RRI := ⟨x.extractLsb' 40 8, x.extractLsb' 32 8, x.extractLsb' 0 32⟩
def RI.ofBits (x : BitVec 48) : RI := ⟨x.extractLsb' 40 8, x.extractLsb' 0 40⟩
def BRN.ofBits (x : BitVec 48) : BRN := ⟨x.extractLsb' 40 8, x.extractLsb' 0 40⟩
def CMPF.ofBits (x : BitVec 48) : CMPF :=
  ⟨x.extractLsb' 42 6, x.extractLsb' 36 6, x.extractLsb' 33 3, x.extractLsb' 29 4, x.extractLsb' 21 8,
   x.extractLsb' 13 8, x.extractLsb' 0 13⟩
def CMPI.ofBits (x : BitVec 48) : CMPI :=
  ⟨x.extractLsb' 42 6, x.extractLsb' 36 6, x.extractLsb' 33 3, x.extractLsb' 29 4, x.extractLsb' 21 8,
   x.extractLsb' 0 21⟩
def MEM.ofBits (x : BitVec 48) : MEM :=
  ⟨x.extractLsb' 40 8, x.extractLsb' 32 8, x.extractLsb' 28 4, x.extractLsb' 24 4, x.extractLsb' 0 24⟩
def ENG.ofBits (x : BitVec 48) : ENG :=
  ⟨x.extractLsb' 42 6, x.extractLsb' 39 3, x.extractLsb' 33 6, x.extractLsb' 27 6, x.extractLsb' 21 6,
   x.extractLsb' 0 21⟩
def SYE.ofBits (x : BitVec 48) : SYE :=
  ⟨x.extractLsb' 41 6, x.extractLsb' 38 3, x.extractLsb' 32 6, x.extractLsb' 26 6, x.extractLsb' 20 6,
   x.extractLsb' 0 20⟩
def SYN.ofBits (x : BitVec 48) : SYN := ⟨x.extractLsb' 0 47⟩

def RRR.bits (o : RRR) : BitVec 48 := o.d ++ o.a ++ o.b ++ o.c ++ o.mod
def RRI.bits (o : RRI) : BitVec 48 := o.d ++ o.a ++ o.imm
def RI.bits (o : RI) : BitVec 48 := o.d ++ o.imm
def BRN.bits (o : BRN) : BitVec 48 := o.a ++ o.off
def CMPF.bits (o : CMPF) : BitVec 48 := o.pd1 ++ o.pd2 ++ o.ct ++ o.cond ++ o.a ++ o.b ++ o.rsv
def CMPI.bits (o : CMPI) : BitVec 48 := o.pd1 ++ o.pd2 ++ o.ct ++ o.cond ++ o.a ++ o.imm
def MEM.bits (o : MEM) : BitVec 48 := o.d ++ o.base ++ o.mode ++ o.hint ++ o.off
def ENG.bits (o : ENG) : BitVec 48 := o.kp ++ o.cmask ++ o.ka ++ o.kb ++ o.kc ++ o.eop
/-- The operand bits of a sync slot below the realign bit. -/
def SYE.low (o : SYE) : BitVec 47 := o.kp ++ o.cmask ++ o.ka ++ o.kb ++ o.kc ++ o.eop
def SYE.bits (o : SYE) : BitVec 48 := 0#1 ++ o.low
def SYN.bits48 (o : SYN) : BitVec 48 := 0#1 ++ o.bits

/-! ### The opcode map (02 R44 to R50) -/

/-- One row of the opcode map: the slot table (VA and VB share table 1), the opcode, the first and last version that assign it,
and the instruction of its operand bits. `rsv` are operand bits that the term does not hold, all of them reserved. -/
structure OpRow where
  table : Nat
  opc : Nat
  lo : Nat
  hi : Nat
  rsv : BitVec 48
  build : BitVec 48 → Instr

/-- 02 R44. -/
def scalarRows0 : List OpRow := [
  ⟨0, 0x01, 1, 3, 0, fun x => .movi (.ofBits x)⟩,
  ⟨0, 0x02, 1, 3, 0, fun x => .movhi (.ofBits x)⟩,
  ⟨0, 0x10, 1, 3, 0, fun x => .add (.ofBits x)⟩,
  ⟨0, 0x11, 1, 3, 0, fun x => .sub (.ofBits x)⟩,
  ⟨0, 0x12, 1, 3, 0, fun x => .mul (.ofBits x)⟩,
  ⟨0, 0x13, 1, 3, 0, fun x => .mulh (.ofBits x)⟩,
  ⟨0, 0x14, 1, 3, 0, fun x => .addi (.ofBits x)⟩,
  ⟨0, 0x15, 1, 3, 0, fun x => .muli (.ofBits x)⟩,
  ⟨0, 0x16, 1, 3, 0, fun x => .div (.ofBits x)⟩,
  ⟨0, 0x17, 1, 3, 0, fun x => .divu (.ofBits x)⟩,
  ⟨0, 0x18, 1, 3, 0, fun x => .rem (.ofBits x)⟩,
  ⟨0, 0x19, 1, 3, 0, fun x => .remu (.ofBits x)⟩,
  ⟨0, 0x1A, 1, 3, 0, fun x => .min (.ofBits x)⟩,
  ⟨0, 0x1B, 1, 3, 0, fun x => .max (.ofBits x)⟩,
  ⟨0, 0x1C, 1, 3, 0, fun x => .minu (.ofBits x)⟩,
  ⟨0, 0x1D, 1, 3, 0, fun x => .maxu (.ofBits x)⟩,
  ⟨0, 0x1E, 1, 3, 0, fun x => .sel (.ofBits x)⟩,
  ⟨0, 0x1F, 1, 3, 0, fun x => .abs (.ofBits x)⟩,
  ⟨0, 0x20, 1, 3, 0, fun x => .and (.ofBits x)⟩,
  ⟨0, 0x21, 1, 3, 0, fun x => .or (.ofBits x)⟩,
  ⟨0, 0x22, 1, 3, 0, fun x => .xor (.ofBits x)⟩,
  ⟨0, 0x23, 1, 3, 0, fun x => .andn (.ofBits x)⟩,
  ⟨0, 0x24, 1, 3, 0, fun x => .andi (.ofBits x)⟩,
  ⟨0, 0x25, 1, 3, 0, fun x => .ori (.ofBits x)⟩]
/-- 02 R44. -/
def scalarRows1 : List OpRow := [
  ⟨0, 0x26, 1, 3, 0, fun x => .xori (.ofBits x)⟩,
  ⟨0, 0x28, 1, 3, 0, fun x => .shl (.ofBits x)⟩,
  ⟨0, 0x29, 1, 3, 0, fun x => .shr (.ofBits x)⟩,
  ⟨0, 0x2A, 1, 3, 0, fun x => .sar (.ofBits x)⟩,
  ⟨0, 0x2B, 1, 3, 0, fun x => .rol (.ofBits x)⟩,
  ⟨0, 0x2C, 1, 3, 0, fun x => .shli (.ofBits x)⟩,
  ⟨0, 0x2D, 1, 3, 0, fun x => .shri (.ofBits x)⟩,
  ⟨0, 0x2E, 1, 3, 0, fun x => .sari (.ofBits x)⟩,
  ⟨0, 0x30, 1, 3, 0, fun x => .clz (.ofBits x)⟩,
  ⟨0, 0x31, 1, 3, 0, fun x => .ctz (.ofBits x)⟩,
  ⟨0, 0x32, 1, 3, 0, fun x => .popc (.ofBits x)⟩,
  ⟨0, 0x33, 1, 3, 0, fun x => .bswap (.ofBits x)⟩,
  ⟨0, 0x34, 1, 3, 0, fun x => .ext (.ofBits x)⟩,
  ⟨0, 0x35, 1, 3, 0, fun x => .dep (.ofBits x)⟩,
  ⟨0, 0x36, 1, 3, 0, fun x => .shadd (.ofBits x)⟩,
  ⟨0, 0x40, 1, 3, 0, fun x => .cmp (.ofBits x)⟩,
  ⟨0, 0x41, 1, 3, 0, fun x => .cmpi (.ofBits x)⟩,
  ⟨0, 0x42, 1, 3, 0, fun x => .cmpu (.ofBits x)⟩,
  ⟨0, 0x43, 1, 3, 0, fun x => .cmpui (.ofBits x)⟩,
  ⟨0, 0x44, 1, 3, 0, fun x => .pand (.ofBits x)⟩,
  ⟨0, 0x45, 1, 3, 0, fun x => .por (.ofBits x)⟩,
  ⟨0, 0x46, 1, 3, 0, fun x => .pxor (.ofBits x)⟩,
  ⟨0, 0x47, 1, 3, 0, fun x => .pandn (.ofBits x)⟩,
  ⟨0, 0x48, 1, 3, 0, fun x => .movsp (.ofBits x)⟩]
/-- 02 R44. -/
def scalarRows2 : List OpRow := [
  ⟨0, 0x49, 1, 3, 0, fun x => .movps (.ofBits x)⟩,
  ⟨0, 0x50, 1, 3, 0, fun x => .mfsr (.ofBits x)⟩,
  ⟨0, 0x51, 1, 3, 0, fun x => .mtsr (.ofBits x)⟩,
  ⟨0, 0x52, 1, 3, 0, fun x => .rdli (.ofBits x)⟩,
  ⟨0, 0x53, 1, 3, 0, fun x => .mtag (.ofBits x)⟩,
  ⟨0, 0x54, 1, 3, 0, fun x => .mfag (.ofBits x)⟩,
  ⟨0, 0x55, 1, 3, 0, fun x => .mtbb (.ofBits x)⟩,
  ⟨0, 0x56, 1, 3, 0, fun x => .mfbb (.ofBits x)⟩,
  ⟨0, 0x60, 1, 3, 0, fun x => .br (.ofBits x)⟩,
  ⟨0, 0x61, 1, 3, 0, fun x => .call (.ofBits x)⟩,
  ⟨0, 0x63, 1, 3, 0, fun x => .jmpr (.ofBits x)⟩,
  ⟨0, 0x62, 1, 3, 0, fun x => .ret (.ofBits x)⟩,
  ⟨0, 0x64, 1, 3, 0, fun x => .loop (.ofBits x)⟩,
  ⟨0, 0x65, 1, 3, 0, fun x => .brk (.ofBits x)⟩,
  ⟨0, 0x66, 1, 3, 0xFFFFFFFFFFFF, fun _ => .yield⟩,
  ⟨0, 0x67, 1, 3, 0, fun x => .trap (.ofBits x)⟩,
  ⟨0, 0x68, 1, 3, 0xFFFFFFFFFFFF, fun _ => .eret⟩,
  ⟨0, 0x69, 1, 3, 0, fun x => .lscale (.ofBits x)⟩,
  ⟨0, 0x70, 2, 3, 0, fun x => .cbr (.ofBits x)⟩,
  ⟨0, 0x71, 2, 3, 0, fun x => .cbrx (.ofBits x)⟩,
  ⟨0, 0x72, 2, 3, 0, fun x => .membw (.ofBits x)⟩,
  ⟨0, 0x73, 2, 3, 0, fun x => .membr (.ofBits x)⟩,
  ⟨0, 0x74, 2, 3, 0, fun x => .cbst (.ofBits x)⟩,
  ⟨0, 0x75, 2, 3, 0, fun x => .bkt (.ofBits x)⟩]
/-- 02 R45. -/
def vectorRows0 : List OpRow := [
  ⟨1, 0x10, 1, 3, 0, fun x => .vAdd (.ofBits x)⟩,
  ⟨1, 0x11, 1, 3, 0, fun x => .vSub (.ofBits x)⟩,
  ⟨1, 0x12, 1, 3, 0, fun x => .vMul (.ofBits x)⟩,
  ⟨1, 0x13, 1, 3, 0, fun x => .vMin (.ofBits x)⟩,
  ⟨1, 0x14, 1, 3, 0, fun x => .vMax (.ofBits x)⟩,
  ⟨1, 0x15, 1, 3, 0, fun x => .vAbs (.ofBits x)⟩,
  ⟨1, 0x16, 1, 3, 0, fun x => .neg (.ofBits x)⟩,
  ⟨1, 0x18, 1, 3, 0, fun x => .vAnd (.ofBits x)⟩,
  ⟨1, 0x19, 1, 3, 0, fun x => .vOr (.ofBits x)⟩,
  ⟨1, 0x1A, 1, 3, 0, fun x => .vXor (.ofBits x)⟩,
  ⟨1, 0x1B, 1, 3, 0, fun x => .vAndn (.ofBits x)⟩,
  ⟨1, 0x1C, 1, 3, 0, fun x => .vShl (.ofBits x)⟩,
  ⟨1, 0x1D, 1, 3, 0, fun x => .vShr (.ofBits x)⟩,
  ⟨1, 0x1E, 1, 3, 0, fun x => .vSar (.ofBits x)⟩,
  ⟨1, 0x1F, 1, 3, 0, fun x => .vMulh (.ofBits x)⟩,
  ⟨1, 0x30, 1, 3, 0, fun x => .fma (.ofBits x)⟩,
  ⟨1, 0x31, 1, 3, 0, fun x => .fms (.ofBits x)⟩,
  ⟨1, 0x32, 1, 3, 0, fun x => .fnma (.ofBits x)⟩,
  ⟨1, 0x38, 1, 3, 0, fun x => .rcp (.ofBits x)⟩,
  ⟨1, 0x39, 1, 3, 0, fun x => .rsq (.ofBits x)⟩,
  ⟨1, 0x3A, 1, 3, 0, fun x => .exp2 (.ofBits x)⟩,
  ⟨1, 0x3B, 1, 3, 0, fun x => .log2 (.ofBits x)⟩,
  ⟨1, 0x40, 1, 3, 0, fun x => .vcmp (.ofBits x)⟩,
  ⟨1, 0x41, 1, 3, 0, fun x => .mkand (.ofBits x)⟩]
/-- 02 R45. -/
def vectorRows1 : List OpRow := [
  ⟨1, 0x42, 1, 3, 0, fun x => .mkor (.ofBits x)⟩,
  ⟨1, 0x43, 1, 3, 0, fun x => .mkxor (.ofBits x)⟩,
  ⟨1, 0x44, 1, 3, 0, fun x => .mknot (.ofBits x)⟩,
  ⟨1, 0x45, 1, 3, 0, fun x => .selv (.ofBits x)⟩,
  ⟨1, 0x48, 1, 3, 0, fun x => .cvt (.ofBits x)⟩,
  ⟨1, 0x4C, 1, 3, 0, fun x => .bcst (.ofBits x)⟩,
  ⟨1, 0x4D, 1, 3, 0, fun x => .perm (.ofBits x)⟩,
  ⟨1, 0x4E, 1, 3, 0, fun x => .movv (.ofBits x)⟩,
  ⟨1, 0x4F, 1, 3, 0, fun x => .iota (.ofBits x)⟩,
  ⟨1, 0x50, 1, 3, 0, fun x => .rsum (.ofBits x)⟩,
  ⟨1, 0x51, 1, 3, 0, fun x => .rmax (.ofBits x)⟩,
  ⟨1, 0x52, 1, 3, 0, fun x => .rmin (.ofBits x)⟩,
  ⟨1, 0x58, 1, 3, 0, fun x => .part (.ofBits x)⟩,
  ⟨1, 0x5C, 2, 3, 0, fun x => .gnorm (.ofBits x)⟩]
/-- 02 R46. -/
def matrixRows : List OpRow := [
  ⟨3, 0x01, 1, 3, 0, fun x => .chb (.ofBits x)⟩,
  ⟨3, 0x02, 1, 3, 0, fun x => .che (.ofBits x)⟩,
  ⟨3, 0x04, 1, 3, 0, fun x => .oclm (.ofBits x)⟩,
  ⟨3, 0x05, 1, 3, 0, fun x => .orel (.ofBits x)⟩,
  ⟨3, 0x10, 1, 3, 0, fun x => .mms (.ofBits x)⟩,
  ⟨3, 0x11, 1, 3, 0, fun x => .mmz (.ofBits x)⟩,
  ⟨3, 0x18, 1, 3, 0, fun x => .accrdV (.ofBits x)⟩,
  ⟨3, 0x19, 1, 3, 0, fun x => .accrdSp (.ofBits x)⟩,
  ⟨3, 0x21, 1, 3, 0, fun x => .scgb (.ofBits x)⟩,
  ⟨3, 0x20, 2, 3, 0, fun x => .cbld (.ofBits x)⟩,
  ⟨3, 0x30, 2, 3, 0xFFFFFFFFFFFF, fun _ => .rwfl⟩,
  ⟨3, 0x31, 2, 3, 0, fun x => .prkld (.ofBits x)⟩,
  ⟨3, 0x40, 3, 3, 0, fun x => .knld (.ofBits x)⟩,
  ⟨3, 0x41, 3, 3, 0, fun x => .fchb (.ofBits x)⟩,
  ⟨3, 0x42, 3, 3, 0, fun x => .spl (.ofBits x)⟩,
  ⟨3, 0x43, 3, 3, 0, fun x => .spld (.ofBits x)⟩,
  ⟨3, 0x44, 3, 3, 0, fun x => .gref (.ofBits x)⟩,
  ⟨3, 0x45, 3, 3, 0, fun x => .fdrn (.ofBits x)⟩]
/-- 02 R47. -/
def loadRows : List OpRow := [
  ⟨4, 0x10, 1, 3, 0, fun x => .ldB (.ofBits x)⟩,
  ⟨4, 0x11, 1, 3, 0, fun x => .ldH (.ofBits x)⟩,
  ⟨4, 0x12, 1, 3, 0, fun x => .ldW (.ofBits x)⟩,
  ⟨4, 0x13, 1, 3, 0, fun x => .ldD (.ofBits x)⟩,
  ⟨4, 0x14, 1, 3, 0, fun x => .ldBs (.ofBits x)⟩,
  ⟨4, 0x15, 1, 3, 0, fun x => .ldHs (.ofBits x)⟩,
  ⟨4, 0x16, 1, 3, 0, fun x => .ldWs (.ofBits x)⟩,
  ⟨4, 0x17, 1, 3, 0, fun x => .ldV (.ofBits x)⟩,
  ⟨4, 0x18, 1, 3, 0, fun x => .ldg (.ofBits x)⟩,
  ⟨4, 0x20, 1, 3, 0, fun x => .bbacq (.ofBits x)⟩,
  ⟨4, 0x28, 1, 3, 0, fun x => .ldb (.ofBits x)⟩,
  ⟨4, 0x30, 1, 3, 0, fun x => .xlt (.ofBits x)⟩,
  ⟨4, 0x38, 2, 3, 0, fun x => .topk (.ofBits x)⟩,
  ⟨4, 0x40, 1, 3, 0, fun x => .popw (.ofBits x)⟩,
  ⟨4, 0x48, 1, 3, 0, fun x => .aadd (.ofBits x)⟩,
  ⟨4, 0x49, 1, 3, 0, fun x => .aand (.ofBits x)⟩,
  ⟨4, 0x4A, 1, 3, 0, fun x => .aor (.ofBits x)⟩,
  ⟨4, 0x4B, 1, 3, 0, fun x => .axor (.ofBits x)⟩,
  ⟨4, 0x4C, 1, 3, 0, fun x => .amin (.ofBits x)⟩,
  ⟨4, 0x4D, 1, 3, 0, fun x => .amax (.ofBits x)⟩,
  ⟨4, 0x4E, 1, 3, 0, fun x => .aswp (.ofBits x)⟩,
  ⟨4, 0x4F, 1, 3, 0, fun x => .acas (.ofBits x)⟩,
  ⟨4, 0x50, 1, 3, 0, fun x => .afadd (.ofBits x)⟩]
/-- 02 R48. -/
def storeRows : List OpRow := [
  ⟨5, 0x10, 1, 3, 0, fun x => .stB (.ofBits x)⟩,
  ⟨5, 0x11, 1, 3, 0, fun x => .stH (.ofBits x)⟩,
  ⟨5, 0x12, 1, 3, 0, fun x => .stW (.ofBits x)⟩,
  ⟨5, 0x13, 1, 3, 0, fun x => .stD (.ofBits x)⟩,
  ⟨5, 0x17, 1, 3, 0, fun x => .stV (.ofBits x)⟩,
  ⟨5, 0x18, 1, 3, 0, fun x => .sts (.ofBits x)⟩,
  ⟨5, 0x20, 1, 3, 0, fun x => .bbrel (.ofBits x)⟩,
  ⟨5, 0x28, 1, 3, 0xFFFFFFFFFFFF, fun _ => .mark⟩,
  ⟨5, 0x29, 1, 3, 0, fun x => .clrf (.ofBits x)⟩]
/-- 02 R49. -/
def copyRows : List OpRow := [
  ⟨6, 0x10, 1, 3, 0, fun x => .cpy (.ofBits x)⟩,
  ⟨6, 0x11, 1, 3, 0, fun x => .cpyt (.ofBits x)⟩,
  ⟨6, 0x12, 1, 3, 0, fun x => .cpyg (.ofBits x)⟩,
  ⟨6, 0x13, 1, 3, 0, fun x => .cpys (.ofBits x)⟩,
  ⟨6, 0x14, 1, 3, 0, fun x => .cpyo (.ofBits x)⟩,
  ⟨6, 0x15, 1, 3, 0, fun x => .trn (.ofBits x)⟩,
  ⟨6, 0x20, 1, 3, 0, fun x => .xch (.ofBits x)⟩,
  ⟨6, 0x21, 1, 3, 0, fun x => .xcmb (.ofBits x)⟩,
  ⟨6, 0x22, 1, 3, 0, fun x => .sib (.ofBits x)⟩,
  ⟨6, 0x23, 1, 3, 0, fun x => .gsh (.ofBits x)⟩,
  ⟨6, 0x24, 1, 3, 0, fun x => .mcst (.ofBits x)⟩,
  ⟨6, 0x40, 3, 3, 0, fun x => .splg (.ofBits x)⟩]
/-- 02 R50. -/
def syncRows : List OpRow := [
  ⟨7, 0x10, 1, 3, 0, fun x => .twait (.ofBits x)⟩,
  ⟨7, 0x11, 1, 3, 0, fun x => .tjoin (.ofBits x)⟩,
  ⟨7, 0x18, 1, 3, 0, fun x => .fence (.ofBits x)⟩,
  ⟨7, 0x19, 1, 3, 0, fun x => .drain (.ofBits x)⟩,
  ⟨7, 0x1A, 1, 3, 0, fun x => .flag (.ofBits x)⟩,
  ⟨7, 0x1B, 1, 3, 0, fun x => .bar (.ofBits x)⟩,
  ⟨7, 0x20, 1, 3, 0, fun x => .fmt (.ofBits x)⟩,
  ⟨7, 0x24, 1, 3, 0, fun x => .pfnc (.ofBits x)⟩,
  ⟨7, 0x25, 1, 3, 0, fun x => .lwid (.ofBits x)⟩,
  ⟨7, 0x28, 1, 3, 0, fun x => .launch (.ofBits x)⟩,
  ⟨7, 0x29, 1, 3, 0, fun x => .evwait (.ofBits x)⟩,
  ⟨7, 0xFF, 1, 1, 0x7FFFFFFFFFFF, fun _ => .realn⟩]
/-- Every assigned opcode but NOP. -/
def opRows : List OpRow :=
  scalarRows0 ++ scalarRows1 ++ scalarRows2 ++ vectorRows0 ++ vectorRows1 ++ matrixRows ++ loadRows ++ storeRows ++ copyRows ++ syncRows

/-- The table that a slot decodes (01 R13). -/
def tableOf (slot : Nat) : Nat := if slot = 2 then 1 else slot

/-- The row of an opcode in a slot, if the version assigns it (02 R43). -/
def findRow (ver slot opc : Nat) : Option OpRow :=
  opRows.find? fun r => r.table = tableOf slot && r.opc = opc && r.lo ≤ ver && ver ≤ r.hi

/-- The reasons that a slot word does not encode an instruction (01 R31). -/
inductive EncErr where
  | opcode
  | reserved
  | register
  | field
  | dependence
  deriving DecidableEq, Repr

/-- ENCD (01 R31). -/
def EncErr.encd : EncErr → Nat
  | .opcode => 0 | .reserved => 1 | .register => 2 | .field => 3 | .dependence => 4
/-- The reason that an ENCD names. -/
def encErrOf (n : Nat) : EncErr :=
  match n with | 0 => .opcode | 1 => .reserved | 2 => .register | 3 => .field | _ => .dependence

/-- Whether an instruction is CBR, whose QP and QN must be 0 (23 R375). -/
def isCbr : Instr → Bool
  | .cbr _ => true
  | _ => false
def isRealn : Instr → Bool
  | .realn => true
  | _ => false

/-- Decode one slot word (01 R15 to R20, R31). -/
def decodeSlot (ver slot : Nat) (w : BitVec 64) : Except EncErr SlotWord :=
  let stop := bitB w 63
  let qp := w.extractLsb' 57 6
  let qn := bitB w 56
  let opc := fieldN w 55 48
  let x := w.extractLsb' 0 48
  let b47 := slot = 7 && bitB w 47
  let y := if slot = 7 then x.extractLsb' 0 47 else 0
  if opc = 0 then
    if (if slot = 7 then y != 0 || (ver = 1 && b47) else x != 0) then .error .reserved
    else .ok ⟨stop, qp, qn, b47, .nop⟩
  else
    match findRow ver slot opc with
    | none => .error .opcode
    | some r =>
      let i := r.build x
      if (ver = 1 && b47) || x &&& r.rsv != 0 then .error .reserved
      else match staticEncd ver i with
        | some e => .error (encErrOf e)
        | none =>
          if isCbr i && (qp != 0 || qn) then .error .field
          else .ok ⟨stop, qp, qn, b47 || isRealn i, i⟩

/-- A number of n bytes, the lowest address first (00 R9). -/
def leNat : List Byte → Nat
  | [] => 0
  | b :: bs => b.toNat + 256 * leNat bs

/-- The eight slot words of a bundle image (01 R12). -/
def slotWord (bundle : BitVec 512) (slot : Nat) : BitVec 64 := bundle.extractLsb' (64 * slot) 64

/-- The slots of a bundle, decoded in order. -/
def decodeBundle (ver : Nat) (bundle : BitVec 512) : List (Except EncErr SlotWord) :=
  (List.range 8).map fun k => decodeSlot ver k (slotWord bundle k)

/-- The lowest-numbered slot that does not decode, with its reason (01 R32). -/
def firstError : Nat → List (Except EncErr SlotWord) → Option (Nat × EncErr)
  | _, [] => none
  | k, .error e :: _ => some (k, e)
  | k, .ok _ :: r => firstError (k + 1) r

/-! ### The encoder -/

/-- The slot table, the opcode and the operand bits of a slot instruction; NOP and the events have none. -/
def opcodeOf (i : Instr) : Option (Nat × Nat × BitVec 48) :=
  match i with
  | .movi o => some (0, 0x01, o.bits)
  | .movhi o => some (0, 0x02, o.bits)
  | .add o => some (0, 0x10, o.bits)
  | .sub o => some (0, 0x11, o.bits)
  | .mul o => some (0, 0x12, o.bits)
  | .mulh o => some (0, 0x13, o.bits)
  | .addi o => some (0, 0x14, o.bits)
  | .muli o => some (0, 0x15, o.bits)
  | .div o => some (0, 0x16, o.bits)
  | .divu o => some (0, 0x17, o.bits)
  | .rem o => some (0, 0x18, o.bits)
  | .remu o => some (0, 0x19, o.bits)
  | .min o => some (0, 0x1A, o.bits)
  | .max o => some (0, 0x1B, o.bits)
  | .minu o => some (0, 0x1C, o.bits)
  | .maxu o => some (0, 0x1D, o.bits)
  | .sel o => some (0, 0x1E, o.bits)
  | .abs o => some (0, 0x1F, o.bits)
  | .and o => some (0, 0x20, o.bits)
  | .or o => some (0, 0x21, o.bits)
  | .xor o => some (0, 0x22, o.bits)
  | .andn o => some (0, 0x23, o.bits)
  | .andi o => some (0, 0x24, o.bits)
  | .ori o => some (0, 0x25, o.bits)
  | .xori o => some (0, 0x26, o.bits)
  | .shl o => some (0, 0x28, o.bits)
  | .shr o => some (0, 0x29, o.bits)
  | .sar o => some (0, 0x2A, o.bits)
  | .rol o => some (0, 0x2B, o.bits)
  | .shli o => some (0, 0x2C, o.bits)
  | .shri o => some (0, 0x2D, o.bits)
  | .sari o => some (0, 0x2E, o.bits)
  | .clz o => some (0, 0x30, o.bits)
  | .ctz o => some (0, 0x31, o.bits)
  | .popc o => some (0, 0x32, o.bits)
  | .bswap o => some (0, 0x33, o.bits)
  | .ext o => some (0, 0x34, o.bits)
  | .dep o => some (0, 0x35, o.bits)
  | .shadd o => some (0, 0x36, o.bits)
  | .cmp o => some (0, 0x40, o.bits)
  | .cmpi o => some (0, 0x41, o.bits)
  | .cmpu o => some (0, 0x42, o.bits)
  | .cmpui o => some (0, 0x43, o.bits)
  | .pand o => some (0, 0x44, o.bits)
  | .por o => some (0, 0x45, o.bits)
  | .pxor o => some (0, 0x46, o.bits)
  | .pandn o => some (0, 0x47, o.bits)
  | .movsp o => some (0, 0x48, o.bits)
  | .movps o => some (0, 0x49, o.bits)
  | .mfsr o => some (0, 0x50, o.bits)
  | .mtsr o => some (0, 0x51, o.bits)
  | .rdli o => some (0, 0x52, o.bits)
  | .mtag o => some (0, 0x53, o.bits)
  | .mfag o => some (0, 0x54, o.bits)
  | .mtbb o => some (0, 0x55, o.bits)
  | .mfbb o => some (0, 0x56, o.bits)
  | .br o => some (0, 0x60, o.bits)
  | .call o => some (0, 0x61, o.bits)
  | .jmpr o => some (0, 0x63, o.bits)
  | .ret o => some (0, 0x62, o.bits)
  | .loop o => some (0, 0x64, o.bits)
  | .brk o => some (0, 0x65, o.bits)
  | .yield => some (0, 0x66, 0)
  | .trap o => some (0, 0x67, o.bits)
  | .eret => some (0, 0x68, 0)
  | .lscale o => some (0, 0x69, o.bits)
  | .cbr o => some (0, 0x70, o.bits)
  | .cbrx o => some (0, 0x71, o.bits)
  | .membw o => some (0, 0x72, o.bits)
  | .membr o => some (0, 0x73, o.bits)
  | .cbst o => some (0, 0x74, o.bits)
  | .bkt o => some (0, 0x75, o.bits)
  | .vAdd o => some (1, 0x10, o.bits)
  | .vSub o => some (1, 0x11, o.bits)
  | .vMul o => some (1, 0x12, o.bits)
  | .vMin o => some (1, 0x13, o.bits)
  | .vMax o => some (1, 0x14, o.bits)
  | .vAbs o => some (1, 0x15, o.bits)
  | .neg o => some (1, 0x16, o.bits)
  | .vAnd o => some (1, 0x18, o.bits)
  | .vOr o => some (1, 0x19, o.bits)
  | .vXor o => some (1, 0x1A, o.bits)
  | .vAndn o => some (1, 0x1B, o.bits)
  | .vShl o => some (1, 0x1C, o.bits)
  | .vShr o => some (1, 0x1D, o.bits)
  | .vSar o => some (1, 0x1E, o.bits)
  | .vMulh o => some (1, 0x1F, o.bits)
  | .fma o => some (1, 0x30, o.bits)
  | .fms o => some (1, 0x31, o.bits)
  | .fnma o => some (1, 0x32, o.bits)
  | .rcp o => some (1, 0x38, o.bits)
  | .rsq o => some (1, 0x39, o.bits)
  | .exp2 o => some (1, 0x3A, o.bits)
  | .log2 o => some (1, 0x3B, o.bits)
  | .vcmp o => some (1, 0x40, o.bits)
  | .mkand o => some (1, 0x41, o.bits)
  | .mkor o => some (1, 0x42, o.bits)
  | .mkxor o => some (1, 0x43, o.bits)
  | .mknot o => some (1, 0x44, o.bits)
  | .selv o => some (1, 0x45, o.bits)
  | .cvt o => some (1, 0x48, o.bits)
  | .bcst o => some (1, 0x4C, o.bits)
  | .perm o => some (1, 0x4D, o.bits)
  | .movv o => some (1, 0x4E, o.bits)
  | .iota o => some (1, 0x4F, o.bits)
  | .rsum o => some (1, 0x50, o.bits)
  | .rmax o => some (1, 0x51, o.bits)
  | .rmin o => some (1, 0x52, o.bits)
  | .part o => some (1, 0x58, o.bits)
  | .gnorm o => some (1, 0x5C, o.bits)
  | .chb o => some (3, 0x01, o.bits)
  | .che o => some (3, 0x02, o.bits)
  | .oclm o => some (3, 0x04, o.bits)
  | .orel o => some (3, 0x05, o.bits)
  | .mms o => some (3, 0x10, o.bits)
  | .mmz o => some (3, 0x11, o.bits)
  | .accrdV o => some (3, 0x18, o.bits)
  | .accrdSp o => some (3, 0x19, o.bits)
  | .scgb o => some (3, 0x21, o.bits)
  | .cbld o => some (3, 0x20, o.bits)
  | .rwfl => some (3, 0x30, 0)
  | .prkld o => some (3, 0x31, o.bits)
  | .knld o => some (3, 0x40, o.bits)
  | .fchb o => some (3, 0x41, o.bits)
  | .spl o => some (3, 0x42, o.bits)
  | .spld o => some (3, 0x43, o.bits)
  | .gref o => some (3, 0x44, o.bits)
  | .fdrn o => some (3, 0x45, o.bits)
  | .ldB o => some (4, 0x10, o.bits)
  | .ldH o => some (4, 0x11, o.bits)
  | .ldW o => some (4, 0x12, o.bits)
  | .ldD o => some (4, 0x13, o.bits)
  | .ldBs o => some (4, 0x14, o.bits)
  | .ldHs o => some (4, 0x15, o.bits)
  | .ldWs o => some (4, 0x16, o.bits)
  | .ldV o => some (4, 0x17, o.bits)
  | .ldg o => some (4, 0x18, o.bits)
  | .bbacq o => some (4, 0x20, o.bits)
  | .ldb o => some (4, 0x28, o.bits)
  | .xlt o => some (4, 0x30, o.bits)
  | .topk o => some (4, 0x38, o.bits)
  | .popw o => some (4, 0x40, o.bits)
  | .aadd o => some (4, 0x48, o.bits)
  | .aand o => some (4, 0x49, o.bits)
  | .aor o => some (4, 0x4A, o.bits)
  | .axor o => some (4, 0x4B, o.bits)
  | .amin o => some (4, 0x4C, o.bits)
  | .amax o => some (4, 0x4D, o.bits)
  | .aswp o => some (4, 0x4E, o.bits)
  | .acas o => some (4, 0x4F, o.bits)
  | .afadd o => some (4, 0x50, o.bits)
  | .stB o => some (5, 0x10, o.bits)
  | .stH o => some (5, 0x11, o.bits)
  | .stW o => some (5, 0x12, o.bits)
  | .stD o => some (5, 0x13, o.bits)
  | .stV o => some (5, 0x17, o.bits)
  | .sts o => some (5, 0x18, o.bits)
  | .bbrel o => some (5, 0x20, o.bits)
  | .mark => some (5, 0x28, 0)
  | .clrf o => some (5, 0x29, o.bits)
  | .cpy o => some (6, 0x10, o.bits)
  | .cpyt o => some (6, 0x11, o.bits)
  | .cpyg o => some (6, 0x12, o.bits)
  | .cpys o => some (6, 0x13, o.bits)
  | .cpyo o => some (6, 0x14, o.bits)
  | .trn o => some (6, 0x15, o.bits)
  | .xch o => some (6, 0x20, o.bits)
  | .xcmb o => some (6, 0x21, o.bits)
  | .sib o => some (6, 0x22, o.bits)
  | .gsh o => some (6, 0x23, o.bits)
  | .mcst o => some (6, 0x24, o.bits)
  | .splg o => some (6, 0x40, o.bits)
  | .twait o => some (7, 0x10, o.bits)
  | .tjoin o => some (7, 0x11, o.bits)
  | .fence o => some (7, 0x18, o.bits48)
  | .drain o => some (7, 0x19, o.bits)
  | .flag o => some (7, 0x1A, o.bits)
  | .bar o => some (7, 0x1B, o.bits48)
  | .fmt o => some (7, 0x20, o.bits48)
  | .pfnc o => some (7, 0x24, o.bits)
  | .lwid o => some (7, 0x25, o.bits48)
  | .launch o => some (7, 0x28, o.bits)
  | .evwait o => some (7, 0x29, o.bits48)
  | .realn => some (7, 0xFF, 0)
  | _ => none

/-- The word of a decoded slot, from the fields of 01 R15 and the operand bits. -/
def encodeSlot (x : SlotWord) : Option (BitVec 64) :=
  let top : BitVec 8 := (if x.stop then 1#1 else 0#1) ++ x.qp ++ (if x.qn then 1#1 else 0#1)
  let real : BitVec 48 := if x.realign && !isRealn x.instr then 0x8000_0000_0000#48 else 0
  match x.instr with
  | .nop => some (top ++ 0#8 ++ real)
  | i => match opcodeOf i with
    | none => none
    | some (_, opc, bits) => some (top ++ BitVec.ofNat 8 opc ++ (bits ||| real))

/-! ### What the host's questions read -/

/-- The instruction of one slot of a bundle, when every slot of the bundle decodes in version 3. -/
def bundleInstr (bundle : BitVec 512) : Option Instr :=
  match firstError 0 (decodeBundle 3 bundle) with
  | some _ => none
  | none =>
    let is := (decodeBundle 3 bundle).filterMap fun
      | .ok x => if x.instr = .nop then none else some x.instr
      | .error _ => none
    some (is.headD .nop)

/-- The instruction that the decoder reads from a word of the opcode table (log 5): up to 64 bits are a scalar slot word, with
the other slots zero; more are a bundle, of which the lowest-numbered instruction answers. -/
def decodeTableWord (nbits w : Nat) : Option Instr :=
  if nbits ≤ 512 then bundleInstr (BitVec.ofNat 512 (w % 2 ^ nbits)) else none

end Sys2Proof
end

