-- ==== Sys2Proof/Machine/State.lean ====
section
/-! DEFINITION. The state of one core of the Vorlo V8, of its die and of its package, as plain data; the outcomes of a step that
are not a next state; and the state right after a cold reset. INVENTORY.md lists every field with its rule. -/

namespace Sys2Proof.Machine

/-! ### Register files of the core -/

/-- Four like fields, numbered 0 to 3. -/
structure Four (α : Type) where
  a : α
  b : α
  c : α
  d : α
  deriving DecidableEq, Repr

def Four.get {α : Type} (f : Four α) (j : Nat) : α :=
  match j with | 0 => f.a | 1 => f.b | 2 => f.c | _ => f.d
def Four.set {α : Type} (f : Four α) (j : Nat) (x : α) : Four α :=
  match j with | 0 => { f with a := x } | 1 => { f with b := x } | 2 => { f with c := x } | _ => { f with d := x }
def Four.all {α : Type} (x : α) : Four α := ⟨x, x, x, x⟩

/-- An address generator (03 R71), with its running indices (05 R108). -/
structure Gen where
  base : W64
  stride : Four (BitVec 32)
  extent : Four (BitVec 24)
  dir : BitVec 4
  idx : Four Nat
  deriving DecidableEq, Repr
def Gen.zero : Gen := ⟨0, .all 0, .all 0, 0, .all 0⟩

/-- A bobbin descriptor (03 R72) with its counters, slot pointers and unreleased acquisitions (05 R115). -/
structure Bobbin where
  base : BitVec 20
  slot : Nat
  count : Nat
  free : Nat
  filled : Nat
  cons : Nat
  prod : Nat
  consHeld : Nat
  prodHeld : Nat
  deriving DecidableEq, Repr
def Bobbin.zero : Bobbin := ⟨0, 0, 0, 0, 0, 0, 0, 0, 0⟩

/-- What the rewrite stage made of a slot (19 R328, R333): cancelled (its writes made or not), or a replacement after a
template of the cancelled instruction with this BSN. -/
inductive RwKind where
  | cancelled (keep : Bool) (template : Nat)
  | replaced (template : Nat) (u : Nat)
  deriving DecidableEq, Repr

/-- A rewritten slot: the rule, and the original instructions in program order (08 R159). -/
structure Rw where
  rule : Nat
  origs : List W64
  kind : RwKind
  deriving DecidableEq, Repr

/-- The error record of one production of a token (08 R158), with the rewriting that its trap reports (19 R334). `next` is the production whose issue has
cleared it (09 R167): later consumers see it no more. -/
structure TokErr where
  prod : Nat
  cause : Nat
  addr : W64
  consumed : Bool
  rw : Option Rw
  next : Option Nat
  deriving DecidableEq, Repr

/-- A token (09 R167): the productions that have issued and not completed, and the errored ones.
A production is numbered by its slot of the run: 8 × BSN + slot. -/
structure Token where
  pend : List Nat
  errs : List TokErr
  deriving DecidableEq, Repr
def Token.fresh : Token := ⟨[], []⟩

/-- One level of the loop stack (03 R75). A level below an active one may be inactive: a frame whose LSACT has a gap gives it (08 R162). -/
structure Loop where
  count : W64
  index : W64
  start : W64
  stop : W64
  active : Bool
  deriving DecidableEq, Repr

/-- A scale binding (16 R298). -/
structure Binding where
  code : Nat
  base : W64
  s2 : BitVec 32
  s3 : BitVec 32
  c : Nat
  r : Nat
  n : Nat
  deriving DecidableEq, Repr
def Binding.none : Binding := ⟨0, 0, 0, 0, 0, 0, 0⟩

/-- An open chain (16 R290, 20 R340): an MMS chain keeps the value from which its present segment started and the
contributions that have landed since, and of each element that an engine has written in it how many had landed by then and the value written; a
filet chain its first slot, knot set and width. -/
inductive Chain where
  | mms (start : AccImg) (adds : List AccImg) (segs : List (Nat × Nat × BitVec 32))
  | filet (b k : Nat) (wide : Bool)
  deriving DecidableEq, Repr

/-- A pricking rule (19 R327). -/
structure Rule where
  cls : Nat
  keep : Bool
  template : Nat
  deriving DecidableEq, Repr

structure Regs where
  s : Map W64
  p : BitVec 64
  v : Map Vec
  mask : Map MaskReg
  ag : Map Gen
  acc : Map AccImg
  o : Map OpImg
  claims : BitVec 32
  tok : Map Token
  loops : List Loop
  w : Map (List Vec)
  bb : Map Bobbin
  cb : Map (BitVec 2048)
  kn : Map (BitVec 128)
  chains : Map Chain
  bindA : Binding
  bindB : Binding
  pricking : Map Rule
  deriving DecidableEq, Repr

/-! ### Special registers of the core -/

/-- A range register (14 R255, 02 R42). -/
structure Range where
  base : W64
  limit : W64
  off : BitVec 52
  deriving DecidableEq, Repr
/-- A register that covers nothing (14 R432). -/
def Range.none : Range := ⟨BitVec.allOnes 64, 0, 0⟩

/-- A pending FMT (07 R144, 08 R153): enables, value, bundles still to be dispatched before it is in force. -/
structure PendFmt where
  en : BitVec 5
  val : BitVec 20
  left : Nat
  deriving DecidableEq, Repr

structure Spec where
  coreid : BitVec 6
  kndim : Nat
  fmtr : BitVec 32
  pend : List PendFmt
  perm : BitVec 2
  stky : BitVec 4
  lsscl : BitVec 8
  lscnt : BitVec 32
  lscfg : BitVec 48
  wdog : W64
  cbto : BitVec 32
  subm : BitVec 15
  dimmap : BitVec 60
  tcause : W64
  tvec : W64
  tfb : W64
  ranges : Map Range
  deriving DecidableEq, Repr

/-! ### Dispatch, queues, landing -/

/-- The value of a scalar operand of a queued slot (03 R63): held at dispatch, or awaited from the producer with this BSN. -/
inductive Capt where
  | known (x : W64)
  | wait (bsn : Nat)
  deriving DecidableEq, Repr

/-- A dispatched slot in its trailing queue (07 R134), with the operands captured at dispatch (03 R63) or on joining the
rewrite window (19 R325), and the slots that are claimed at its BSN (09 R175). `joined` says that it has joined the window: for the holds
of R71 and R325 it then counts as issued. -/
structure QSlot where
  k : Nat
  instr : Instr
  q : Bool
  sv : List (Nat × Capt)
  gens : List (Nat × List W64)
  binds : Option (Binding × Binding)
  claims : BitVec 32
  rw : Option Rw
  joined : Bool
  deriving DecidableEq, Repr

/-- A dispatched bundle in one trailing queue. -/
structure QEntry where
  bsn : Nat
  pc : W64
  realign : Bool
  idx : List W64
  fmtr : BitVec 32
  slots : List QSlot
  deriving DecidableEq, Repr

structure Queues where
  va : List QEntry
  vb : List QEntry
  mx : List QEntry
  mem : List QEntry
  cp : List QEntry
  sy : List QEntry
  deriving DecidableEq, Repr

/-- Where a vector result or a saved record lands. -/
inductive Dst where
  | v (n : Nat)
  | mk (n : Nat)
  deriving DecidableEq, Repr

/-- A VA or VB result in flight (04 R89): it lands in the issue cycle of the bundle with BSN `due`, and writes the bits of
`val` that `wm` marks. `sticky` holds the bits that a GNORM's result sets, and is none for any other (23 R370); `re` the place of a record that
ERET or a resumption has re-injected (08 R154, R162). -/
structure Latch where
  q : VQueue
  dst : Dst
  val : Vec
  wm : Vec
  bsn : Nat
  due : Nat
  sticky : Option (BitVec 4)
  re : Option Nat
  deriving DecidableEq, Repr

/-- A latch record (08 R154). -/
structure LatchRec where
  q : VQueue
  dst : Dst
  val : Vec
  wm : Vec
  left : Nat
  sticky : Option (BitVec 4)
  deriving DecidableEq, Repr

/-- A matrix or filet step in flight (16 R288, R289, 20 R342): the contribution to rows lo up to hi of its accumulator, whether it
overwrites them, the matrix issue cycles before it lands, the beats left, and the slots and tables that its beats read. `prior` holds, of
elements of its accumulator that engines wrote while it was in flight, the values that it may land on in the place of the present one, in their order, each with what
the chain then takes that element's segment to be (18 R319). -/
structure MStep where
  acc : Nat
  bsn : Nat
  filet : Bool
  zero : Bool
  lo : Nat
  hi : Nat
  val : AccImg
  left : Nat
  beats : Nat
  reads : List Nat
  cb : Option Nat
  kn : Option Nat
  shadow : Bool
  prior : List (Nat × BitVec 32 × Option (Nat × BitVec 32))
  deriving DecidableEq, Repr

/-- A pending interlocked write (07 R138). -/
structure Pending where
  file : File
  n : Nat
  bsn : Nat
  deriving DecidableEq, Repr

/-- A value that has been delivered and not yet landed: the bits of `val` that `wm` marks, from a producer in the queue `q`. `write` is false where
the producer writes no register. -/
structure Delivery where
  file : File
  n : Nat
  bsn : Nat
  val : Vec
  wm : Vec
  write : Bool
  sticky : BitVec 4
  q : Queue
  deriving DecidableEq, Repr

/-- A write of a compute queue or of an interlocked producer since the last realign, for the reads and writes of 07 R139: what the register held
before, and what was written to which bits. -/
structure Unordered where
  dst : Dst
  q : Queue
  bsn : Nat
  old : Vec
  val : Vec
  wm : Vec
  deriving DecidableEq, Repr

/-! ### Traps -/

/-- What a cause reports (08 R150 to R153, R159). -/
structure TrapInfo where
  cause : Nat
  detail : Nat
  queue : Nat
  slot : Nat
  fbundle : W64
  fbsn : Nat
  faddr : W64
  rw : Option Rw
  deriving DecidableEq, Repr

/-- A store that waits in the gate (05 R121), by memory key. -/
structure GateStore where
  key : Nat
  bytes : List Byte
  bsn : Nat
  deriving DecidableEq, Repr

/-- The journal (05 R121): what each register held at its first write after the mark. -/
structure Journal where
  s : Map W64
  p : Map Bool
  mask : Map MaskReg
  v : Map Vec
  ag : Map Gen
  loops : Option (List Loop)
  lsscl : Option (BitVec 8)
  lscnt : Option (BitVec 32)
  stky : Option (BitVec 4)
  claims : Map Bool
  chains : Map (Option Chain)
  bindA : Option Binding
  bindB : Option Binding
  bars : Option (Four Nat)
  deriving DecidableEq, Repr
def Journal.empty : Journal :=
  ⟨[], [], [], [], [], none, none, none, none, [], [], none, none, none⟩

/-- A mark (05 R121, R122), with the writes before it that no realign has ordered yet (07 R139), and the slots that lie behind it although they were
dispatched before: those that a run-ahead held (25 R391), with their pending writes and holds. `exit` says that the position is that behind a RET that ends the kernel. -/
structure Mark where
  pc : W64
  loops : List Loop
  fmtr : BitVec 32
  pend : List PendFmt
  recs : List LatchRec
  unord : List Unordered
  held : Queues
  sb : List Pending
  holds : List Nat
  exit : Bool
  deriving DecidableEq, Repr

/-- How a kernel ends on a core (26 R410), with what a fault reports. -/
structure EndStatus where
  fault : Bool
  tcause : W64
  fbundle : W64
  faddr : W64
  token : Option Nat
  deriving DecidableEq, Repr
def EndStatus.ok : EndStatus := ⟨false, 0, 0, 0, none⟩

/-- The front end (03 R74, 05 R122, 07 R147, 08 R155, R163). -/
inductive Fe where
  | idle
  | run
  | marking
  | draining (info : Option TrapInfo)
  | returning
  | landing
  | landed
  | saved
  | exiting (st : EndStatus)
  | ended (st : EndStatus)
  deriving DecidableEq, Repr

/-- A collective group on this core (23 R372 to R377, 25 R388). `any` is the operation of the CBR that is held or unresolved; `resKept` is
a result known before its CBR dispatched. -/
structure Group where
  gdim : BitVec 15
  gcore : W64
  seq : BitVec 32
  broken : Bool
  owed : Bool
  wait : Bool
  pred : Bool
  last : Bool
  lop : Bool
  any : Bool
  contributed : Bool
  resKept : Option Bool
  since : W64
  stopped : Nat
  deriving DecidableEq, Repr
def Group.zero : Group := ⟨0, 0, 0, false, false, false, false, false, false, false, false, none, 0, 0⟩

/-- Running ahead of a collective branch (25 R390): its group, bundle and BSN, and the predicted result. -/
structure RunAhead where
  g : Nat
  pc : W64
  bsn : Nat
  pred : Bool
  deriving DecidableEq, Repr

/-- What a scalar slot asks of the dispatch of its bundle. -/
inductive ScAct where
  | none
  | goto (t : W64)
  | exit
  | softTrap (code : Nat)
  | yield
  | eret
  deriving DecidableEq, Repr

/-- What an executing slot answers to its queue: done; stalled, with no issue cycle; waiting, with its progress kept; or trapped. -/
inductive Ctl where
  | done
  | stall
  | wait
  | trapped
  deriving DecidableEq, Repr

/-- The slot that is executing. -/
structure Cur where
  k : Nat
  bsn : Nat
  pc : W64
  q : Bool
  sv : List (Nat × Capt)
  idx : List W64
  fmtr : BitVec 32
  gens : List (Nat × List W64)
  binds : Option (Binding × Binding)
  claims : BitVec 32
  rw : Option Rw
  act : ScAct
  ctl : Ctl
  deriving DecidableEq, Repr
def Cur.zero : Cur := ⟨0, 0, 0, true, [], [], 0, [], none, 0, none, .none, .done⟩

/-- The waits with a limit that have begun (09 R184, R187, R194): the slot, its BSN and the TICK at the start. -/
structure WaitRec where
  k : Nat
  bsn : Nat
  since : W64
  deriving DecidableEq, Repr

/-- A write of this core at another die that has performed there and whose acknowledgement is still to come (13 R236): its number, home and bundle. -/
structure Unacked where
  id : Nat
  home : Coord
  bsn : Nat
  deriving DecidableEq, Repr

structure Seq where
  pc : W64
  bsn : Nat
  handler : Bool
  fe : Fe
  grp : List Opd
  qs : Queues
  latches : List Latch
  steps : List MStep
  sb : List Pending
  deliver : List Delivery
  unord : List Unordered
  cur : Cur
  holds : List Nat
  realigned : Nat
  gate : List GateStore
  reserved : Nat
  jr : Journal
  mark : Mark
  atMark : Bool
  wcount : W64
  asyncs : List (Nat × Nat)
  rbFaults : List TrapInfo
  preempt : Bool
  pins : List Nat
  groups : Four Group
  ahead : Option RunAhead
  barsReached : Four Nat
  barsDone : Four Nat
  flagCnt : List (Coord × Nat × Nat)
  unacked : List Unacked
  waits : List WaitRec
  window : List (Nat × Nat)
  kept : List (Nat × List (Nat × Byte))
  markDue : Bool
  markBehind : Option Nat
  recSticky : List (Option (BitVec 4))
  retAt : Option W64
  deriving DecidableEq, Repr

/-! ### The kernel in place (01 R34, 26 R404 to R408) -/

/-- What the command processor took from the image: the code among it (01 R35). -/
structure Kernel where
  ver : Nat
  preemptOk : Bool
  trapen : Bool
  persist : Bool
  permRound : Bool
  permAssoc : Bool
  members : BitVec 4
  gateKb : Nat
  codeBase : W64
  code : List Byte
  owner : BitVec 16
  coreids : W64
  cls : Nat
  ltag : W64
  queue : Nat
  deriving DecidableEq, Repr
def Kernel.none : Kernel := ⟨0, false, false, false, false, false, 0, 0, 0, [], 0, 0, 0, 0, 0⟩

/-! ### Engines -/

/-- Some bytes of a run, as they were translated at issue (09 R169, 14 R254): the run's number, their place in it, their virtual address and memory
key, and how many they are. -/
structure Piece where
  run : Nat
  off : Nat
  va : W64
  key : Nat
  len : Nat
  deriving DecidableEq, Repr

/-- What a transfer writes in one sector of 32 bytes (13 R248): its place in the order of the transfer, the bytes, and the number under which it was
sent toward a remote home. `late` says that a part of a sector of registers has been written ahead of these bytes (13 R246); of an accumulator `ahead` holds the
bytes that a read of it finds already. -/
structure Sect where
  ord : Nat
  parts : List Piece
  sent : Option Nat
  late : Bool
  ahead : List (Nat × Byte)
  deriving DecidableEq, Repr

/-- A source piece that is still to be read, with the number under which its request was sent toward a remote home. -/
structure Fetch where
  piece : Piece
  sent : Option Nat
  deriving DecidableEq, Repr

/-- The progress of a transfer (13 R246 to R249): what is still to be read, what has been read, what could not be read, in each segment the sectors still to
be written, the place at which it stops with what it reports, the number of its free choices (09 R171), the bytes of its stream that it has
sent, the vectors for which it holds credits (11 R210), and the bytes that an XCMB has put into stream registers. -/
structure Xfer where
  reads : List Fetch
  got : List (Piece × List Byte)
  lost : List Piece
  segs : List (List Sect)
  stop : Option (Nat × Nat × W64)
  seed : Nat
  out : Nat
  credit : Nat
  fed : Nat
  deriving DecidableEq, Repr
def Xfer.none : Xfer := ⟨[], [], [], [], .none, 0, 0, 0, 0⟩

/-- One side of a copy (09 R170): the pieces of its runs, or a bobbin. -/
inductive Side where
  | runs (a : List Piece)
  | bob (n : Nat)
  deriving DecidableEq, Repr

/-- Where a dimension instruction puts what it receives (09 R178, R179). -/
inductive Recv where
  | runs (a : List Piece)
  | stream (w : Nat)
  deriving DecidableEq, Repr

/-- The work of an engine command, with the operands taken at issue (09 R169). -/
inductive Work where
  | null
  | copy (src dst : Side) (us ud n cv fmt : Nat)
  | rows (src dst : List Piece) (len : Nat)
  | put (dst : List Piece) (data : List (List Byte))
  | fillO (o row0 : Nat) (src : List Piece)
  | trn (src dst : List Piece) (ew n : Nat)
  | cbld (n : Nat) (a : Piece)
  | prkld (a : Piece) (n : Nat)
  | knld (n : Nat) (a : Piece)
  | gref (d a e : Nat) (kn : BitVec 128)
  | splg (rows : List Piece) (x g : OpImg) (kn : BitVec 128) (wide : Bool)
  | ldb (a : List Piece) (lines : Nat)
  | dim (l recvL sendDim recvDim : Nat) (send : List Piece) (recv : Recv) (u : Nat) (op : Option Nat) (sends recvs : Bool)
  | mcast (mask : BitVec 15) (root : Coord) (send recv : List Piece) (u : Nat) (sends recvs : Bool)
  | portFence (d : Nat) (kind : Nat)
  | flag (id : Nat) (va : W64)
  deriving DecidableEq, Repr

/-- A command of an engine, or another producer of a token (09 R167): its slot, its token and production, the tokens that it consumes, each
as its productions of lower number than a bound, its time if it is a CPYT, whether its work has started, the bobbin slots that it took, and the first error that it met, with the rewriting
that a consumed error names. -/
structure Cmd where
  id : Nat
  eng : Engine
  k : Nat
  bsn : Nat
  pc : W64
  work : Work
  kp : Nat
  prod : Nat
  needs : List (Nat × Nat)
  rw : Option Rw
  time : Option W64
  active : Bool
  srcSlot : Option Nat
  dstSlot : Option Nat
  err : Option (Nat × W64)
  errRw : Option Rw
  xf : Xfer
  deriving DecidableEq, Repr

/-- A received stream of this core's COREID, or part of one, that no receive has taken yet (11 R207, R210): from the die `src`, over a
physical dimension or as an MCST over a set of them. `stamps` numbers the arrivals of its bytes among the die's requests, with how many came (11 R213). -/
structure RxStream where
  src : Coord
  mcast : Option (BitVec 15)
  bytes : List Byte
  complete : Bool
  stamps : List (Nat × Nat)
  deriving DecidableEq, Repr

/-- A stream that a command has sent, with the dies whose acknowledgement is still to come (09 R183). -/
structure SentStream where
  id : Nat
  mcast : Option (BitVec 15)
  wait : List Coord
  deriving DecidableEq, Repr

/-- The engines' commands, the streams that arrive and leave, and the vectors of each logical dimension's partner buffer for which this core has used its credits (11 R210). -/
structure Eng where
  cmds : List Cmd
  nextId : Nat
  rx : List RxStream
  sent : List SentStream
  used : Map Nat
  deriving DecidableEq, Repr

/-! ### Memory -/

/-- Who made a request (14 R265, R266): this core, or for a write that has left the core and outlived its context here, `past`; a
queue pair of the host, an NVMe read, or another die. -/
inductive ReqSrc where
  | core
  | past
  | host (qp : Nat)
  | nvme (id : Nat)
  | remote (die : Coord) (core : BitVec 6) (id : Nat)
  deriving DecidableEq, Repr

/-- What a request asks of its home. The elements of a store to scratchpads perform one after another in the same way (13 R248); their runs hold memory keys. -/
inductive ReqOp where
  | load
  | store (data : List Byte)
  | pads (data : List Byte)
  | check
  | atomic (op : Nat) (b old : W64)
  | xlt (pin : Bool) (since : W64)
  deriving DecidableEq, Repr

/-- How far a request has come (14 R265, R266): held until its home is known, sent toward its home, or past its home's checks and still to perform. -/
inductive ReqStage where
  | held
  | sent
  | checked
  deriving DecidableEq, Repr

/-- A request to one page (14 R265): each run is the number of its first byte within the access, an intermediate address and a
length in bytes; `va` is the virtual address of the first run. `firm` says that no rollback drops it: a mark has been set behind it, or it is a handler's.
`counts` says that it is the last request of a store or atomic toward its home, which FLAG counts once (09 R188). `vetted` says that its checks have been made
with those of an atomic of its bundle that has performed (13 R241), `whole` that its runs perform together: those of one scalar, element or sector that the mapping cuts
(05 R111), or what an engine of another die writes in one sector (13 R248). -/
structure Req where
  id : Nat
  src : ReqSrc
  bsn : Nat
  pc : W64
  k : Nat
  op : ReqOp
  page : Nat
  runs : List (Nat × Nat × Nat)
  va : W64
  owner : BitVec 16
  stage : ReqStage
  firm : Bool
  counts : Bool
  vetted : Bool
  whole : Bool
  deriving DecidableEq, Repr

/-- A memory access of the core whose answers are still arriving. -/
structure Access where
  bsn : Nat
  k : Nat
  file : File
  n : Nat
  val : Vec
  wm : Vec
  left : Nat
  sx : Nat
  write : Bool
  deriving DecidableEq, Repr

/-- STATE of a page entry (14 R264), with the target of a move and the time at which it began, or the extent of an offload. -/
inductive PageState where
  | resident
  | moving (target : Coord) (since : W64)
  | offloading (region off : Nat)
  | offloaded (region off : Nat)
  | returning (region off : Nat)
  deriving DecidableEq, Repr

/-- A page entry (14 R264) with its home (R266). -/
structure Page where
  ia : Nat
  large : Bool
  owner : BitVec 16
  frame : Nat
  key : Nat
  uncached : Bool
  ro : Bool
  st : PageState
  moves : List W64
  tack : Option W64
  pins : Nat
  home : Coord
  used : W64
  deriving DecidableEq, Repr

/-- The 64-byte accesses of a page from one die in one interval (14 R267). -/
structure Count where
  page : Nat
  die : Coord
  at' : Nat
  n : Nat
  deriving DecidableEq, Repr

/-- Memory: its cells, the empty lines of the own scratchpad, the requests and answers under way, page entries and directory. `bad` names the
bytes in which an uncorrectable soft error stands (08 R165), `tier` how much of a returning page has come from the anchor die (27 R427), `gone` the cores of the kernel that no longer run it (14 R258). -/
structure Mem where
  cells : List Host.Cell
  empties : List Nat
  reqs : List Req
  accs : List Access
  pages : List Page
  dir : List (Nat × Coord)
  homeCache : List (Nat × Coord)
  counts : List Count
  bad : List Nat
  gone : BitVec 64
  blocks : List (W64 × Nat)
  migc : BitVec 64
  freeFrames : List (Coord × Nat)
  offloadAsked : Bool
  nextReq : Nat
  interval : Nat
  tier : Map Nat
  deriving DecidableEq, Repr

/-! ### The fabric at this die -/

/-- The bring-up stage of a link (12 R231 to R233). -/
inductive Stage where
  | down
  | fast
  | training
  | aligned
  | up
  deriving DecidableEq, Repr

/-- Whose flits a port serves (26 R419). -/
inductive Requester where
  | core (c : BitVec 6)
  | memory
  | relay
  deriving DecidableEq, Repr

/-- The port of one physical dimension (11 R211 to R220, 12 R221 to R234). A fence holds the number of queued flits ahead of it; a direction's
second key slot an epoch; `fastFailed` the time at which the fast bring-up failed (12 R233), `auth` the handshake flit that this end has sent (R232),
`nakDue` a NAK that waits for room on the direction back (R230), `lwid` that LWID has set the width (11 R220). -/
structure Port where
  installed : Bool
  stage : Stage
  dead : Bool
  since : W64
  lanes : Nat
  ded : Nat
  lwid : Bool
  shr : Nat
  striped : Nat
  lpctl : BitVec 64
  lowSince : W64
  portFence : Option Nat
  circFence : Option Nat
  outq : List (Requester × Flit)
  cord : List CordMsg
  cordBack : List CordMsg
  cordSince : W64
  cordGap : Nat
  halfSent : Bool
  last : Requester
  txEpoch : Nat
  txCtr : Nat
  oldSlot : Option Nat
  replay : List Flit
  rxEpoch : Nat
  rxCtr : Nat
  rxSince : Nat
  rxAckSince : W64
  rxFails : Nat
  ackSince : W64
  fails : Nat
  eqCached : Bool
  prk : Option (BitVec 384)
  half : Bool
  rxOldSlot : Option Nat
  fastFailed : Option W64
  auth : Option Flit
  nakDue : Bool
  deriving DecidableEq, Repr

/-- A die's partial result of one reduction (25 R388). -/
structure Partial where
  id : GroupId
  n : BitVec 32
  any : Bool
  cores : List (BitVec 6 × Bool)
  dims : List (Nat × Bool)
  sentTo : List Nat
  deriving DecidableEq, Repr

/-- A receiver that is retuning (12 R227): its fibre, and the ports whose traffic is fenced for it. -/
structure Retune where
  grp : Nat
  fibre : Nat
  ports : List Nat
  deriving DecidableEq, Repr

/-- The fabric at this die. `cordHeld` holds cordonnet messages for this die that came before an earlier one of their pair (11 R213), `detoured` the
flits, and `cordDetoured` the messages, that this die has sent over a detour and whose far end has not acknowledged them, in order (R216). -/
structure Fab where
  coord : Coord
  ports : Map Port
  linkMap : List (Coord × Nat × LinkState)
  txSeq : List (Coord × Nat)
  rxSeq : List (Coord × Nat)
  cordTx : List (Coord × Nat)
  cordRx : List (Coord × Nat)
  cordHeld : List CordMsg
  detoured : List Flit
  cordDetoured : List CordMsg
  grants : List Grant
  retuning : List Retune
  sentFlags : List FlagMsg
  flags : List FlagMsg
  performed : List (Coord × BitVec 6 × Nat)
  partials : List Partial
  early : List Contribution
  barArrived : List (Nat × Coord × BitVec 6 × Nat)
  deriving DecidableEq, Repr

/-! ### The command processor -/

/-- A record in a queue (26 R399 to R402), with the tenant and class that it bears, the host tag of its CQWR, the TICK since which it is eligible, and the
cycles for which it has been before. -/
structure Rec where
  bits : BitVec 512
  owner : BitVec 16
  parentCls : Nat
  tag : W64
  eligible : Option W64
  spent : Nat
  aged : Nat
  deriving DecidableEq, Repr

/-- A tenant (26 R404, 14 R432). -/
structure Tenant where
  owner : BitVec 16
  base : Coord
  mask : BitVec 15
  ranges : List Range
  ecs : List Nat
  deriving DecidableEq, Repr

/-- A kernel that has been placed (26 R406 to R416). `here` says that it occupies this core, `placed` orders the placements, and `pins` are those that its core
here had set when it was resumed elsewhere, `unacked` its writes from this core that await their acknowledgements, where its context has left (09 R194). -/
structure Run where
  id : Nat
  queue : Nat
  rcd : Rec
  header : List Byte
  kernel : Kernel
  ndim : Nat
  clusters : List Nat
  mask : BitVec 15
  base : Coord
  here : Bool
  killed : Bool
  suspended : Bool
  asked : Option W64
  placed : Nat
  pins : List Nat
  unacked : List Nat
  deriving DecidableEq, Repr

/-- A record that has left its queue and not yet completed (26 R401, R409): in order of acceptance, with the kernel whose end a CANCEL
waits for, and its completion status but for the SIGNAL that waits (R410). -/
structure Waiting where
  id : Nat
  queue : Nat
  rcd : Rec
  target : Option Nat
  status : BitVec 256
  deriving DecidableEq, Repr

/-- The context image of a suspended kernel on this core (08 R166, 25 R396). -/
structure Context where
  run : Nat
  r : Regs
  x : Spec
  f : Seq
  spad : List Host.Cell
  empties : List Nat
  rx : List RxStream
  used : Map Nat
  arrived : List (Nat × Coord × BitVec 6 × Nat)
  deriving DecidableEq, Repr

structure Cp where
  queues : Map (List Rec)
  lastServed : Nat
  bind : Map (BitVec 16)
  tenants : List Tenant
  ecs : Map W64
  runs : List Run
  nextRun : Nat
  finished : List Waiting
  waiting : List Waiting
  contexts : List Context
  wdogDefault : W64
  cbtoDefault : BitVec 32
  draw : BitVec 16
  limit : BitVec 16
  thr : Bool
  out : List Reply
  deriving DecidableEq, Repr

/-! ### The package -/

/-- The bring-up of the package (27 R429, R430): held in reset, at work, at work on the last kernels before a warm reset, or done with them and before the bring-up. -/
inductive Power where
  | held
  | ready
  | ending
  | ended
  deriving DecidableEq, Repr

/-- How far an NVMe read has come (27 R426): its data is awaited, or performs, with the status that came and whether a home has refused a part; or its status
performs. -/
inductive NvPhase where
  | reading
  | data (status : W64) (refused : Bool)
  | status
  deriving DecidableEq, Repr

/-- An NVMe read in progress, of a die of the package (27 R426). -/
structure NvRun where
  id : Nat
  cmd : NvRead
  die : BitVec 3
  phase : NvPhase
  deriving DecidableEq, Repr

/-- The package. `turns` holds the number of the message that acts next on a queue pair (27 R423), `relayed` the messages that other dies have still to act on, by
queue pair and die, and `inbox` those that the anchor has relayed to this die, or at the anchor those that act once the others have (00 R5); `farPins` the ingest windows of other packages
that pin pages, each with the anchor there, and `pinsDue` the dies of other packages that have still to pin those of a window of this one (R424); `spdm` the header under which the SPDM message at the port came (R422). `image` is
the configuration image (R429), `channels` what has come through training. -/
structure Pkg where
  power : Power
  phys : Nat
  disabled : List Nat
  channels : Nat
  qps : List (Nat × QpRole)
  turns : List (Nat × BitVec 32)
  relayed : List (Nat × BitVec 3)
  inbox : List (MsgHdr × HostMsg)
  spdm : MsgHdr
  windows : Map Window
  farPins : List (Coord × Nat × Nat × Nat)
  pinsDue : List (Nat × Coord)
  reads : List NvRun
  nextRead : Nat
  regions : Map Region
  lost : List Nat
  image : ConfigMap
  deriving DecidableEq, Repr

/-! ### The whole -/

/-- Who moves next: the front end, a trailing queue, another transition of the machine, or an SPDM message with its header (log 2). -/
inductive Turn where
  | front
  | queue (q : Queue)
  | event (i : Instr)
  | message (h : MsgHdr) (i : Instr)
  | idle
  deriving DecidableEq, Repr

structure State where
  tick : W64
  r : Regs
  x : Spec
  f : Seq
  kn : Kernel
  e : Eng
  m : Mem
  l : Fab
  c : Cp
  h : Pkg
  agenda : List Turn
  fresh : Nat
  deriving DecidableEq, Repr

/-- Why the machine stops. -/
inductive Fault where
  /-- Raised by a step while the package is held in reset because the signature of its image failed (27 R429), where the agenda names a transition of the machine: a
  turn of the front end or of a queue, or an event that is no message. Messages but MGRD and SPDM go unanswered there. Safe: the spec gives no such transition. -/
  | heldInReset
  deriving DecidableEq, Repr

/-- Why a transition is refused. -/
inductive Refusal where
  /-- An instruction without a meaning yet, by its mnemonic. Raised by exec only. Safe. -/
  | notModelled (mnemonic : String)
  /-- Raised by a transition whose own condition does not hold in this state (log 2): it cannot occur there. Safe: it allows nothing. -/
  | notEnabled (mnemonic : String)
  deriving DecidableEq, Repr

/-! ### After reset -/

/-- The register files before the first kernel, for which the spec gives no value: DESIGN CHOICE (log 7). -/
def Regs.reset : Regs :=
  ⟨[], 0, [], [], [], [], [], 0, [], [], [], [], [], [], [], Binding.none, Binding.none, []⟩
def Spec.reset : Spec := ⟨0, 0, 0, [], 0, 0, 0, 0, 0, 0, 0, 0, 0, 0, 0, 0xF4000, []⟩
def Queues.empty : Queues := ⟨[], [], [], [], [], []⟩
def Mark.zero : Mark := ⟨0, [], 0, [], [], [], .empty, [], [], false⟩
def Seq.reset : Seq :=
  { pc := 0, bsn := 0, handler := false, fe := .idle, grp := [], qs := .empty, latches := [], steps := [], sb := []
    deliver := [], unord := [], cur := .zero, holds := [], realigned := 0, gate := [], reserved := 0, jr := .empty
    mark := .zero, atMark := true, wcount := 0, asyncs := [], rbFaults := [], preempt := false, pins := []
    groups := .all .zero, ahead := none, barsReached := .all 0, barsDone := .all 0, flagCnt := [], unacked := []
    waits := [], window := [], kept := [], markDue := false, markBehind := none, recSticky := [], retAt := none }
def Port.reset : Port :=
  { installed := false, stage := .down, dead := false, since := 0, lanes := 0, ded := 0, lwid := false, shr := 0, striped := 0
    lpctl := 0x0040000800400001, lowSince := 0, portFence := none, circFence := none, outq := [], cord := [], cordBack := []
    cordSince := 0, cordGap := 0, halfSent := false, last := .relay, txEpoch := 0, txCtr := 0, oldSlot := none, replay := [], rxEpoch := 0
    rxCtr := 0, rxSince := 0, rxAckSince := 0, rxFails := 0, ackSince := 0, fails := 0, eqCached := false, prk := none, half := false, rxOldSlot := none
    fastFailed := none, auth := none, nakDue := false }
def Cp.reset : Cp :=
  { queues := [], lastServed := 19, bind := [], tenants := [], ecs := [], runs := [], nextRun := 0, finished := []
    waiting := [], contexts := [], wdogDefault := 0x80000000, cbtoDefault := 1000000, draw := 0, limit := 600
    thr := false, out := [] }
/-- The image under which the machine stands at reset: a die of full width with nothing disabled (log 6). -/
def resetImage : ConfigMap := ⟨0, 0, [], [], [], 64, []⟩
def Pkg.reset : Pkg :=
  { power := .ready, phys := 0, disabled := [], channels := 64, qps := [], turns := [], relayed := [], inbox := [], spdm := ⟨0, 0x08, 0, 0, 0, false⟩, windows := [], farPins := [], pinsDue := [], reads := [], nextRead := 0
    regions := [], lost := [], image := resetImage }

/-- The machine after a cold reset has run its steps (27 R430), before any kernel has been placed (log 6, log 7). -/
def State.reset : State :=
  { tick := 0, r := .reset, x := .reset, f := .reset, kn := .none
    e := ⟨[], 0, [], [], []⟩
    m := ⟨[], [], [], [], [], [], [], [], [], 0, [], 0, [(0, 0x200000)], false, 0, 0, []⟩
    l := ⟨0, [], [], [], [], [], [], [], [], [], [], [], [], [], [], [], [], []⟩
    c := .reset, h := .reset, agenda := [], fresh := 0 }

end Sys2Proof.Machine

namespace Sys2Proof.Config

/-- The context image that another core has saved, the n-th that this core resumes (26 R416, log 22). -/
opaque otherImage : Nat → Option Machine.Context

end Sys2Proof.Config
end

