-- ==== Sys2Proof/Machine/Store.lean ====
section
/-! DEFINITION. Sparse files in canonical form, byte memory on top of them, and the lanes of wide registers. -/

namespace Sys2Proof.Machine

/-! ### Sparse files -/

/-- What a file holds at a number: the default where nothing is listed. -/
def mapGet {α : Type} (d : α) : Map α → Nat → α
  | [], _ => d
  | (k, x) :: m, n => if k = n then x else mapGet d m n
/-- A file with one number removed from its list. -/
def mapErase {α : Type} (m : Map α) (n : Nat) : Map α := m.filter fun p => p.1 != n
/-- A file with one number listed, in rising order. -/
def mapIns {α : Type} : Map α → Nat → α → Map α
  | [], n, x => [(n, x)]
  | (k, y) :: m, n, x =>
    if n < k then (n, x) :: (k, y) :: m else if n = k then (n, x) :: m else (k, y) :: mapIns m n x
/-- A write: the default is never listed. -/
def mapPut {α : Type} [DecidableEq α] (d : α) (m : Map α) (n : Nat) (x : α) : Map α :=
  if x = d then mapErase m n else mapIns m n x
/-- Whether a number is listed. -/
def mapHas {α : Type} (m : Map α) (n : Nat) : Bool := m.any fun p => p.1 == n
def mapFind {α : Type} : Map α → Nat → Option α
  | [], _ => none
  | (k, x) :: m, n => if k = n then some x else mapFind m n
/-- The numbers of a file rise strictly from above n, and no entry is the default. -/
def mapWfFrom {α : Type} [DecidableEq α] (d : α) : Option Nat → Map α → Bool
  | _, [] => true
  | lo, (k, x) :: m => (match lo with | none => true | some l => l < k) && x != d && mapWfFrom d (some k) m
/-- The canonical form of a file. -/
def mapWf {α : Type} [DecidableEq α] (d : α) (m : Map α) : Bool := mapWfFrom d none m

/-! ### Byte memory: an unlisted byte reads 0 (log 4) -/

/-- Memory is in its one canonical form. -/
def Mem.wf (m : Mem) : Bool := mapWf (0 : Byte) m.cells
def readByte (c : List Host.Cell) (k : Nat) : Byte := mapGet 0 c k
def writeByte (c : List Host.Cell) (k : Nat) (b : Byte) : List Host.Cell := mapPut 0 c k b
/-- n bytes from a key upward. -/
def readBytes (c : List Host.Cell) (k : Nat) : Nat → List Byte
  | 0 => []
  | n + 1 => readByte c k :: readBytes c (k + 1) n
/-- Bytes written from a key upward. -/
def writeBytes (c : List Host.Cell) (k : Nat) : List Byte → List Host.Cell
  | [] => c
  | b :: bs => writeBytes (writeByte c k b) (k + 1) bs
/-- n bytes from a key upward set to zero. -/
def zeroBytes (c : List Host.Cell) (k n : Nat) : List Host.Cell := c.filter fun p => p.1 < k || k + n ≤ p.1
/-- The low n bytes of a number, the lowest first (00 R9). -/
def bytesLE (x : Nat) : Nat → List Byte
  | 0 => []
  | n + 1 => BitVec.ofNat 8 x :: bytesLE (x / 256) n

/-! ### Lanes -/

/-- n lanes of w bits, lane 0 lowest. -/
def packN (w : Nat) (f : Nat → Nat) : Nat → Nat
  | 0 => 0
  | n + 1 => packN w f n + (f n % 2 ^ w) <<< (w * n)
/-- Lane i of width w of a number. -/
def laneN (x w i : Nat) : Nat := (x >>> (w * i)) % 2 ^ w
/-- Lane i of width w of a wide register (04 R85). -/
def lane {n : Nat} (x : BitVec n) (w i : Nat) : Nat := laneN x.toNat w i
/-- A vector register from its lanes of width w (04 R85). -/
def vecOf (w : Nat) (f : Nat → Nat) : Vec := BitVec.ofNat 16384 (packN w f (16384 / w))
/-- A mask register from its bits. -/
def maskOf (f : Nat → Bool) : MaskReg := BitVec.ofNat 512 (packN 1 (fun i => if f i then 1 else 0) 512)
/-- Element (r, c) of an accumulator (16 R287). -/
def accGet (a : AccImg) (r c : Nat) : BitVec 32 := BitVec.ofNat 32 (lane a 32 (64 * r + c))
/-- An accumulator from its elements. -/
def accOf (f : Nat → Nat → BitVec 32) : AccImg :=
  BitVec.ofNat 131072 (packN 32 (fun i => (f (i / 64) (i % 64)).toNat) 4096)
/-- Byte b of row r of an operand slot (16 R294). -/
def opByte (o : OpImg) (r b : Nat) : Nat := lane o 8 (128 * r + b)
/-- An operand slot from its bytes. -/
def opOf (f : Nat → Nat → Nat) : OpImg := BitVec.ofNat 65536 (packN 8 (fun i => f (i / 128) (i % 128)) 8192)
/-- A register with the marked bits taken from a new value (04 R86). -/
def merge {n : Nat} (old new mark : BitVec n) : BitVec n := (old &&& ~~~mark) ||| (new &&& mark)
/-- The bytes of a vector register. -/
def vecBytes (v : Vec) : List Byte := (List.range 2048).map fun i => BitVec.ofNat 8 (lane v 8 i)

/-- The first element of a list that satisfies a test, with the list without it. -/
def takeFirst {α : Type} (p : α → Bool) : List α → Option (α × List α)
  | [] => none
  | x :: xs => if p x then some (x, xs) else match takeFirst p xs with
    | none => none
    | some (y, ys) => some (y, x :: ys)
/-- Insertion behind the elements that do not follow x. -/
def insBefore {α : Type} (after : α → Bool) (x : α) : List α → List α
  | [] => [x]
  | y :: ys => if after y then x :: y :: ys else y :: insBefore after x ys

end Sys2Proof.Machine
end

