-- ==== Sys2Proof/Machine/Ops.lean ====
section
/-! DEFINITION. The operations that every family shares: reading and writing registers (with the journal), the scoreboard, the gate,
marks, rollback, and taking a cause by each way of 08 R149. -/

namespace Sys2Proof.Machine

/-- The outcome of a transition. -/
abbrev Out := Host.Outcome State Fault Refusal
/-- A transition whose own condition does not hold. -/
def notEnabled (m : String) : Out := .refused (.notEnabled m)
/-- A transition under its own condition. -/
def when (c : Bool) (m : String) (s : State) : Out := if c then .next s else notEnabled m

/-! ### Reading registers -/

/-- S0 reads zero (02 R40). -/
def sreg (s : State) (n : Nat) : W64 := if n = 0 then 0 else mapGet 0 s.r.s n
/-- P0 reads true (02 R40). -/
def preg (s : State) (n : Nat) : Bool := n = 0 || s.r.p.getLsbD n
def vreg (s : State) (n : Nat) : Vec := mapGet 0 s.r.v n
def mreg (s : State) (n : Nat) : MaskReg := mapGet 0 s.r.mask n
def gen (s : State) (n : Nat) : Gen := mapGet .zero s.r.ag n
def acc (s : State) (n : Nat) : AccImg := mapGet 0 s.r.acc n
def oslot (s : State) (n : Nat) : OpImg := mapGet 0 s.r.o n
def token (s : State) (n : Nat) : Token := mapGet .fresh s.r.tok n
def bobbin (s : State) (n : Nat) : Bobbin := mapGet .zero s.r.bb n
def stream (s : State) (n : Nat) : List Vec := mapGet [] s.r.w n
def codebook (s : State) (n : Nat) : BitVec 2048 := mapGet 0 s.r.cb n
def knots (s : State) (n : Nat) : BitVec 128 := mapGet 0 s.r.kn n
def chain (s : State) (n : Nat) : Option Chain := mapFind s.r.chains n
def port (s : State) (d : Nat) : Port := mapGet .reset s.l.ports d
def ec (s : State) (n : Nat) : W64 := mapGet 0 s.c.ecs n
def range (s : State) (j : Nat) : Range := mapGet .none s.x.ranges j

def lookupN {α : Type} : List (Nat × α) → Nat → Option α
  | [], _ => none
  | (k, x) :: l, n => if k = n then some x else lookupN l n

/-- A scalar operand of the executing slot: as captured at dispatch (03 R63), else as it stands. -/
def opS (s : State) (n : Nat) : W64 :=
  if n = 0 then 0 else match lookupN s.f.cur.sv n with
    | some (.known x) => x
    | _ => sreg s n

/-! ### The journal (05 R121): the first write after the mark keeps the old value, except in a handler (08 R160) -/

def journaling (s : State) : Bool := !s.f.handler
def setJr (s : State) (j : Journal) : State := { s with f := { s.f with jr := j } }
def keepOld {α : Type} (m : Map α) (n : Nat) (old : α) : Map α := if mapHas m n then m else mapIns m n old

def journalS (s : State) (n : Nat) : State :=
  if journaling s then setJr s { s.f.jr with s := keepOld s.f.jr.s n (sreg s n) } else s
def journalP (s : State) (n : Nat) : State :=
  if journaling s then setJr s { s.f.jr with p := keepOld s.f.jr.p n (preg s n) } else s
def journalV (s : State) (n : Nat) : State :=
  if journaling s then setJr s { s.f.jr with v := keepOld s.f.jr.v n (vreg s n) } else s
def journalM (s : State) (n : Nat) : State :=
  if journaling s then setJr s { s.f.jr with mask := keepOld s.f.jr.mask n (mreg s n) } else s
def journalAG (s : State) (n : Nat) : State :=
  if journaling s then setJr s { s.f.jr with ag := keepOld s.f.jr.ag n (gen s n) } else s
def orOld {α : Type} (o : Option α) (x : α) : Option α := match o with | some y => some y | none => some x

/-- A write of a scalar register; S0 discards it (01 R22). -/
def setS (s : State) (n : Nat) (x : W64) : State :=
  if n = 0 then s else
    let s := journalS s n
    { s with r := { s.r with s := mapPut 0 s.r.s n x } }
/-- A write of a predicate; P0 discards it (01 R22). -/
def setP (s : State) (n : Nat) (b : Bool) : State :=
  if n = 0 then s else
    let s := journalP s n
    { s with r := { s.r with p := if b then s.r.p ||| (1#64 <<< n) else s.r.p &&& ~~~(1#64 <<< n) } }
def setV (s : State) (n : Nat) (x : Vec) : State :=
  let s := journalV s n
  { s with r := { s.r with v := mapPut 0 s.r.v n x } }
def setM (s : State) (n : Nat) (x : MaskReg) : State :=
  let s := journalM s n
  { s with r := { s.r with mask := mapPut 0 s.r.mask n x } }
def setGen (s : State) (n : Nat) (g : Gen) : State :=
  let s := journalAG s n
  { s with r := { s.r with ag := mapPut .zero s.r.ag n g } }
def setAcc (s : State) (n : Nat) (a : AccImg) : State := { s with r := { s.r with acc := mapPut 0 s.r.acc n a } }
def setO (s : State) (n : Nat) (x : OpImg) : State := { s with r := { s.r with o := mapPut 0 s.r.o n x } }
def setTok (s : State) (n : Nat) (t : Token) : State := { s with r := { s.r with tok := mapPut .fresh s.r.tok n t } }
def setBB (s : State) (n : Nat) (b : Bobbin) : State := { s with r := { s.r with bb := mapPut .zero s.r.bb n b } }
def setW (s : State) (n : Nat) (l : List Vec) : State := { s with r := { s.r with w := mapPut [] s.r.w n l } }
def setCB (s : State) (n : Nat) (x : BitVec 2048) : State := { s with r := { s.r with cb := mapPut 0 s.r.cb n x } }
def setKN (s : State) (n : Nat) (x : BitVec 128) : State := { s with r := { s.r with kn := mapPut 0 s.r.kn n x } }
def setLoops (s : State) (l : List Loop) : State :=
  let s := if journaling s then setJr s { s.f.jr with loops := orOld s.f.jr.loops s.r.loops } else s
  { s with r := { s.r with loops := l } }
def setLsscl (s : State) (x : BitVec 8) : State :=
  let s := if journaling s then setJr s { s.f.jr with lsscl := orOld s.f.jr.lsscl s.x.lsscl } else s
  { s with x := { s.x with lsscl := x } }
def setLscnt (s : State) (x : BitVec 32) : State :=
  let s := if journaling s then setJr s { s.f.jr with lscnt := orOld s.f.jr.lscnt s.x.lscnt } else s
  { s with x := { s.x with lscnt := x } }
def setStky (s : State) (x : BitVec 4) : State :=
  let s := if journaling s then setJr s { s.f.jr with stky := orOld s.f.jr.stky s.x.stky } else s
  { s with x := { s.x with stky := x } }
def claimed (s : State) (n : Nat) : Bool := s.r.claims.getLsbD n
/-- The claim of a slot; a rollback returns it (16 R287). -/
def setClaim (s : State) (n : Nat) (b : Bool) : State :=
  let s := if journaling s then setJr s { s.f.jr with claims := keepOld s.f.jr.claims n (claimed s n) } else s
  { s with r := { s.r with claims := if b then s.r.claims ||| (1#32 <<< n) else s.r.claims &&& ~~~(1#32 <<< n) } }
/-- The chain of an accumulator; a rollback returns it (16 R287). -/
def setChain (s : State) (n : Nat) (c : Option Chain) : State :=
  let s := if journaling s then setJr s { s.f.jr with chains := keepOld s.f.jr.chains n (chain s n) } else s
  { s with r := { s.r with chains := match c with | none => mapErase s.r.chains n | some x => mapIns s.r.chains n x } }
def setBindA (s : State) (b : Binding) : State :=
  let s := if journaling s then setJr s { s.f.jr with bindA := orOld s.f.jr.bindA s.r.bindA } else s
  { s with r := { s.r with bindA := b } }
def setBindB (s : State) (b : Binding) : State :=
  let s := if journaling s then setJr s { s.f.jr with bindB := orOld s.f.jr.bindB s.r.bindB } else s
  { s with r := { s.r with bindB := b } }
def setBars (s : State) (b : Four Nat) : State :=
  let s := if journaling s then setJr s { s.f.jr with bars := orOld s.f.jr.bars s.f.barsReached } else s
  { s with f := { s.f with barsReached := b } }
def setPort (s : State) (d : Nat) (p : Port) : State := { s with l := { s.l with ports := mapIns s.l.ports d p } }
def setEc (s : State) (n : Nat) (x : W64) : State := { s with c := { s.c with ecs := mapPut 0 s.c.ecs n x } }
def setRange (s : State) (j : Nat) (g : Range) : State := { s with x := { s.x with ranges := mapPut .none s.x.ranges j g } }
def setCur (s : State) (c : Cur) : State := { s with f := { s.f with cur := c } }
def setCtl (s : State) (c : Ctl) : State := setCur s { s.f.cur with ctl := c }
def setAct (s : State) (a : ScAct) : State := setCur s { s.f.cur with act := a }
/-- The front end changes; while it holds dispatch, the rewrite window is closed (19 R326). -/
def setFe (s : State) (fe : Fe) : State :=
  { s with f := { s.f with fe := fe, window := if fe = .run then s.f.window else [] } }
def setCells (s : State) (c : List Host.Cell) : State := { s with m := { s.m with cells := c } }

/-- A slot that acts only where q is true, and else changes nothing (01 R17). -/
def ifQ (s : State) (f : State → State) : Out := .next (if s.f.cur.q then f s else s)
/-- A slot that cannot issue yet. -/
def stall (s : State) : Out := .next (setCtl s .stall)
/-- A slot that holds its queue's head with its progress kept. -/
def hold (s : State) : Out := .next (setCtl s .wait)

/-! ### The scoreboard (07 R138) -/

/-- Whether a pending interlocked write of a lower BSN is placed on a register. -/
def pendingOn (s : State) (f : File) (n bsn : Nat) : Bool :=
  s.f.sb.any fun p => p.file = f && p.n = n && p.bsn < bsn
def placePending (s : State) (f : File) (n bsn : Nat) : State :=
  { s with f := { s.f with sb := s.f.sb ++ [⟨f, n, bsn⟩] } }
/-- Clear the pending write of one producer. -/
def clearPending (s : State) (f : File) (n bsn : Nat) : State :=
  { s with f := { s.f with sb := s.f.sb.filter fun p => !(p.file = f && p.n = n && p.bsn = bsn) } }
/-- A file that memory-slot results and drains are delivered to. -/
def isMemFile (f : File) : Bool := f = .s || f = .v || f = .p

/-! ### The trap area and the own scratchpad -/

def spadSize : Nat := 0x100000
def trapBase : Nat := 0xF4000
/-- The last local byte: a scratchpad access of kernel mode ends below it. -/
def spadOk (s : State) (off len : Nat) : Bool :=
  off + len ≤ spadSize && !(s.kn.trapen && !s.f.handler && trapBase < off + len)
/-- The key of the window of another core (14 R254). -/
def windowBase : Nat := 0x10000000000
def iaBase : Nat := 2 ^ 60

/-- Where a virtual byte lies (14 R254). -/
inductive Target where
  | own (off : Nat)
  | self (off : Nat)
  | win (c off : Nat)
  | ia (a : Nat)
  deriving DecidableEq, Repr
/-- The memory key of a byte: the own scratchpad has one, whether it is reached by its low addresses or through its window. -/
def Target.key : Target → Nat
  | .own off => off
  | .self off => off
  | .win c off => windowBase + 2 ^ 24 * c + off
  | .ia a => iaBase + a
/-- The steps of 14 R254, told apart. -/
def Target.step : Target → Nat
  | .own _ => 0
  | .self _ => 1
  | .win .. => 1
  | .ia _ => 2
/-- The lowest-numbered range register that covers an address (14 R254). -/
def coverFrom (s : State) (va : W64) : Nat → Nat → Option Range
  | 0, _ => none
  | n + 1, j =>
    let g := range s j
    if g.base ≤ va && va ≤ g.limit then some g else coverFrom s va n (j + 1)
/-- The translation of one virtual byte; none is cause 0x10 (14 R254, R257). -/
def translate (s : State) (va : W64) : Option Target :=
  let a := va.toNat
  if a < spadSize then some (.own a)
  else if windowBase ≤ a && a < windowBase + 0x40000000 then
    let c := (a - windowBase) / 2 ^ 24
    let off := a % 2 ^ 24
    if !s.kn.coreids.getLsbD c then none
    else if c = s.x.coreid.toNat && off < spadSize then some (.self off) else some (.win c off)
  else match coverFrom s va 16 0 with
    | none => none
    | some g =>
      let ia := (va - g.base + g.off.zeroExtend 64).toNat % 2 ^ 52
      if ia / 2 ^ 48 = 15 then none else some (.ia ia)
/-- The line of a scratchpad byte (14 R259). -/
def lineOf (key : Nat) : Nat := key / 128
def isEmptyLine (s : State) (key : Nat) : Bool := s.m.empties.contains (lineOf key)
/-- Set full the line of a byte that has been written (05 R113). -/
def fillLine (s : State) (key : Nat) : State :=
  if s.m.empties.contains (lineOf key) then { s with m := { s.m with empties := s.m.empties.erase (lineOf key) } } else s
/-- An uncorrectable error in a byte is gone once the byte has been written: DESIGN CHOICE (08 R165, log 29). -/
def clearBad (s : State) (key n : Nat) : State :=
  { s with m := { s.m with bad := s.m.bad.filter fun k => k < key || key + n ≤ k } }
/-- Bytes performed in memory. -/
def putBytes (s : State) (key : Nat) (bs : List Byte) : State := clearBad (setCells s (writeBytes s.m.cells key bs)) key bs.length
/-- Bytes performed in a scratchpad, with their lines set full (05 R113). -/
def performStore (s : State) (key : Nat) (bs : List Byte) : State :=
  (List.range bs.length).foldl (fun s i => fillLine s (key + i)) (putBytes s key bs)
/-- Bytes of a store performed in a scratchpad, with those lines set full of which the store leaves no byte for later (13 R251). -/
def performPart (s : State) (key : Nat) (bs : List Byte) (left : Nat → Bool) : State :=
  (List.range bs.length).foldl (fun s i => if left (lineOf (key + i)) then s else fillLine s (key + i)) (putBytes s key bs)
/-- Whether n bytes reach a line. -/
def onLine (key n line : Nat) : Bool := n != 0 && lineOf key ≤ line && line ≤ lineOf (key + n - 1)

/-! ### The gate (05 R121, R123) -/

/-- The byte that a load of this core sees: from the gate if a waiting store covers it (05 R112). -/
def seenByte (s : State) (key : Nat) : Byte × Bool :=
  s.f.gate.foldl (fun r g => if g.key ≤ key && key < g.key + g.bytes.length then (g.bytes.getD (key - g.key) 0, true) else r)
    (readByte s.m.cells key, false)
def seenBytes (s : State) (key : Nat) : Nat → List Byte
  | 0 => []
  | n + 1 => (seenByte s key).1 :: seenBytes s (key + 1) n
/-- Whether a load of a byte waits on an empty line: gated bytes need no wait (05 R113). -/
def waitsOn (s : State) (key : Nat) : Bool := !(seenByte s key).2 && isEmptyLine s key
/-! ### Pages and the counts of FLAG (14 R256, R264, R266, 09 R188) -/

/-- The writes toward a die that are counted for bundles below a BSN. -/
def countOf (s : State) (die : Coord) (bound : Nat) : Nat := ((s.f.flagCnt.filter fun p => p.1 = die && p.2.1 < bound).map (·.2.2)).sum
def countAt (s : State) (die : Coord) (bsn : Nat) : Nat := ((s.f.flagCnt.find? fun p => p.1 = die && p.2.1 = bsn).map (·.2.2)).getD 0
def setCount (s : State) (die : Coord) (bsn n : Nat) : State :=
  { s with f := { s.f with flagCnt := (if n = 0 then [] else [(die, bsn, n)]) ++ s.f.flagCnt.filter fun p => !(p.1 = die && p.2.1 = bsn) } }
def countWrites (s : State) (die : Coord) (bsn n : Nat) : State := setCount s die bsn (countAt s die bsn + n)
/-- What was counted toward a die for bundles below a BSN has been sent with a FLAG. -/
def clearCount (s : State) (die : Coord) (bound : Nat) : State :=
  { s with f := { s.f with flagCnt := s.f.flagCnt.filter fun p => !(p.1 = die && p.2.1 < bound) } }

/-- The first of n bytes in which an uncorrectable soft error stands (08 R165). -/
def badIn (s : State) (key n : Nat) : Option Nat :=
  if s.m.bad.isEmpty then none else (List.range n).find? fun i => s.m.bad.contains (key + i)
/-- The first of n bytes that a load takes from such memory: those of the gate are delivered instead of it (05 R112). -/
def badSeen (s : State) (key n : Nat) : Option Nat :=
  if s.m.bad.isEmpty then none else (List.range n).find? fun i => s.m.bad.contains (key + i) && !(seenByte s (key + i)).2
def pageSize (p : Page) : Nat := if p.large then 0x200000 else 0x10000
/-- The page entry that holds an intermediate address (14 R256, R264). -/
def pageAt (s : State) (a : Nat) : Option Page := s.m.pages.find? fun p => p.ia ≤ a && a < p.ia + pageSize p
/-- Whether the page of an address is on its way to another home (14 R269). -/
def moving (s : State) (a : Nat) : Bool := match pageAt s a with | some p => (match p.st with | .moving .. => true | _ => false) | none => false
/-- The page of an address, or the smallest region where no entry exists. -/
def pageBase (s : State) (a : Nat) : Nat := match pageAt s a with | some p => p.ia | none => a / 0x10000 * 0x10000
/-- The home to which requests for a page go: the cached one, else the recorded one (14 R266). -/
def lookupDie (l : List (Nat × Coord)) (a : Nat) : Option Coord := (l.find? fun p => p.1 = a).map (·.2)
def homeOfPage (s : State) (page : Nat) : Coord :=
  match lookupDie s.m.homeCache page with
  | some h => h
  | none => match pageAt s page with | some p => p.home | none => s.l.coord
/-- The writes that the gate performs, one for each store and home. -/
def gateWrites (s : State) : List (Nat × Coord) :=
  (s.f.gate.map fun g => (g.bsn, if g.key < iaBase then s.l.coord else homeOfPage s (pageBase s (g.key - iaBase)))).eraseDups
/-- The gate performs in program order. -/
def performGate (s : State) : State :=
  let t := s.f.gate.foldl (fun s g => performStore s g.key g.bytes) s
  let t := (gateWrites s).foldl (fun s p => countWrites s p.2 p.1 1) t
  { t with f := { t.f with gate := [], reserved := 0 } }

/-! ### Latches and records -/

/-- What the sticky bits of landed results set (23 R370). -/
def orStky (s : State) (b : BitVec 4) : State := if b = 0 then s else setStky s (s.x.stky ||| b)
def writeDst (s : State) (d : Dst) (val wm : Vec) : State :=
  match d with
  | .v n => setV s n (merge (vreg s n) val wm)
  | .mk n => setM s n (merge (mreg s n) (val.extractLsb' 0 512) (wm.extractLsb' 0 512))
/-- The n-th free choice among elements of w bits (log 10). -/
def choice (n w : Nat) : Vec :=
  let c := (Config.mixed n).toNat
  vecOf w fun i => if c.testBit i then 2 ^ w - 1 else 0
def dstWidth (d : Dst) : Nat := match d with | .v _ => 32 | .mk _ => 1
def dstVal (s : State) (d : Dst) : Vec := match d with | .v n => vreg s n | .mk n => (mreg s n).zeroExtend 16384
/-- The queues whose writes are interlocked: the memory queue's, and the drains of the matrix queue (07 R138). -/
def interlockedQ (q : Queue) : Bool := q = .mem || q = .mx
/-- Whether an earlier write and this one have no order (07 R139): two compute queues, or an interlocked write that no pending write holds behind a
compute result, with no realign between them. -/
def unorderedWith (q : Queue) (bsn : Nat) (u : Unordered) : Bool :=
  u.q != q && (if interlockedQ q then !interlockedQ u.q && u.bsn ≤ bsn else !interlockedQ u.q || bsn ≤ u.bsn)
/-- What some writes of one queue leave, the last to land on top, and the bits that they have written. -/
def lastOf (us : List Unordered) : Vec × Vec := us.foldl (fun r u => (merge r.1 u.val u.wm, r.2 ||| u.wm)) (0, 0)
/-- The bits of a write that later writes of other queues, ordered behind it, have overwritten. -/
def overwritten (u : Unordered) (later : List Unordered) : Vec :=
  later.foldl (fun m v => if v.dst = u.dst && v.q != u.q && !unorderedWith v.q v.bsn u then m ||| v.wm else m) 0
/-- Writes in the order in which they landed, each with the bits that no ordered write has overwritten since. -/
def liveWrites : List Unordered → List Unordered
  | [] => []
  | u :: us => { u with wm := u.wm &&& ~~~overwritten u us } :: liveWrites us
/-- A result with another queue's writes that have no order with it: each element that both write is that of either, freely (log 10). -/
def mixWrite (s : State) (q : Queue) (d : Dst) (bsn : Nat) (wm : Vec) (x : Vec × Nat) (p : Queue) : Vec × Nat :=
  let (old, m) := lastOf ((liveWrites s.f.unord).filter fun u => u.dst = d && u.q = p && unorderedWith q bsn u)
  if m &&& wm = 0 then x else (merge x.1 old (choice x.2 (dstWidth d) &&& m &&& wm), x.2 + 1)
/-- A queue's result lands: each element is its own or the last of another queue whose write has no order with it (07 R139). The write is kept for
unordered reads and writes until the next realign. -/
def landWrite (s : State) (q : Queue) (d : Dst) (bsn : Nat) (val wm : Vec) : State :=
  let (x, n) := ([.va, .vb, .mem, .mx] : List Queue).foldl (mixWrite s q d bsn wm) (val, s.fresh)
  writeDst { s with fresh := n, f := { s.f with unord := s.f.unord ++ [⟨d, q, bsn, dstVal s d, val, wm⟩] } } d x wm
def queueOfV (q : VQueue) : Queue := match q with | .va => .va | .vb => .vb
def landLatch (s : State) (l : Latch) : State := orStky (landWrite s (queueOfV l.q) l.dst l.bsn l.val l.wm) (l.sticky.getD 0)
/-- The results that land in the issue cycle of the bundle with this BSN (04 R89). -/
def landDue (s : State) (q : VQueue) (bsn : Nat) : State :=
  let t := (s.f.latches.filter fun l => l.q = q && l.due ≤ bsn).foldl landLatch s
  { t with f := { t.f with latches := t.f.latches.filter fun l => !(l.q = q && l.due ≤ bsn) } }
/-- Which of two results in flight is the earlier record: ascending BSN of the producers, VA before VB (08 R154). A re-injected record keeps
its place: its producer stood before every bundle dispatched since. -/
def recBefore (l y : Latch) : Bool :=
  match l.re, y.re with
  | some i, some j => i < j
  | some _, none => true
  | none, some _ => false
  | none, none => l.bsn < y.bsn || (l.bsn = y.bsn && l.q = .va && y.q = .vb)
/-- The order of latch records (08 R154). -/
def recOrder (ls : List Latch) : List Latch := ls.foldl (fun acc l => insBefore (recBefore l) l acc) []
/-- The order in which results land that the device lets land at once: by their landing cycles. -/
def landOrder (ls : List Latch) : List Latch :=
  (recOrder ls).foldl (fun acc l => insBefore (fun y => l.due < y.due) l acc) []
/-! ### Queues -/

def getQ (s : State) (q : Queue) : List QEntry :=
  match q with
  | .va => s.f.qs.va | .vb => s.f.qs.vb | .mx => s.f.qs.mx | .mem => s.f.qs.mem | .cp => s.f.qs.cp | .sy => s.f.qs.sy
def setQ (s : State) (q : Queue) (l : List QEntry) : State :=
  { s with f := { s.f with qs := match q with
    | .va => { s.f.qs with va := l } | .vb => { s.f.qs with vb := l } | .mx => { s.f.qs with mx := l }
    | .mem => { s.f.qs with mem := l } | .cp => { s.f.qs with cp := l } | .sy => { s.f.qs with sy := l } } }
def allQueues : List Queue := [.va, .vb, .mx, .mem, .cp, .sy]
/-- The issue cycles that a queue still has up to that of the bundle with BSN `due`: those of what waits in it, and of what is dispatched from now on. -/
def issuesLeft (s : State) (q : Queue) (due : Nat) : Nat := ((getQ s q).filter fun e => e.bsn ≤ due).length + (due + 1 - s.f.bsn)
/-- The BSN of a queue's n-th issue from now on, n from 1: of what waits in it, then of what is dispatched. -/
def nthIssue (s : State) (q : Queue) (n : Nat) : Nat :=
  match (getQ s q)[n - 1]? with | some e => e.bsn | none => s.f.bsn + n - 1 - (getQ s q).length
/-- The results in flight as records, with the issue cycles that each still waits for (08 R154). -/
def records (s : State) : List LatchRec :=
  (recOrder s.f.latches).map fun l => ⟨l.q, l.dst, l.val, l.wm, issuesLeft s (queueOfV l.q) l.due, l.sticky⟩
/-- Records re-injected before what their queues issue next (08 R162). -/
def reinject (s : State) (rs : List LatchRec) : State :=
  { s with f := { s.f with latches := rs.zipIdx.map fun (r, i) =>
      ⟨r.q, r.dst, r.val, r.wm, nthIssue s (queueOfV r.q) 1 - 1, nthIssue s (queueOfV r.q) r.left, r.sticky, some i⟩ } }
/-- The queue code of TCAUSE (08 R152) for a slot. -/
def queueCode (slot : Nat) : Nat :=
  match slot with | 0 => 0 | 1 => 1 | 2 => 2 | 3 => 3 | 4 => 4 | 5 => 4 | 6 => 5 | _ => 6
/-- The queue of a slot (01 R12). -/
def queueOf (slot : Nat) : Queue :=
  match slot with | 1 => .va | 2 => .vb | 3 => .mx | 4 => .mem | 5 => .mem | 6 => .cp | _ => .sy
/-- Every queue has issued everything dispatched. -/
def queuesEmpty (s : State) : Bool := allQueues.all fun q => (getQ s q).isEmpty
/-- No load or die-local access of this core is left, and no store of it can still meet a fault: what has passed the checks of another die performs
later (13 R239, R240). -/
def coreReqsDone (s : State) : Bool :=
  s.m.accs.isEmpty && !s.m.reqs.any fun r => r.src = .core && (r.stage != .checked || homeOfPage s r.page = s.l.coord)
/-- The parts of a flag word: their places in it, where they lie, and their lengths. -/
def flagParts (m : FlagMsg) : List (Nat × Nat × Nat) := (0, m.addr, (m.apart.head?.map (·.1)).getD 8) :: m.apart
/-- Whether a FLAG word of this core from before a bundle is still to be written to some bytes: a write of the core follows its earlier writes to a
byte (13 R238). -/
def flagAhead (s : State) (bsn key n : Nat) : Bool :=
  s.e.cmds.any fun c => c.bsn < bsn && match c.work with
    | .flag id _ => (s.l.sentFlags ++ s.l.flags).any fun m =>
        m.id = id && m.die = s.l.coord && m.core = s.x.coreid && (flagParts m).any fun p => p.2.1 < key + n && key < p.2.1 + p.2.2
    | _ => false
/-- The stores of the gate wait for no FLAG word, and for no page that is on its way to another home (14 R269). -/
def gateFree (s : State) : Bool := s.f.gate.all fun g => !flagAhead s g.bsn g.key g.bytes.length && !(iaBase ≤ g.key && moving s (g.key - iaBase))
/-- The drain of 08 R155: everything has issued, interlocked writes have landed, matrix steps have landed. -/
def drained (s : State) : Bool :=
  queuesEmpty s && s.f.steps.isEmpty && s.f.sb.isEmpty && s.f.deliver.isEmpty && coreReqsDone s && gateFree s
/-- The drain of a mark (05 R122): engine-delivered writes are not waited for. -/
def markReady (s : State) : Bool :=
  queuesEmpty s && s.f.steps.isEmpty && !(s.f.sb.any fun p => isMemFile p.file) && s.f.deliver.isEmpty && coreReqsDone s && gateFree s

/-- The slot k of a queued bundle becomes the executing slot. -/
def withSlot (s : State) (e : QEntry) (x : QSlot) : State :=
  setCur s ⟨x.k, e.bsn, e.pc, x.q, x.sv, e.idx, e.fmtr, x.gens, x.binds, x.claims, x.rw, .none, .done⟩
/-- Slot k at the head of its queue. -/
def headSlot (s : State) (k : Nat) : Option (QEntry × QSlot) :=
  match getQ s (queueOf k) with
  | [] => none
  | e :: _ => (e.slots.find? fun x => x.k = k).map fun x => (e, x)
/-- Slot k at the head of its queue has acted: its issue has nothing left to do. -/
def retireSlot (s : State) (k : Nat) : State :=
  match getQ s (queueOf k) with
  | [] => s
  | e :: es => setQ s (queueOf k)
      ({ e with slots := e.slots.map fun x => if x.k = k then { x with instr := .nop, q := false } else x } :: es)
/-- When the wait of a slot began, if it waits. -/
def waitSince (s : State) (k bsn : Nat) : Option W64 :=
  (s.f.waits.find? fun w => w.k = k && w.bsn = bsn).map WaitRec.since
/-- A wait begins, once. -/
def startWait (s : State) : State :=
  let c := s.f.cur
  if (waitSince s c.k c.bsn).isSome then s else { s with f := { s.f with waits := s.f.waits ++ [⟨c.k, c.bsn, s.tick⟩] } }
def endWait (s : State) (k bsn : Nat) : State :=
  { s with f := { s.f with waits := s.f.waits.filter fun w => !(w.k = k && w.bsn = bsn) } }
/-- Cycles since a TICK. -/
def elapsed (s : State) (since : W64) : Nat := (s.tick - since).toNat

/-- Running ahead, with the predicted result known: the speculation commits before the next dispatch (25 R391). -/
def commitDue (s : State) : Bool :=
  match s.f.ahead with | some a => (s.f.groups.get a.g).resKept.isSome | none => false

/-! ### Captured scalars (03 R63) -/

/-- A landed scalar goes to the slots that wait for it: those of a higher BSN that captured this producer. -/
def fillCapt (n bsn : Nat) (x : W64) (c : Nat × Capt) : Nat × Capt :=
  if c.1 = n then (match c.2 with | .wait b => if b = bsn then (n, .known x) else c | _ => c) else c
def fillQueue (n bsn : Nat) (x : W64) (l : List QEntry) : List QEntry :=
  l.map fun e => { e with slots := e.slots.map fun y => { y with sv := y.sv.map (fillCapt n bsn x) } }
def fillCaptures (s : State) (n bsn : Nat) (x : W64) : State :=
  { s with f := { s.f with qs := ⟨fillQueue n bsn x s.f.qs.va, fillQueue n bsn x s.f.qs.vb, fillQueue n bsn x s.f.qs.mx,
      fillQueue n bsn x s.f.qs.mem, fillQueue n bsn x s.f.qs.cp, fillQueue n bsn x s.f.qs.sy⟩ } }

/-! ### Marks and rollback -/

/-- The mark of the present position (05 R122). -/
def takeMark (s : State) : Mark :=
  ⟨s.f.pc, s.r.loops, s.x.fmtr, s.x.pend, records s, s.f.unord, s.f.qs, s.f.sb.filter fun p => allQueues.any fun q => (getQ s q).any fun e => e.bsn = p.bsn, s.f.holds,
    match s.f.fe with | .exiting _ => true | _ => false⟩
/-- A result that was kept for a CBR dispatched again is not needed behind a later mark (25 R391). -/
def dropKept (g : Four Group) : Four Group :=
  ⟨{ g.a with resKept := none }, { g.b with resKept := none }, { g.c with resKept := none }, { g.d with resKept := none }⟩
/-- Set a mark at the present position: the gate performs, and the journal empties (05 R122). -/
def setMark (s : State) : State :=
  let t := performGate s
  { t with m := { t.m with reqs := t.m.reqs.map fun r => if r.src = .core then { r with firm := true } else r }
           f := { t.f with jr := .empty, mark := takeMark t, atMark := true, window := [], groups := dropKept t.f.groups } }

def restoreS (j : Map W64) (m : Map W64) : Map W64 := j.foldl (fun m p => mapPut 0 m p.1 p.2) m
/-- A chain that a rollback opens again, whose CHE is undone, goes on from what its accumulator holds, which a rollback does not restore: DESIGN CHOICE
(log 9). A chain that has stayed open keeps its segment. -/
def reopened (r : Regs) (n : Nat) : Chain → Chain
  | .mms .. => .mms (mapGet 0 r.acc n) [] []
  | c => c
/-- Every journaled register gets back what it held (05 R121, 16 R287). -/
def restoreRegs (j : Journal) (r : Regs) : Regs :=
  { r with
    s := restoreS j.s r.s
    p := j.p.foldl (fun p e => if e.2 then p ||| (1#64 <<< e.1) else p &&& ~~~(1#64 <<< e.1)) r.p
    mask := j.mask.foldl (fun m p => mapPut 0 m p.1 p.2) r.mask
    v := j.v.foldl (fun m p => mapPut 0 m p.1 p.2) r.v
    ag := j.ag.foldl (fun m p => mapPut .zero m p.1 p.2) r.ag
    loops := j.loops.getD r.loops
    claims := j.claims.foldl (fun c e => if e.2 then c ||| (1#32 <<< e.1) else c &&& ~~~(1#32 <<< e.1)) r.claims
    chains := j.chains.foldl (fun m p => match p.2 with | none => mapErase m p.1 | some x => mapIns m p.1 (reopened r p.1 x)) r.chains
    bindA := j.bindA.getD r.bindA
    bindB := j.bindB.getD r.bindB }
/-- A request of this core is dropped by a rollback, unless a mark has been set behind it (05 R121, 13 R241). -/
def dropsReq (r : Req) : Bool := r.src = .core && !r.firm
def reqWrites (r : Req) : Bool := match r.op with | .store _ => true | .pads _ => true | .atomic .. => true | _ => false
/-- Some requests of the core count for no FLAG any more. -/
def uncount (s : State) (rs : List Req) : State :=
  (rs.filter fun r => r.counts && reqWrites r).foldl (fun s r => setCount s (homeOfPage s r.page) r.bsn (countAt s (homeOfPage s r.page) r.bsn - 1)) s
/-- The dropped writes count for no FLAG. -/
def uncountDropped (s : State) : State := uncount s (s.m.reqs.filter dropsReq)
/-- A rollback while the mark of a CBR is being set: no contribution is owed (25 R394). -/
def clearOwed (g : Four Group) : Four Group :=
  ⟨{ g.a with owed := false }, { g.b with owed := false }, { g.c with owed := false }, { g.d with owed := false }⟩
/-- A slot of the run, by BSN and slot number. -/
def slotId (bsn k : Nat) : Nat := 8 * bsn + k
/-- What cancelled instructions keep for replacements whose engine work goes on over a rollback (05 R121, 19 R328). -/
def keptBy (s : State) : List (Nat × List (Nat × Byte)) :=
  s.f.kept.filter fun p => s.e.cmds.any fun c => match c.rw with
    | some ⟨_, _, .replaced _ u⟩ => u = p.1
    | some ⟨_, _, .cancelled ..⟩ => slotId c.bsn c.k = p.1
    | none => false
/-- The core rolls back to its mark (05 R121): the gate, the latches and everything queued are discarded, the journaled registers
and the recorded FMTR come back, and the front end stands at the mark. The records of the mark are left to the caller. -/
def rollbackCore (s : State) : State :=
  let s := uncountDropped s
  let j := s.f.jr
  { s with
    r := restoreRegs j s.r
    x := { s.x with fmtr := s.f.mark.fmtr, pend := s.f.mark.pend, lsscl := j.lsscl.getD s.x.lsscl
                    lscnt := j.lscnt.getD s.x.lscnt, stky := j.stky.getD s.x.stky }
    m := { s.m with accs := [], reqs := s.m.reqs.filter fun r => !dropsReq r }
    f := { s.f with pc := s.f.mark.pc, fe := .run, grp := [], qs := .empty, latches := [], steps := [], deliver := []
                    sb := s.f.sb.filter fun p => !isMemFile p.file && s.e.cmds.any fun c => c.bsn = p.bsn
                    unord := s.f.mark.unord, holds := [], waits := [], gate := [], reserved := 0, jr := .empty, atMark := true
                    rbFaults := [], window := [], kept := keptBy s, ahead := none, markDue := false, markBehind := none, retAt := none
                    groups := if s.f.fe = .marking then clearOwed s.f.groups else s.f.groups
                    barsReached := j.bars.getD s.f.barsReached } }
/-- The slots that lie behind the mark although they were dispatched before it wait in their queues again (25 R391). -/
def requeueHeld (s : State) : State :=
  { s with f := { s.f with qs := s.f.mark.held, holds := s.f.mark.holds, sb := s.f.sb ++ s.f.mark.sb.filter fun p => !s.f.sb.contains p
                           atMark := s.f.atMark && s.f.mark.held = .empty } }
/-- Roll back and resume at the mark, with its records re-injected (05 R121). -/
def rollback (s : State) : State := reinject (requeueHeld (rollbackCore s)) s.f.mark.recs

/-! ### The trap frame (08 R152 to R154) -/

/-- FBSN: the BSN of the bundle that FBUNDLE names (08 R153, R159). -/
def frameBsn (i : TrapInfo) : Nat :=
  match i.rw with | some ⟨_, _, .replaced _ u⟩ => u / 8 | _ => i.fbsn
/-- The image of TCAUSE (08 R152). -/
def tcauseImage (i : TrapInfo) (rbk : Bool) : W64 :=
  BitVec.ofNat 64 (i.detail % 2 ^ 16 * 2 ^ 48 + (if rbk then 2 ^ 15 else 0) + (if i.rw.isSome then 2 ^ 14 else 0)
    + i.queue % 8 * 2 ^ 11 + i.slot % 8 * 2 ^ 8 + i.cause % 64)
/-- A row of LOOPS: an inactive level's is written as zeros. -/
def loopBytes (l : Loop) : List Byte :=
  if l.active then bytesLE l.count.toNat 8 ++ bytesLE l.index.toNat 8 ++ bytesLE l.start.toNat 8 ++ bytesLE l.stop.toNat 8
  else List.replicate 32 0
/-- LSACT: the active levels (08 R153). -/
def loopFlags (ls : List Loop) : Nat := packN 1 (fun j => match ls[j]? with | some l => if l.active then 1 else 0 | none => 0) 6
def padTo (n : Nat) (bs : List Byte) : List Byte := bs ++ List.replicate (n - bs.length) 0
/-- A latch descriptor (08 R154). -/
def latchDesc (r : LatchRec) : Nat :=
  r.left % 16 * 2 ^ 12 + (match r.q with | .va => 0 | .vb => 2 ^ 8)
    + (match r.dst with | .v n => n % 256 | .mk n => 2 ^ 10 + n % 256)
/-- The write mask of a record in LMASK form (08 R154). -/
def latchMask (r : LatchRec) : Nat :=
  match r.dst with
  | .v _ => packN 1 (fun j => lane r.wm 1 (4 * j)) 4096
  | .mk _ => r.wm.toNat % 2 ^ 512
/-- A pending FMT in PFMT form (08 R153). -/
def pfmtWord (p : PendFmt) : Nat := 2 ^ 31 + p.left % 4 * 2 ^ 25 + p.en.toNat * 2 ^ 20 + p.val.toNat
def flagBit (b : Bool) (i : Nat) : Nat := if b then 2 ^ i else 0
/-- The flags 7:2 of the status word of a group (23 R374). -/
def groupFlags (g : Group) : Nat :=
  flagBit g.broken 7 + flagBit g.owed 6 + flagBit g.wait 5 + flagBit g.pred 4 + flagBit g.last 3 + flagBit g.lop 2
/-- A record of CBSTATE (25 R395). -/
def cbRecord (s : State) (g : Nat) : List Byte :=
  if s.kn.members.getLsbD g then
    let x := s.f.groups.get g
    bytesLE (groupFlags x + x.gdim.toNat * 2 ^ 8 + x.seq.toNat * 2 ^ 32) 8 ++ bytesLE x.gcore.toNat 8
  else List.replicate 16 0
/-- Bytes 0x000 to 0x20F of the frame (08 R153). -/
def frameHead (s : State) (i : TrapInfo) (rbk : Bool) (tepc : W64) (recs : List LatchRec) : List Byte :=
  bytesLE (tcauseImage i rbk).toNat 8 ++ bytesLE tepc.toNat 8 ++ bytesLE i.faddr.toNat 8 ++ bytesLE i.fbundle.toNat 8
  ++ bytesLE (frameBsn i) 4 ++ bytesLE (loopFlags s.r.loops) 1 ++ bytesLE recs.length 1 ++ bytesLE 0 2
  ++ bytesLE s.x.fmtr.toNat 4 ++ bytesLE s.x.pend.length 4 ++ bytesLE s.f.mark.pc.toNat 8
  ++ (match i.rw with | none => bytesLE 0 8 | some w => bytesLE (0x80 + w.rule) 1 ++ bytesLE w.origs.length 1 ++ bytesLE 0 6)
  ++ padTo 64 (match i.rw with | none => [] | some w => (w.origs.take 8).flatMap fun o => bytesLE o.toNat 8)
  ++ padTo 192 ((s.r.loops.take 6).flatMap loopBytes)
  ++ padTo 128 ((recs.take 16).flatMap fun r => bytesLE (latchDesc r) 8)
  ++ ((List.range 4).flatMap fun g => cbRecord s g)
  ++ padTo 16 ((s.x.pend.take 4).flatMap fun p => bytesLE (pfmtWord p) 4)
/-- The value and the mask of a record in the frame (08 R154). -/
def latchVal (r : LatchRec) : Nat := match r.dst with | .v _ => r.val.toNat | .mk _ => r.val.toNat % 2 ^ 512
def recBytes (r : LatchRec) : List Byte := bytesLE (latchVal r) 2048
def recMask (r : LatchRec) : List Byte := bytesLE (latchMask r) 512
/-- The k-th record of the frame (08 R153, R154). -/
def putRecord (c : List Host.Cell) (k : Nat) (r : LatchRec) : List Host.Cell :=
  writeBytes (writeBytes c (trapBase + 0x1000 + 2048 * k) (recBytes r)) (trapBase + 0x9000 + 512 * k) (recMask r)
/-- The trap frame, written at TFB: the bytes that it does not use are zero (08 R153). -/
def writeFrame (s : State) (i : TrapInfo) (rbk : Bool) (tepc : W64) (recs : List LatchRec) : State :=
  let c := writeBytes (zeroBytes s.m.cells trapBase 0xC000) trapBase (frameHead s i rbk tepc recs)
  clearBad (setCells s ((recs.take 16).zipIdx.foldl (fun c x => putRecord c x.2 x.1) c)) trapBase 0xC000

/-! ### Taking a cause -/

/-- A whole-bundle address: bits 5:0 cleared (01 R14). -/
def bundleOf (x : W64) : W64 := x &&& ~~~63#64

/-- Handler mode, at TVEC (08 R155, R160). -/
def enterHandler (s : State) (i : TrapInfo) (rbk : Bool) (tepc : W64) (recs : List LatchRec) : State :=
  let t := writeFrame s i rbk tepc recs
  { t with
    x := { t.x with tcause := tcauseImage i rbk, pend := [] }
    f := { t.f with pc := bundleOf t.x.tvec, handler := true, fe := .run, grp := [], latches := [], window := [], markDue := false
                    recSticky := (recs.take 16).map LatchRec.sticky
                    cur := { t.f.cur with ctl := .trapped } } }
/-- What a fault reports when the kernel ends on the core (26 R410). -/
def faultStatus (i : TrapInfo) (rbk : Bool) : EndStatus := ⟨true, tcauseImage i rbk, i.fbundle, i.faddr, none⟩
/-- The kernel ends on the core: it waits for its queues and tokens, and reports (03 R74, 08 R164). What a handler has dispatched drains in
handler mode. -/
def endKernel (s : State) (st : EndStatus) : State := setCtl (setFe s (.exiting st)) .trapped
/-- A slot that has met a fault and delivers nothing: its pending writes are cleared, and what waits for them reads the registers as they stand. -/
def dropPending (s : State) (bsn : Nat) : State :=
  (s.f.sb.filter fun p => isMemFile p.file && p.bsn = bsn).foldl (fun s p =>
    clearPending (if p.file = .s then fillCaptures s p.n p.bsn (sreg s p.n) else s) p.file p.n p.bsn) s
/-- Whether the kernel on this core has been cancelled (26 R401). -/
def cancelledHere (s : State) : Bool := s.c.runs.any fun r => r.here && r.killed
/-- Whether the core ends whatever its queues still meet. -/
def endsAnyway (s : State) (st : EndStatus) : Bool := st.fault || cancelledHere s
/-- Whether the kernel here is on its way to such an end: no cause is entered any more. -/
def endsNow (s : State) : Bool := match s.f.fe with | .exiting st => endsAnyway s st | _ => false
/-- Whether the kernel already ends with a fault. -/
def endsFaulted (s : State) : Bool := match s.f.fe with | .exiting st => st.fault | _ => false
/-- A double trap (08 R163): the handler's work and the gate are dropped, and the completion carries 0x39. The queues drain in handler mode; a
further cause in them changes nothing. -/
def doubleTrap (s : State) (i : TrapInfo) : State :=
  let s := dropPending s i.fbsn
  if endsFaulted s then setCtl s .done
  else endKernel { s with f := { s.f with gate := [], reserved := 0 } } (faultStatus { i with cause := 0x39, detail := i.cause, faddr := 0 } false)
/-- Forward entry (08 R155), once drained: way D at the refused bundle, way A at the next bundle. With TRAPEN 0 a mark is set and the
kernel ends (R164). -/
def enterForward (s : State) (i : TrapInfo) (tepc : W64) : State :=
  if s.f.handler then doubleTrap s i
  else if !s.kn.trapen then endKernel (setMark s) (faultStatus i false)
  else enterHandler s i false tepc (records s)
/-- Rollback entry (08 R157). With TRAPEN 0 the kernel ends (R164). -/
def enterRollback (s : State) (i : TrapInfo) : State :=
  if s.f.handler then doubleTrap s i
  else
    let t := rollbackCore s
    if !s.kn.trapen then endKernel t (faultStatus i true)
    else enterHandler t i true t.f.mark.pc s.f.mark.recs

/-- A cause of way D at the bundle being dispatched (08 R149): the bundle is refused, and the entry is made once the queues have
drained. During run-ahead the bundle is only refused (25 R393). -/
def refuseBundle (s : State) (i : TrapInfo) : State :=
  if s.f.ahead.isSome then setCtl s .stall
  else if drained s then enterForward s i s.f.pc
  else setCtl (setFe s (.draining (some i))) .trapped
def raiseD (s : State) (cause detail slot : Nat) : State := refuseBundle s ⟨cause, detail, 0, slot, s.f.pc, s.f.bsn, 0, none⟩

/-- A trap of a rewritten pair names its first original by FBUNDLE and SLOT (08 R159, 19 R334). -/
def rwInfo (i : TrapInfo) (w : Rw) : TrapInfo :=
  let o := w.origs.headD 0
  let k := o.toNat % 8
  { i with slot := k, fbundle := o - BitVec.ofNat 64 k, rw := some w }
/-- What the executing slot reports of a cause; a rewritten slot is reported by its first original (08 R159). -/
def slotInfo (s : State) (cause detail : Nat) (faddr : W64) : TrapInfo :=
  let c := s.f.cur
  let i : TrapInfo := ⟨cause, detail, queueCode c.k, c.k, c.pc, c.bsn, faddr, none⟩
  match c.rw with
  | some w => rwInfo i w
  | none => i
/-- The slot at which a fault was met: a rewritten pair reports that of its first original (08 R159). -/
def faultSlot (i : TrapInfo) : Nat :=
  if i.rw.isNone then i.slot else match i.queue with | 3 => 3 | 5 => 6 | _ => 7
/-- Insertion of a rollback fault by BSN, then slot (08 R151). -/
def recordFault (s : State) (i : TrapInfo) : State :=
  { s with f := { s.f with rbFaults := insBefore (fun y => slotId i.fbsn (faultSlot i) < slotId y.fbsn (faultSlot y)) i s.f.rbFaults } }
/-- A cause of way R that a slot or one of its accesses meets (08 R149). Outside a drain the core rolls back at once; during a drain,
or while it runs ahead, the fault is recorded, and the one of the lowest BSN is taken (08 R151, 25 R393). -/
def raiseInfo (s : State) (i : TrapInfo) : State :=
  if s.f.handler then doubleTrap s i
  else if s.f.fe = .run && s.f.ahead.isNone then enterRollback s i
  else setCtl (recordFault s i) .wait
def raiseR (s : State) (cause detail : Nat) (faddr : W64) : State := raiseInfo s (slotInfo s cause detail faddr)
/-- A cause of way A, kept until a dispatch boundary takes it (08 R151). -/
def raiseA (s : State) (cause detail : Nat) : State :=
  if s.f.asyncs.any fun p => p.1 = cause then s
  else { s with f := { s.f with asyncs := s.f.asyncs ++ [(cause, detail)] } }
/-- A kernel is in place and has not ended. -/
def running (s : State) : Bool :=
  match s.f.fe with | .idle => false | .ended _ => false | .saved => false | _ => true

/-! ### Tokens (09 R167, 08 R158) -/

/-- Whether a production of a token of lower number than a bound is still to issue in its queue. -/
def producerQueued (s : State) (k bound : Nat) : Bool :=
  (s.f.qs.mx ++ s.f.qs.mem ++ s.f.qs.cp ++ s.f.qs.sy).any fun e => 8 * e.bsn < bound &&
    e.slots.any fun x => (form s.kn.ver x.instr).ops.any fun o => o.file = .k && o.n = k && o.use = .wr
/-- Every production of a token of lower number than a bound has completed. -/
def tokenDone (s : State) (k bound : Nat) : Bool :=
  (token s k).pend.all (fun p => bound ≤ p) && !producerQueued s k bound
/-- The error that a consumer sees: one below its bound that no issue below its bound has cleared. -/
def seenErr (t : Token) (bound : Nat) : Option TokErr :=
  t.errs.find? fun e => e.prod < bound && match e.next with | none => true | some n => bound ≤ n
/-- The first errored one of the consumed tokens, in the order KA, KB, KC. -/
def firstErr (s : State) (needs : List (Nat × Nat)) : Option TokErr := needs.findSome? fun (k, b) => seenErr (token s k) b
/-- Every consumed token is complete. -/
def needsDone (s : State) (needs : List (Nat × Nat)) : Bool := needs.all fun (k, b) => tokenDone s k b
/-- The errored tokens that an instruction names count as consumed. -/
def consumeErrs (s : State) (needs : List (Nat × Nat)) : State :=
  needs.foldl (fun s (k, b) =>
    let t := token s k
    match seenErr t b with
    | none => s
    | some e => setTok s k { t with errs := t.errs.map fun x => if x = e then { e with consumed := true } else x }) s
/-- The tokens that the executing slot consumes. -/
def needsOf (s : State) (ks : List Nat) : List (Nat × Nat) := ks.map fun k => (k, slotId s.f.cur.bsn 0)
/-- The executing slot's production of KP issues: the token is pending, and its error record is cleared for every later consumer. -/
def produce (s : State) (kp : Nat) : Nat × State :=
  let t := token s kp
  let id := slotId s.f.cur.bsn s.f.cur.k
  (id, setTok s kp { pend := t.pend ++ [id], errs := t.errs.map fun e => if e.next.isNone then { e with next := some id } else e })
/-- A production completes, with an error record or none, and with the rewriting of an errored one. The records of errors stay: for a consumer that still waits, and
those that nothing consumed for the completion status. -/
def completeTok (s : State) (kp prod : Nat) (err : Option (Nat × W64)) (rw : Option Rw) : State :=
  let t := token s kp
  let pend := t.pend.filter fun p => p != prod
  setTok s kp { pend := pend
                errs := match err with
                  | none => t.errs
                  | some (c, a) => t.errs ++ [⟨prod, c, a, false, rw, (pend.filter fun p => prod < p).min?⟩] }
/-- Whether every production of every token has completed. -/
def tokensDone (s : State) : Bool := s.r.tok.all fun p => p.2.pend.isEmpty

end Sys2Proof.Machine
end

