-- ==== Sys2Proof/Machine/Fabric.lean ====
section
/-! DEFINITION. The fabric seen from this die: the map of dead links, routes and detours (11 R203 to R217), the ports' queues, the cordonnet
(11 R218) and the sealing of flits (12 R221 to R229). -/

namespace Sys2Proof.Machine

/-! ### Coordinates and dead links -/

/-- The partner over a physical dimension (11 R203). -/
def partner (a : Coord) (d : Nat) : Coord := a ^^^ (1#15 <<< d)
/-- A link is named by its lower end. -/
def linkEnd (a : Coord) (d : Nat) : Coord := a &&& ~~~(1#15 <<< d)
/-- The lanes of a dimension at full width (11 R220). -/
def fullLanes (d : Nat) : Nat := if d < 3 then 64 else if d < 6 then 16 else 8
/-- The state of a link of this die (11 R214). -/
def ownLink (s : State) (d : Nat) : LinkState :=
  if (port s d).dead || !(port s d).installed then .dead else if (port s d).stage = .up && (port s d).lanes < fullLanes d then .degraded else .up
/-- The state in which this die's map shows a link (11 R214): as it was last told of it by a notice, and a link of its own that is up by that as it is. A link that is not
installed is dead (R203). -/
def mapLink (s : State) (a : Coord) (d : Nat) : LinkState :=
  match s.l.linkMap.find? fun p => p.1 = linkEnd a d && p.2.1 = d with
  | some p => if linkEnd a d = linkEnd s.l.coord d && ownLink s d = .dead then .dead else p.2.2
  | none => if linkEnd a d = linkEnd s.l.coord d then ownLink s d else if Config.linkInstalled (linkEnd a d) d then .up else .dead
def mapDead (s : State) (a : Coord) (d : Nat) : Bool := mapLink s a d = .dead
/-- A link's state is entered in the map; one that is up has no entry. -/
def setLinkMap (s : State) (a : Coord) (d : Nat) (st : LinkState) : State :=
  let rest := s.l.linkMap.filter fun p => !(p.1 = linkEnd a d && p.2.1 = d)
  { s with l := { s.l with linkMap := if st = .up then rest else (linkEnd a d, d, st) :: rest } }
/-- The dimensions in which two dies differ, ascending (11 R211). -/
def routeDims (a b : Coord) : List Nat := (List.range 15).filter fun d => (a ^^^ b).getLsbD d
/-- The detour dimension for a hop over d from this die, within a set of dimensions (11 R215). -/
def detourDim (s : State) (dims : BitVec 15) (d : Nat) : Option Nat :=
  let a := s.l.coord
  (List.range 15).find? fun e =>
    e != d && dims.getLsbD e && !mapDead s a e && !mapDead s (partner a e) d && !mapDead s (partner (partner a e) d) e
/-- The dimensions of the tenant's allotment (14 R266, 26 R404). -/
def allotMask (s : State) (owner : BitVec 16) : BitVec 15 :=
  match s.c.tenants.find? fun t => t.owner = owner with | some t => t.mask | none => 0
/-- The messages that an unacknowledged flit carried. -/
def carried (f : Flit) : List CordMsg := (match f.body with | .messages ms => ms | _ => []) ++ f.ride.toList
/-- The hops of a detour by e of the hop over d, behind the first, and the end of it. -/
def detourVia (d e : Nat) : List Nat := [d, e, 15 + d]
/-- Whether a message acknowledges what came over a detour: of one that is itself on a detour the link's acknowledgement counts (log 15). -/
def isAckMsg (m : CMsg) : Bool := match m with | .detourAck .. => true | .cordAck .. => true | _ => false
/-- Whether traffic that this die sent over a detour of the hop over d, by e of a set of dimensions, is not yet acknowledged by its far end: the hop keeps to it (11
R216). -/
def onDetour (s : State) (dims : BitVec 15) (d : Nat) : Option Nat :=
  (List.range 15).find? fun e => dims.getLsbD e &&
    (((port s e).outq.any fun x => x.2.via = detourVia d e) || (s.l.detoured.any fun f => f.via = detourVia d e) ||
      ((port s e).cord.any fun m => m.via = detourVia d e) || ((port s e).cordBack.any fun m => m.via = detourVia d e) ||
      (s.l.cordDetoured.any fun m => m.via = detourVia d e) || (port s e).replay.any fun f => (carried f).any fun m => isAckMsg m.msg && m.via = detourVia d e)
/-- The first hop toward a die and the hops that a detour fixes after it; none where the hop has no detour (11 R217). Every kind of traffic keeps to
its own set of dimensions (11 R211). -/
def nextHop (s : State) (dims : BitVec 15) (dest : Coord) : Option (Nat × List Nat) :=
  match routeDims s.l.coord dest with
  | [] => none
  | d :: _ =>
    if !mapDead s s.l.coord d then
      match onDetour s dims d with | none => some (d, []) | some e => some (e, detourVia d e)
    else (detourDim s dims d).map fun e => (e, detourVia d e)
/-- The port at which traffic waits: that of the next hop, or of the dead link while it has no detour. -/
def waitPort (s : State) (dims : BitVec 15) (dest : Coord) : Nat × List Nat :=
  match nextHop s dims dest with
  | some h => h
  | none => ((routeDims s.l.coord dest).headD 0, [])

/-! ### Payload (11 R219) -/

/-- The bits that hold a number up to x. -/
def bitsFor (x : Nat) : Nat := ((List.range 9).find? fun w => x < 2 ^ w).getD 8
/-- A block of 128 bytes in words of w bits whose exponents, 8 bits from bit lo up, go as offsets from the lowest of them: a header with the mode, the base and the
width of an offset, the words' other bits, and the offsets. Their places in it are a DESIGN CHOICE (log 15). -/
def packExps (mode w lo : Nat) (bs : List Byte) : List Byte :=
  let n := 1024 / w
  let word (i : Nat) : Nat := leNat ((bs.drop (w / 8 * i)).take (w / 8))
  let ex (i : Nat) : Nat := word i / 2 ^ lo % 256
  let exps := (List.range n).map ex
  let base := exps.foldl min 255
  let k := bitsFor (exps.foldl max 0 - base)
  bytesLE (mode + 4 * base + 2 ^ 10 * k) 2 ++ bytesLE (packN (w - 8) (fun i => word i % 2 ^ lo + word i / 2 ^ (lo + 8) * 2 ^ lo) n) (n * (w - 8) / 8)
    ++ bytesLE (packN k (fun i => ex i - base) n) ((n * k + 7) / 8)
/-- A block as a port sends it, the shortest of its modes: raw, FP32 with exponents in bits 30:23, or BF16 with exponents in bits 14:7 (11 R219). A block of fewer than 128
bytes goes raw. -/
def packBlock (bs : List Byte) : List Byte :=
  let raw := [0, 0] ++ bs
  if bs.length != 128 then raw
  else [packExps 1 32 23 bs, packExps 2 16 7 bs].foldl (fun c x => if x.length < c.length then x else c) raw
/-- The data that a body carries, which the ports compress. -/
def bodyData (b : Body) : List Byte :=
  match b with | .stream _ bs _ => bs | .mcast _ _ bs _ => bs | .request r => r.bytes | .response _ bs _ _ => bs | _ => []
def packBlocks : Nat → List Byte → List Byte
  | 0, _ => []
  | n + 1, bs => packBlock (bs.take 128) ++ packBlocks n (bs.drop 128)
/-- The payload of a flit: what its body says, and its data in compressed blocks. -/
def payloadOf (b : Body) : List Byte := Config.bodyBytes b ++ packBlocks (((bodyData b).length + 127) / 128) (bodyData b)

/-! ### Port queues -/

def lookupSeq (l : List (Coord × Nat)) (d : Coord) : Nat := ((l.find? fun p => p.1 = d).map (·.2)).getD 0
def putSeq (l : List (Coord × Nat)) (d : Coord) (n : Nat) : List (Coord × Nat) := (d, n) :: l.filter fun p => p.1 != d
/-- Words of a body, for NVAL. -/
def bodyWords (b : Body) : Nat := match b with
  | .messages ms => 4 * ms.length
  | b => min 56 (((payloadOf b).length + 3) / 4)
/-- A flit of this die to another. -/
def newFlit (s : State) (ftype : BitVec 4) (dest : Coord) (body : Body) (via : List Nat) (dims : BitVec 15) : Flit :=
  { cord := 0, ftype := ftype, ch := 0, orig := s.l.coord, dest := dest, pseq := 0
    nval := BitVec.ofNat 6 (bodyWords body), body := body, via := via, dims := dims, ride := none, numbered := false, epoch := 0, counter := 0, tag := 0 }
def pushOut (s : State) (d : Nat) (r : Requester) (f : Flit) : State :=
  let p := port s d
  setPort s d { p with outq := p.outq ++ [(r, f)] }
/-- A data flit queued at the port of its route (11 R211). -/
def sendData (s : State) (dims : BitVec 15) (r : Requester) (dest : Coord) (body : Body) : State :=
  let (d, via) := waitPort s dims dest
  pushOut s d r (newFlit s 0 dest body via dims)
/-- This die's number within its package; die 0 is the anchor, which has the host port (00 R5). -/
def dieNo (s : State) : BitVec 3 := s.l.coord.extractLsb' 0 3
/-- The coordinate of a die of this package. -/
def dieOf (s : State) (n : BitVec 3) : Coord := s.l.coord ^^^ (dieNo s ^^^ n).zeroExtend 15
/-- A message for the host leaves by the port, or goes to the anchor die over dimensions 0 to 2 (00 R5). -/
def say (s : State) (r : Reply) : State :=
  if dieNo s = 0 then { s with c := { s.c with out := s.c.out ++ [r] } } else sendData s 7 .memory (dieOf s 0) (.reply r)
/-- Whether a message is traffic that a port fence keeps behind it (09 R191): all but what the links themselves say. -/
def fencedMsg (m : CMsg) : Bool := !isAckMsg m && match m with | .linkState .. => false | _ => true
/-- Messages wait for their turn on the cordonnet. -/
def addCord (t : W64) (p : Port) (ms : List CordMsg) : Port := { p with cord := p.cord ++ ms, cordSince := if p.cord.isEmpty && !ms.isEmpty then t else p.cordSince }
/-- A message waits for its turn on the cordonnet of a port, or behind the port's fence (09 R191). -/
def pushCord (s : State) (d : Nat) (m : CordMsg) : State :=
  let p := port s d
  setPort s d (if p.portFence.isSome && fencedMsg m.msg then { p with cordBack := p.cordBack ++ [m] } else addCord s.tick p [m])
/-- A port's fence is released: what waits behind it follows (09 R191). -/
def dropFence (s : State) (d : Nat) : State :=
  let p := port s d
  setPort s d { addCord s.tick p p.cordBack with portFence := none, cordBack := [] }
/-- A message queued on the cordonnet toward a die (11 R218). -/
def sendCord (s : State) (dims : BitVec 15) (dest : Coord) (m : CMsg) : State :=
  let (d, via) := waitPort s dims dest
  let n := lookupSeq s.l.cordTx dest
  pushCord { s with l := { s.l with cordTx := putSeq s.l.cordTx dest (n + 1) } } d ⟨s.l.coord, dest, n, via, dims, m⟩
/-- The dies of this die's subcube, or of another set of dimensions, without this die. -/
def otherDies (a : Coord) (dims : BitVec 15) : List Coord :=
  ((List.range 15).foldl (fun l d => if dims.getLsbD d then l ++ l.map fun c => partner c d else l) [a]).filter fun c => c != a

/-! ### Widths (11 R220, 12 R226, R234) -/

/-- Whether a shared receiver is retuning (12 R227). -/
def isRetuning (s : State) (grp fibre : Nat) : Bool := s.l.retuning.any fun x => x.grp = grp && x.fibre = fibre
/-- The shared lanes that are granted to the link of a dimension, to widen it or for a detour hop over it. -/
def grantedLanes (s : State) (d : Nat) : List Grant := s.l.grants.filter fun g => g.purpose = .widen d || g.purpose = .detour d
/-- Those of them that carry its traffic. -/
def sharedLanes (s : State) (d : Nat) : Nat := ((grantedLanes s d).filter fun g => !isRetuning s g.grp g.fibre).length
/-- The widest stripe that LWID and the working lanes allow. A grant of this die's receivers widens what it sends too: DESIGN CHOICE (log 29). -/
def stripeOf (s : State) (d : Nat) : Nat :=
  let p := port s d
  if d < 3 then p.lanes else min p.ded p.lanes + (if d < 6 then 0 else min p.shr (sharedLanes s d))
/-- Every lane up to the width rejoins the stripe. -/
def restripe (s : State) (d : Nat) : State := setPort s d { port s d with striped := stripeOf s d }
/-- The width of a port has changed from w: as many of its lanes stay parked as were, and at least one is striped (12 R234). -/
def trimStripe (s : State) (d w : Nat) : State :=
  let n := stripeOf s d
  setPort s d { port s d with striped := max (min 1 n) (n - (w - (port s d).striped)) }

/-! ### Depths and fences (12 R227, R234) -/

def wakeq (p : Port) : Nat := fieldN p.lpctl 63 48
def parkq (p : Port) : Nat := min (fieldN p.lpctl 47 32) (wakeq p - 1)
/-- The depth of a port has come down to PARKQ, or PARKQ up to its depth. -/
def markLow (t : W64) (old new : Port) : Port :=
  if parkq old < old.outq.length && new.outq.length ≤ parkq new then { new with lowSince := t } else new
/-- A fence once only some of the flits are left: those ahead of it are as many as are left of them. -/
def fenceLeft (old : List (Requester × Flit)) (left : Requester × Flit → Bool) (k : Option Nat) : Option Nat :=
  k.map fun n => ((old.take n).filter left).length

/-! ### Integrity (12 R223, R227, R228) -/

/-- One byte of CRC-64/ECMA-182, bit by bit (01 R34). -/
def crcByte (n : Nat) (c : BitVec 64) : BitVec 64 :=
  (List.range n).foldl (fun c _ => if c.msb then (c <<< 1) ^^^ 0x42F0E1EBA9EA3693 else c <<< 1) c
/-- CRC-64 of some bytes. -/
def crcOf (c : BitVec 64) : List Byte → BitVec 64
  | [] => c
  | b :: bs => crcOf (crcByte 8 (c ^^^ BitVec.ofNat 64 (b.toNat * 2 ^ 56))) bs
def crc64 (bs : List Byte) : BitVec 64 := crcOf 0 bs
/-- Header bits 63:0 of a flit. -/
def headerLow (f : Flit) : Nat :=
  f.ftype.toNat * 2 ^ 60 + f.ch.toNat * 2 ^ 58 + f.orig.toNat * 2 ^ 43 + f.dest.toNat * 2 ^ 28 + f.pseq.toNat * 2 ^ 6 + f.nval.toNat
/-- Bytes 0 to 239 of a flit. -/
def flitBytes (f : Flit) : List Byte :=
  bytesLE (headerLow f) 8 ++ bytesLE f.cord.toNat 8 ++ padTo 224 ((payloadOf f.body).take 224)
/-- The direction byte of a sender (12 R229). -/
def direction (a : Coord) (d : Nat) : Nat := if a = linkEnd a d then 0 else 1
/-- A flit under AES-256-GCM (12 R228): header bits 63:0 are the additional data, bytes 8 to 239 the plaintext; the 36 bytes that HKDF gives are the
key and then the salt, and the IV is the salt followed by the counter. The result is what stands in bytes 8 to 239, and the tag. -/
def gcmSeal (sender : Coord) (d : Nat) (prk : BitVec 384) (f : Flit) : List Byte × BitVec 128 :=
  let x := Config.hkdfExpand prk (direction sender d) f.epoch
  Config.gcm (x.extractLsb' 32 256) (x.extractLsb' 0 32 ++ BitVec.ofNat 64 f.counter) ((flitBytes f).take 8) ((flitBytes f).drop 8)
/-- The integrity field: CRC on dimensions 0 to 2 and on authentication flits (12 R232), the tag of AES-GCM elsewhere. -/
def integrity (sender : Coord) (d : Nat) (prk : Option (BitVec 384)) (f : Flit) : BitVec 128 :=
  match prk with
  | none => (crc64 (flitBytes f)).zeroExtend 128
  | some k => (gcmSeal sender d k f).2
/-- Bytes 0 to 239 of a flit as they stand on the link. -/
def wireBytes (sender : Coord) (d : Nat) (prk : Option (BitVec 384)) (f : Flit) : List Byte :=
  match prk with
  | none => flitBytes f
  | some k => (flitBytes f).take 8 ++ (gcmSeal sender d k f).1
/-- The key material of a port: none where flits carry a CRC. -/
def portKey (s : State) (d : Nat) (f : Flit) : Option (BitVec 384) :=
  if d < 3 || f.ftype = 4 then none else (port s d).prk
/-- Whether a link direction takes another flit: its replay buffer has room, and its key a counter below 2^40 (12 R228, R230). -/
def linkRoom (s : State) (d : Nat) : Bool := (port s d).replay.length < 1024 && (d < 3 || (port s d).txCtr < 2 ^ 40)
/-- A flit goes out on a link direction that takes it: sealed, kept for replay, with the next counter (12 R228, R230). -/
def transmit (s : State) (d : Nat) (f : Flit) : State :=
  if !linkRoom s d then s else
  let p := port s d
  let f := { f with epoch := p.txEpoch, counter := p.txCtr }
  let f := { f with tag := integrity s.l.coord d (portKey s d f) f }
  setPort s d { p with replay := p.replay ++ [f], txCtr := p.txCtr + 1, ackSince := if p.replay.isEmpty then s.tick else p.ackSince }

end Sys2Proof.Machine
end

