-- ==== Sys2Proof/Machine/Flags.lean ====
section
/-! DEFINITION. What instructions compute beside a result: conditions, the predicates of a compare, and the sticky bits. -/

namespace Sys2Proof.Machine

/-- The conditions of the scalar compares (03 R68). Values 8 to 15 are not encodable. -/
def scalarCond (cond : Nat) (signed : Bool) (a b : W64) : Bool :=
  let lt (x y : W64) : Bool := if signed then x.slt y else x.ult y
  match cond with
  | 0 => a == b
  | 1 => a != b
  | 2 => lt a b
  | 3 => !lt b a
  | 4 => lt b a
  | 5 => !lt a b
  | 6 => !a.getLsbD (b.toNat % 64)
  | _ => a.getLsbD (b.toNat % 64)

/-- The writes of a compare (01 R25): for each destination the value written, or none. -/
def compareWrites (ct : BitVec 3) (q c : Bool) : Option Bool × Option Bool :=
  let e := if ct.getLsbD 2 then !c else c
  match fieldN ct 1 0 with
  | 0 => if q then (some e, some !e) else (none, none)
  | 1 => (some (q && e), some (q && !e))
  | 2 => if q && !e then (some false, some true) else (none, none)
  | _ => if q && e then (some true, some false) else (none, none)

def setPopt (s : State) (n : Nat) (b : Option Bool) : State :=
  match b with | none => s | some x => setP s n x

/-- A compare (01 R25): the one instruction that may write where q is false. -/
def compare (s : State) (pd1 pd2 : BitVec 6) (ct : BitVec 3) (c : Bool) : State :=
  let w := compareWrites ct s.f.cur.q c
  setPopt (setPopt s pd1.toNat w.1) pd2.toNat w.2

/-- The conditions of VCMP on INT32 elements (04 R97). -/
def intCond (xop : Nat) (a b : Nat) : Bool :=
  let x := intOf 32 a
  let y := intOf 32 b
  match xop with
  | 0 => x = y | 1 => x ≠ y | 2 => x < y | 3 => x ≤ y | 4 => y < x | 5 => y ≤ x
  | 6 => a < b | _ => b ≤ a
/-- The conditions of VCMP on FP32 elements: false with a NaN, except `.ne` and `.un` (04 R97). -/
def fpCond (xop : Nat) (a b : Nat) : Bool :=
  let x := fp32.value a
  let y := fp32.value b
  let un := x.isNan || y.isNan
  match xop with
  | 0 => !un && x.eq y | 1 => un || !x.eq y | 2 => !un && x.lt y | 3 => !un && !y.lt x
  | 4 => !un && y.lt x | 5 => !un && !x.lt y | 6 => un | _ => !un

/-- The bits of STKY (02 R42). -/
def stkyNan : BitVec 4 := 1
def stkyGzero : BitVec 4 := 2
def stkyLsmin : BitVec 4 := 4
def stkyBktovf : BitVec 4 := 8

end Sys2Proof.Machine
end

