-- ==== Sys2Proof/Machine/Vector.lean ====
section
/-! DEFINITION. The vector slots (04 R85 to R102, 23 R368 to R370). A result lands L issue cycles of its own queue later. -/

namespace Sys2Proof.Machine

/-! ### Sources -/

def vqOf (k : Nat) : VQueue := if k = 2 then .vb else .va
/-- The writes of a register since the last realign, the latest first. -/
def unordFor (s : State) (d : Dst) : List Unordered := (s.f.unord.filter fun u => u.dst = d).reverse
/-- Whether a slot of a queue has no order with an earlier write (07 R138, R139): another compute queue's, or that of an interlocked
producer behind the slot's bundle. What a producer of the slot's own bundle has landed is read whole: DESIGN CHOICE (log 10, log 29). -/
def unorderedRead (q : Queue) (bsn : Nat) (u : Unordered) : Bool := u.q != q && (!interlockedQ u.q || bsn < u.bsn)
/-- Each element shows what the register holds or what it held before an unordered write; a write that the reader sees in order hides, in
what it wrote, all that was there before. -/
def mixOld (w : Nat) (q : Queue) (bsn : Nat) : Nat → Vec → Vec → List Unordered → Vec
  | _, _, x, [] => x
  | n, free, x, u :: us =>
    if unorderedRead q bsn u then mixOld w q bsn (n + 256) free (merge x u.old (choice n w &&& u.wm &&& free)) us
    else mixOld w q bsn n (free &&& ~~~u.wm) x us
/-- What the executing slot reads of a register. -/
def readMixed (s : State) (w n : Nat) (d : Dst) (x : Vec) : Vec :=
  mixOld w (queueOf s.f.cur.k) s.f.cur.bsn n (BitVec.allOnes 16384) x (unordFor s d)
/-- A vector source. -/
def srcV (s : State) (n : Nat) : Vec := readMixed s 32 (s.fresh + n) (.v n) (vreg s n)
/-- A mask source, element by element. -/
def srcM (s : State) (n : Nat) : MaskReg :=
  (readMixed s 1 (s.fresh + 192 + n) (.mk n) ((mreg s n).zeroExtend 16384)).truncate 512
/-- The free choices of one slot are not used again. -/
def spendMix (s : State) : State := { s with fresh := s.fresh + 256 * s.f.unord.length }

/-! ### Results -/

/-- The format in force of a vector instruction (01 R21, 07 R143). -/
def efv (o : RRR) (s : State) : Nat := efIn o.ef (vfmt s.f.cur.fmtr)
/-- Whether element i is governed (04 R86). -/
def governs (o : RRR) (s : State) : Nat → Bool :=
  if o.me then let m := (srcM s o.mkn).toNat; fun i => m.testBit i else fun _ => true
/-- The mask of whole elements that satisfy a test. -/
def elems (f : Nat → Bool) : Vec := vecOf 32 fun i => if f i then 2 ^ 32 - 1 else 0
/-- The elements that an instruction writes: all, or those that MK[MKN] governs. -/
def written (o : RRR) (s : State) : Vec := if o.me then elems (governs o s) else BitVec.allOnes 16384
/-- A result in flight: it lands in the L-th issue cycle of its queue after this one (04 R89). -/
def inFlight (d : Dst) (l : Nat) (val wm : Vec) (sticky : Option (BitVec 4)) (s : State) : State :=
  let c := s.f.cur
  let x : Latch := ⟨vqOf c.k, d, val, wm, c.bsn, c.bsn + l, sticky, none⟩
  spendMix { s with f := { s.f with latches := s.f.latches ++ [x] } }
/-- A vector result of latency l, under the element mask. -/
def toV (o : RRR) (l : Nat) (val : State → Vec) (s : State) : Out :=
  ifQ s fun s => inFlight (.v o.d.toNat) l (val s) (written o s) none s

/-! ### Lanewise forms -/

def map1 (w : Nat) (f : Nat → Nat) (a : Vec) : Vec := vecOf w fun i => f (lane a w i)
def map2 (w : Nat) (f : Nat → Nat → Nat) (a b : Vec) : Vec := vecOf w fun i => f (lane a w i) (lane b w i)
def map3 (w : Nat) (f : Nat → Nat → Nat → Nat) (a b c : Vec) : Vec :=
  vecOf w fun i => f (lane a w i) (lane b w i) (lane c w i)
/-- Two sources, lane by lane. -/
def lanes2 (o : RRR) (w l : Nat) (f : Nat → Nat → Nat) (s : State) : Out :=
  toV o l (fun s => map2 w f (srcV s o.a.toNat) (srcV s o.b.toNat)) s
def lanes1 (o : RRR) (w l : Nat) (f : Nat → Nat) (s : State) : Out :=
  toV o l (fun s => map1 w f (srcV s o.a.toNat)) s
def wrap32 (i : Int) : Nat := (i % 2 ^ 32).toNat
/-- An INT32 result, clamped with SAT (04 R95). -/
def int32 (sat : Bool) (i : Int) : Nat :=
  if sat && i < -2147483648 then 0x80000000 else if sat && 2147483647 < i then 0x7FFFFFFF else wrap32 i
/-- ADD, SUB and MUL: INT32 in 2 issue cycles, FP in 4. -/
def arith (o : RRR) (fi : Int → Int → Int) (ff : Fmt → Nat → Nat → Nat → Nat) (s : State) : Out :=
  let ef := efv o s
  if ef = 8 then lanes2 o 32 2 (fun a b => int32 o.sat (fi (intOf 32 a) (intOf 32 b))) s
  else lanes2 o (widthOf ef) 4 (ff (fmtOf ef) o.rm) s
def fsub (f : Fmt) (rm : Nat) (x y : Nat) : Nat := f.round rm (.add (rm = 3) (f.value x) (f.value y).neg)

def execVAdd (o : RRR) (s : State) : Out := arith o (fun a b => a + b) fadd s
def execVSub (o : RRR) (s : State) : Out := arith o (fun a b => a - b) fsub s
def execVMul (o : RRR) (s : State) : Out := arith o (fun a b => a * b) fmul s

/-- MIN and MAX of INT32 elements, signed or unsigned (04 R95). -/
def iminmax (uns isMax : Bool) (a b : Nat) : Nat :=
  let less := if uns then decide (a < b) else decide (intOf 32 a < intOf 32 b)
  if isMax then (if less then b else a) else (if less then a else b)
def minmax (o : RRR) (isMax : Bool) (s : State) : Out :=
  let ef := efv o s
  if ef = 8 then lanes2 o 32 2 (iminmax (o.xop = 1) isMax) s
  else lanes2 o (widthOf ef) 4 (fminmax (fmtOf ef) isMax) s
def execVMin (o : RRR) (s : State) : Out := minmax o false s
def execVMax (o : RRR) (s : State) : Out := minmax o true s

/-- ABS and NEG: the sign bit alone in FP (04 R93), two's complement in INT32 (04 R95). -/
def absLane (ef x : Nat) : Nat :=
  if ef = 8 then (if 2 ^ 31 ≤ x then (2 ^ 32 - x) % 2 ^ 32 else x) else x % 2 ^ (widthOf ef - 1)
def negLane (ef x : Nat) : Nat := if ef = 8 then (2 ^ 32 - x) % 2 ^ 32 else x ^^^ 2 ^ (widthOf ef - 1)
def execVAbs (o : RRR) (s : State) : Out := lanes1 o (widthOf (efv o s)) 2 (absLane (efv o s)) s
def execNeg (o : RRR) (s : State) : Out := lanes1 o (widthOf (efv o s)) 2 (negLane (efv o s)) s

/-- A bitwise operation on two registers (04 R95). -/
def bitwise (o : RRR) (f : Vec → Vec → Vec) (s : State) : Out :=
  toV o 2 (fun s => f (srcV s o.a.toNat) (srcV s o.b.toNat)) s
def execVAnd (o : RRR) (s : State) : Out := bitwise o (fun a b => a &&& b) s
def execVOr (o : RRR) (s : State) : Out := bitwise o (fun a b => a ||| b) s
def execVXor (o : RRR) (s : State) : Out := bitwise o (fun a b => a ^^^ b) s
def execVAndn (o : RRR) (s : State) : Out := bitwise o (fun a b => a &&& ~~~b) s
/-- Shifts of an element by an element mod 32 (04 R95). -/
def shlLane (a b : Nat) : Nat := (a <<< (b % 32)) % 2 ^ 32
def shrLane (a b : Nat) : Nat := a >>> (b % 32)
def sarLane (a b : Nat) : Nat := wrap32 (intOf 32 a / 2 ^ (b % 32))
def execVShl (o : RRR) (s : State) : Out := lanes2 o 32 2 shlLane s
def execVShr (o : RRR) (s : State) : Out := lanes2 o 32 2 shrLane s
def execVSar (o : RRR) (s : State) : Out := lanes2 o 32 2 sarLane s
/-- The high half of the product, signed or unsigned (04 R95). -/
def mulhLane (uns : Bool) (a b : Nat) : Nat :=
  if uns then a * b / 2 ^ 32 else wrap32 (intOf 32 a * intOf 32 b / 2 ^ 32)
def execVMulh (o : RRR) (s : State) : Out := lanes2 o 32 2 (mulhLane (o.xop = 1)) s

/-- The fused forms: product and sum exact, one rounding (04 R92). -/
def fused (o : RRR) (negP negC : Bool) (s : State) : Out :=
  let ef := efv o s
  let f := fmtOf ef
  let sg (b : Bool) (x : Num) : Num := if b then x.neg else x
  toV o 4 (fun s => map3 (widthOf ef)
    (fun a b c => ffma f o.rm (sg negP (f.value a)) (f.value b) (sg negC (f.value c)))
    (srcV s o.a.toNat) (srcV s o.b.toNat) (srcV s o.c.toNat)) s
def execFma (o : RRR) (s : State) : Out := fused o false false s
def execFms (o : RRR) (s : State) : Out := fused o false true s
def execFnma (o : RRR) (s : State) : Out := fused o true false s

/-- A function of FP32 on FP32 or BF16 lanes (04 R94). -/
def special (o : RRR) (f : Nat → Nat) (s : State) : Out :=
  if efv o s = 0 then lanes1 o 32 8 f s
  else lanes1 o 16 8 (fun x => bf16.round 0 (fp32.value (f (x <<< 16)))) s
def execRcp (o : RRR) (s : State) : Out := special o rcp32 s
def execRsq (o : RRR) (s : State) : Out := special o rsq32 s
def execExp2 (o : RRR) (s : State) : Out := special o exp2_32 s
def execLog2 (o : RRR) (s : State) : Out := special o log2_32 s

/-! ### Compares, masks and moves -/

def maskVec (m : MaskReg) : Vec := m.zeroExtend 16384
/-- A mask result of latency 2. -/
def toM (o : RRR) (val : State → MaskReg) (wm : State → MaskReg) (s : State) : Out :=
  ifQ s fun s => inFlight (.mk o.d.toNat) 2 (maskVec (val s)) (maskVec (wm s)) none s
/-- VCMP (04 R97). -/
def execVcmp (o : RRR) (s : State) : Out :=
  let cond := if efv o s = 8 then intCond o.xop else fpCond o.xop
  toM o (fun s => let a := srcV s o.a.toNat; let b := srcV s o.b.toNat; maskOf fun i => cond (lane a 32 i) (lane b 32 i))
    (fun s => if o.me then srcM s o.mkn else BitVec.allOnes 512) s
def mk2 (o : RRR) (f : MaskReg → MaskReg → MaskReg) (s : State) : Out :=
  toM o (fun s => f (srcM s o.a.toNat) (srcM s o.b.toNat)) (fun _ => BitVec.allOnes 512) s
def execMkand (o : RRR) (s : State) : Out := mk2 o (fun a b => a &&& b) s
def execMkor (o : RRR) (s : State) : Out := mk2 o (fun a b => a ||| b) s
def execMkxor (o : RRR) (s : State) : Out := mk2 o (fun a b => a ^^^ b) s
def execMknot (o : RRR) (s : State) : Out :=
  toM o (fun s => ~~~(srcM s o.a.toNat)) (fun _ => BitVec.allOnes 512) s
/-- SELV, PERM, MOVV, IOTA, BCST (04 R96). -/
def execSelv (o : RRR) (s : State) : Out :=
  toV o 2 (fun s => let m := (srcM s o.c.toNat).toNat
    merge (srcV s o.b.toNat) (srcV s o.a.toNat) (elems fun i => m.testBit i)) s
def execPerm (o : RRR) (s : State) : Out :=
  toV o 3 (fun s => let a := srcV s o.a.toNat; map1 32 (fun x => lane a 32 (x % 512)) (srcV s o.b.toNat)) s
def execMovv (o : RRR) (s : State) : Out := toV o 2 (fun s => srcV s o.a.toNat) s
def execIota (o : RRR) (s : State) : Out :=
  toV o 2 (fun s => vecOf 32 fun i => (opS s o.a.toNat).toNat + i) s
def execBcst (o : RRR) (s : State) : Out :=
  let w := widthOf (efv o s)
  toV o 2 (fun s => vecOf w fun _ => (opS s o.a.toNat).toNat) s

/-! ### CVT (04 R99, R100) -/

def execCvt (o : RRR) (s : State) : Out :=
  ifQ s fun s =>
    let df := efv o s
    let sf := efIn (fieldN o.b 3 0) (vfmt s.f.cur.fmtr)
    let n := min (lanesOf sf) (lanesOf df)
    let a := srcV s o.a.toNat
    let g := governs o s
    let src (k : Nat) : Nat := if n < lanesOf sf then o.xop * n + k else k
    let lo := if n < lanesOf df then o.xop * n else 0
    let inPart (j : Nat) : Bool := lo ≤ j && j < lo + n
    let w := widthOf df
    let val := vecOf w fun j =>
      if inPart j then convert df o.rm (cvtSat df sf o.sat) (isIntFmt sf) (numOf sf (lane a (widthOf sf) (src (j - lo)))) else 0
    let wm := vecOf w fun j => if inPart j && g ((j - lo) * 512 / n) then 2 ^ w - 1 else 0
    inFlight (.v o.d.toNat) 3 val wm none s

/-! ### Reductions and PART (04 R101, R102) -/

/-- One level of the pairwise tree. -/
def pairUp (op : Nat → Nat → Nat) : List Nat → List Nat
  | a :: b :: r => op a b :: pairUp op r
  | l => l
/-- The tree: at most n levels. -/
def tree (op : Nat → Nat → Nat) : Nat → List Nat → Nat
  | 0, l => l.headD 0
  | n + 1, l => tree op n (pairUp op l)
/-- A reduction over lanes of width w, `ident` standing for those that do not take part; the value is written everywhere. -/
def reduce (o : RRR) (w ident : Nat) (widen : Nat → Nat) (op : Nat → Nat → Nat) (fin : Nat → Nat) (s : State) : Out :=
  ifQ s fun s =>
    let a := srcV s o.a.toNat
    let g := governs o s
    let t := tree op 10 ((List.range (16384 / w)).map fun i => if g (i * w / 32) then widen (lane a w i) else ident)
    inFlight (.v o.d.toNat) 6 (vecOf w fun _ => fin t) (BitVec.allOnes 16384) none s
def execRsum (o : RRR) (s : State) : Out :=
  match efv o s with
  | 8 => reduce o 32 0 id (fun a b => (a + b) % 2 ^ 32) id s
  | 0 => reduce o 32 0x80000000 id (fadd fp32 o.rm) id s
  | _ => reduce o 16 0x80000000 (fun x => x <<< 16) (fadd fp32 o.rm) (fun x => bf16.round o.rm (fp32.value x)) s
def execRmax (o : RRR) (s : State) : Out :=
  match efv o s with
  | 8 => reduce o 32 0x80000000 id (iminmax false true) id s
  | 0 => reduce o 32 0xFF800000 id (fminmax fp32 true) id s
  | _ => reduce o 16 0xFF80 id (fminmax bf16 true) id s
def execRmin (o : RRR) (s : State) : Out :=
  match efv o s with
  | 8 => reduce o 32 0x7FFFFFFF id (iminmax false false) id s
  | 0 => reduce o 32 0x7F800000 id (fminmax fp32 false) id s
  | _ => reduce o 16 0x7F80 id (fminmax bf16 false) id s
/-- The elements of a PART result, in order. -/
def partList (m : Nat) : List Nat :=
  let set := (List.range 512).filter fun i => m.testBit i
  let clr := (List.range 512).filter fun i => !m.testBit i
  (set ++ clr).map fun i => i + (if m.testBit i then 2 ^ 15 else 0) + set.length * 2 ^ 16
/-- A vector of 32-bit elements from a list. -/
def vecOfList (l : List Nat) : Vec := BitVec.ofNat 16384 (l.foldr (fun x a => x % 2 ^ 32 + 2 ^ 32 * a) 0)
def execPart (o : RRR) (s : State) : Out :=
  toV o 6 (fun s => vecOfList (partList (srcM s o.a.toNat).toNat)) s

/-! ### GNORM (23 R369) -/

/-- One group: the new elements and the sticky bits. -/
def gnormGroup (rm k : Nat) (xs : List Nat) : List Nat × BitVec 4 :=
  let t := fp32.round 0 (.sum (xs.map fp32.value))
  let even := List.replicate k (fp32.round rm (.div (.fin false 1 0) (.fin false k 0)))
  match fp32.value t with
  | .fin n m e =>
    if t % 2 ^ 31 < 2 ^ 23 then (even, stkyGzero)
    else (xs.map fun x => fp32.round rm (.div (fp32.value x) (.fin n m e)), 0)
  | _ => (even, stkyNan)
def execGnorm (o : RRR) (s : State) : Out :=
  ifQ s fun s =>
    let k := o.xop + 1
    let a := srcV s o.a.toNat
    let g := governs o s
    let idx (j : Nat) : List Nat := (List.range k).map fun i => j * k + i
    let groups := (List.range (512 / k)).map fun j =>
      if (idx j).any g then gnormGroup o.rm k ((idx j).map fun i => lane a 32 i) else (List.replicate k 0, 0)
    let sticky := groups.foldl (fun b r => b ||| r.2) 0
    inFlight (.v o.d.toNat) 8 (vecOfList (groups.flatMap fun r => r.1))
      (elems fun i => i < 512 / k * k && g i) (some sticky) s

end Sys2Proof.Machine
end

