-- ==== Sys2Proof/Machine/Access.lean ====
section
/-! DEFINITION. Accesses of the memory queue: generator walks (05 R108), range, alignment and translation (05 R105 to R107, 14 R254,
R257), the gate and the requests that a home answers (14 R265, R266), and the writes that FLAG counts (09 R188). -/

namespace Sys2Proof.Machine

/-! ### Address generators -/

/-- The index that the direction bit makes of i (05 R108). -/
def genIndex (g : Gen) (j : Nat) : Nat :=
  if g.dir.getLsbD j then (g.extent.get j).toNat - 1 - g.idx.get j else g.idx.get j
def genPos (g : Gen) : W64 :=
  (List.range 4).foldl (fun p j => p + (g.stride.get j).signExtend 64 * BitVec.ofNat 64 (genIndex g j)) g.base
/-- One step of the running indices, from level j. -/
def stepFrom (g : Gen) : Nat → Nat → Four Nat → Four Nat
  | 0, _, i => i
  | n + 1, j, i =>
    if i.get j + 1 < (g.extent.get j).toNat then i.set j (i.get j + 1) else stepFrom g n (j + 1) (i.set j 0)
def genNext (g : Gen) : Gen := { g with idx := stepFrom g 4 0 g.idx }
/-- n addresses, with the generator behind the last of them. -/
def genWalk : Nat → Gen → List W64 × Gen
  | 0, g => ([], g)
  | n + 1, g => let r := genWalk n (genNext g); (genPos g :: r.1, r.2)
/-- The addresses of the whole nest: none where an extent is zero. -/
def genTotal (g : Gen) : Nat :=
  (g.extent.get 0).toNat * (g.extent.get 1).toNat * (g.extent.get 2).toNat * (g.extent.get 3).toNat
/-- The first n addresses, or none for an empty nest. -/
def genTake (s : State) (n k : Nat) : List W64 × State :=
  let g := gen s n
  if genTotal g = 0 then ([], s) else let r := genWalk k g; (r.1, setGen s n r.2)

/-- n addresses of a generator, or the next that were captured for this slot (19 R325). -/
def genAddrs (s : State) (n k : Nat) : List W64 × State :=
  match takeFirst (fun p => p.1 = n) s.f.cur.gens with
  | some (l, rest) => (l.2, setCur s { s.f.cur with gens := rest })
  | none => genTake s n k
/-- The generator that an access of MODE 1 steps, and how often (05 R103). -/
def modeWalk (o : MEM) (k : Nat) : Option (Nat × Nat) := if o.modeN = 1 then some (o.base.toNat, k) else none
def memWalk (i : Instr) : Option (Nat × Nat) :=
  match i with
  | .ldB o => modeWalk o 1 | .ldH o => modeWalk o 1 | .ldW o => modeWalk o 1 | .ldD o => modeWalk o 1
  | .ldBs o => modeWalk o 1 | .ldHs o => modeWalk o 1 | .ldWs o => modeWalk o 1 | .ldV o => modeWalk o 512
  | .stB o => modeWalk o 1 | .stH o => modeWalk o 1 | .stW o => modeWalk o 1 | .stD o => modeWalk o 1 | .stV o => modeWalk o 512
  | _ => none

/-! ### Range and alignment -/

/-- Whether core accesses reach the scratchpad of core c: own core and own cluster (14 R257). -/
def coreReaches (s : State) (c : Nat) : Bool := c / 8 = s.x.coreid.toNat / 8
/-- Some bytes of an access that one step and one register translate: their place, their virtual address, where they lie, and how many they are. -/
structure Part where
  off : Nat
  va : W64
  tgt : Target
  len : Nat
  deriving DecidableEq, Repr
/-- Where the translation of n bytes from an address may change: at the ends of the range registers' ranges and of the window range (14 R254), and behind
the scratchpad in the own window (R257). -/
def cutPoints (s : State) (va : W64) (n : Nat) : List Nat :=
  let a := va.toNat
  let edge (x : Nat) (l : List Nat) : List Nat := if a < x && x < a + n && !l.contains (x - a) then insBefore (fun y => x - a < y) (x - a) l else l
  edge windowBase <| edge (windowBase + 0x40000000) <| edge (windowBase + 2 ^ 24 * s.x.coreid.toNat + spadSize)
    ((List.range 16).foldl (fun l j => edge (range s j).base.toNat (edge ((range s j).limit.toNat + 1) l)) [])
/-- Stretches between cut points: their places and lengths. -/
def stretches (o n : Nat) : List Nat → List (Nat × Nat)
  | [] => [(o, n - o)]
  | c :: cs => (o, c - o) :: stretches c n cs
/-- Whether n bytes of a target may be accessed (05 R105, 14 R254, R257). Engines also reach the V and ACC images of any core of the kernel. -/
def partOk (s : State) (eng : Bool) (n : Nat) : Target → Bool
  | .own off => spadOk s off n
  | .self off => spadOk s off n
  | .win c off =>
    if off + n ≤ spadSize then (eng || coreReaches s c) && spadOk s off n
    else eng && (off + n ≤ 0x160000 || (0x180000 ≤ off && off + n ≤ 0x1A0000)) && !(off < spadSize && s.kn.trapen && !s.f.handler)
  | .ia a => (a + n - 1) / 2 ^ 48 < 15
/-- The parts of n bytes; none is cause 0x10: a byte is not translated, or not by the step of the first one (14 R254). -/
def unitParts (s : State) (eng : Bool) (va : W64) (n : Nat) : Option (List Part) :=
  if 2 ^ 64 < va.toNat + n then none
  else
    let ts := (stretches 0 n (cutPoints s va n)).map fun (o, m) => (translate s (va + BitVec.ofNat 64 o)).map fun t => (⟨o, va + BitVec.ofNat 64 o, t, m⟩ : Part)
    let ps := ts.filterMap id
    if ts.any Option.isNone || ps.any (fun p => !partOk s eng p.len p.tgt || some p.tgt.step != ps.head?.map fun q => q.tgt.step) then none else some ps
/-- The target of n bytes that lie together. -/
def unitTarget (s : State) (eng : Bool) (va : W64) (n : Nat) : Option Target :=
  match unitParts s eng va n with
  | some (p :: ps) => if (p :: ps).all fun q => q.tgt.key = p.tgt.key + q.off then some p.tgt else none
  | _ => none
/-- The parts of a local access: every byte lies in the own scratchpad (05 R105). -/
def localParts (s : State) (va : W64) (n : Nat) : Option (List Part) :=
  if spadOk s va.toNat n then some [⟨0, va, .own va.toNat, n⟩] else none
def partsOf (s : State) (glb : Bool) (va : W64) (n : Nat) : Option (List Part) := if glb then unitParts s false va n else localParts s va n
def unitStep (ps : Option (List Part)) : Option Nat := ps.bind fun l => l.head?.map fun p => p.tgt.step
/-- The first of some units that is not translated by the step of the first of them (14 R254). -/
def rangeFault (parts : W64 → Option (List Part)) (vas : List W64) : Option W64 :=
  let step := vas.head?.bind fun a => unitStep (parts a)
  vas.find? fun a => (parts a).isNone || unitStep (parts a) != step
/-- The fault of an access before it reaches a home: range, then alignment (05 R107). -/
def accessFault (s : State) (glb : Bool) (n align : Nat) (vas : List W64) : Option (Nat × W64) :=
  match rangeFault (fun a => partsOf s glb a n) vas with
  | some a => some (0x10, a)
  | none => (vas.find? fun a => a.toNat % align != 0).map fun a => (0x11, a)
/-- The parts of an access of units of n bytes, with their places in its image. -/
def unitsOf (s : State) (glb : Bool) (n : Nat) (vas : List W64) : List Part :=
  vas.zipIdx.flatMap fun (a, i) => ((partsOf s glb a n).getD []).map fun p => { p with off := n * i + p.off }

/-! ### Requests to homes -/

def setPage (s : State) (p : Page) : State :=
  { s with m := { s.m with pages := s.m.pages.map fun q => if q.ia = p.ia then p else q } }
/-- A run cut where it crosses a 64 KiB boundary. -/
def cutRun (img a n : Nat) : List (Nat × Nat × Nat) :=
  let k := (a / 0x10000 + 1) * 0x10000 - a
  if n ≤ k then [(img, a, n)] else [(img, a, k), (img + k, a + k, n - k)]
/-- A run cut where it leaves its page. -/
def cutPage (s : State) (img a n : Nat) : List (Nat × Nat × Nat) :=
  match cutRun img a n with
  | [x, y] => if pageBase s x.2.1 = pageBase s y.2.1 then [(img, a, n)] else [x, y]
  | l => l
/-- The pages of some runs, in the order of their first runs. -/
def pagesOf (s : State) (rs : List (Nat × Nat × Nat)) : List Nat := (rs.map fun r => pageBase s r.2.1).eraseDups
def isWrite (op : ReqOp) : Bool := match op with | .store _ => true | .pads _ => true | .atomic .. => true | _ => false
/-- The request of some runs as it goes to another die: a store's bytes, or an atomic's operands, go with it. -/
def remoteReq (s : State) (r : Req) (rs : List (Nat × Nat × Nat)) (last : Bool) : RemoteReq :=
  { id := r.id, core := s.x.coreid, write := isWrite r.op, runs := rs.map Prod.snd, owner := r.owner
    bytes := match r.op with | .store d => rs.flatMap fun (i, _, n) => (d.drop i).take n | _ => []
    atom := match r.op with | .atomic op b old => some (op, b, old) | _ => none
    count := r.counts && last }
/-- Some runs in pieces of at most 128 bytes, or all in one where they perform together, with whether a piece is the last. -/
def flitPieces (whole : Bool) (rs : List (Nat × Nat × Nat)) : List (List (Nat × Nat × Nat) × Bool) :=
  let ps := if whole then [rs] else
    rs.flatMap fun (i, a, n) => (List.range ((n + 127) / 128)).map fun j => [(i + 128 * j, a + 128 * j, min 128 (n - 128 * j))]
  ps.zipIdx.map fun (p, j) => (p, j + 1 = ps.length)
/-- The way of a write of the host, or of an NVMe read: to the lowest-numbered die of the tenant's allotment in this package, over dimensions 0 to 2, and from that die to the home
(27 R424). -/
def hostWay (s : State) (owner : BitVec 16) (home : Coord) : BitVec 15 × Coord :=
  let inAllot (c : Coord) : Bool := s.c.tenants.any fun t => t.owner = owner && (t.base ^^^ c) &&& ~~~t.mask = 0
  let low := (((List.range 8).map fun n => dieOf s (BitVec.ofNat 3 n)).find? inAllot).getD s.l.coord
  if low = s.l.coord then (allotMask s owner, home) else (7, low)
/-- The flits of a request leave for its home by the port of its route (11 R211), as remote-memory traffic of this die (26 R419). -/
def sendRequest (s : State) (r : Req) : State :=
  let home := homeOfPage s r.page
  let way := match r.src with | .host _ => hostWay s r.owner home | .nvme _ => hostWay s r.owner home | _ => (allotMask s r.owner, home)
  if home = s.l.coord || (match r.op with | .xlt .. => true | _ => false) then s
  else (flitPieces r.whole r.runs).foldl (fun s (rs, last) => sendData s way.1 .memory way.2 (.request (remoteReq s r rs last))) s
def setStage (s : State) (id : Nat) (g : ReqStage) : State :=
  { s with m := { s.m with reqs := s.m.reqs.map fun r => if r.id = id then { r with stage := g } else r } }
/-- Held requests go toward their homes, those of one source in their order, up to the first whose home is not known (14 R266). -/
def sendHeld (s : State) (behind : List ReqSrc) : List Req → State
  | [] => s
  | r :: rs =>
    if r.stage != .held || behind.contains r.src then sendHeld s behind rs
    else if (lookupDie s.m.homeCache r.page).isNone then sendHeld s (r.src :: behind) rs
    else sendHeld (sendRequest (setStage s r.id .sent) r) behind rs
/-- A request joins the others of the core (14 R266). The last of a write toward a home counts for FLAG. -/
def addReq (s : State) (r : Req) : State :=
  let r := { r with id := s.m.nextReq, stage := .held, firm := s.f.handler }
  let s := { s with m := { s.m with reqs := s.m.reqs ++ [r], nextReq := s.m.nextReq + 1 } }
  let s := if r.src = .core && r.counts && isWrite r.op then countWrites s (homeOfPage s r.page) r.bsn 1 else s
  sendHeld s [] s.m.reqs
def removeReq (s : State) (id : Nat) : State :=
  { s with m := { s.m with reqs := s.m.reqs.filter fun r => r.id != id } }
/-- A run of an access whose bytes perform g at a time: what lies in places that it shares with other runs stands by itself. -/
def cutGrain (g : Nat) (r : Nat × Nat × Nat) : List (Nat × Nat × Nat) :=
  let (i, a, n) := r
  let h := min n ((g - i % g) % g)
  let t := if h = n then 0 else (i + n) % g
  [(i, a, h), (i + h, a + h, n - h - t), (i + n - t, a + n - t, t)].filter fun x => x.2.2 != 0
/-- A stretch of runs that one request carries, with its page, and whether they perform together: the parts of one place of g bytes. -/
structure Stretch where
  together : Bool
  page : Nat
  runs : List (Nat × Nat × Nat)
  deriving DecidableEq, Repr
/-- Whether a run joins the stretch behind it: runs that follow one another on one page, or the parts of one place. -/
def joins (g : Nat) (r : Nat × Nat × Nat) (p : Nat) (x : Stretch) : Bool :=
  if r.2.2 % g = 0 then !x.together && p = x.page else x.together && x.runs.any fun q => q.1 / g = r.1 / g
/-- The stretches of some runs, in their order. -/
def pageRuns (s : State) (g : Nat) : List (Nat × Nat × Nat) → List Stretch
  | [] => []
  | r :: rs =>
    let p := pageBase s r.2.1
    match pageRuns s g rs with
    | x :: xs => if joins g r p x then { x with page := p, runs := r :: x.runs } :: xs else ⟨r.2.2 % g != 0, p, [r]⟩ :: x :: xs
    | [] => [⟨r.2.2 % g != 0, p, [r]⟩]
/-- One request for each stretch: those toward one home perform in the order of the runs (05 R111). A scalar, an element or a sector of a contiguous vector that the
mapping cuts is asked whole of the home of its first byte: DESIGN CHOICE (log 29). -/
def sendStretches (s : State) (op : ReqOp) (vaOf : Nat → W64) : List Stretch → State
  | [] => s
  | x :: gs =>
    sendStretches (addReq s ⟨0, .core, s.f.cur.bsn, s.f.cur.pc, s.f.cur.k, op, x.page, x.runs, vaOf ((x.runs.map (·.1)).headD 0), s.kn.owner, .held, false,
      !gs.any fun g => homeOfPage s g.page = homeOfPage s x.page, false, x.together⟩) op vaOf gs
/-- The runs of a part that the range registers translate. -/
def iaRuns (s : State) (p : Part) : List (Nat × Nat × Nat) := match p.tgt with | .ia a => cutPage s p.off a p.len | _ => []
/-- The requests of one access of units of n bytes. -/
def sendReqs (s : State) (op : ReqOp) (n : Nat) (units : List Part) : State :=
  let runs := (units.flatMap (iaRuns s)).flatMap (cutGrain (min n 32))
  let vaOf (img : Nat) : W64 :=
    match units.find? fun u => u.off ≤ img && img < u.off + u.len with
    | some u => u.va + BitVec.ofNat 64 (img - u.off)
    | none => 0
  sendStretches s op vaOf (pageRuns s (min n 32) runs)

/-! ### Delivered values (07 R138) -/

/-- A value delivered by the executing slot; it lands by itself (INTERLOCKED_WRITE_LANDS). -/
def deliver (s : State) (file : File) (n : Nat) (val wm : Vec) (sticky : BitVec 4) : State :=
  { s with f := { s.f with deliver := s.f.deliver ++ [⟨file, n, s.f.cur.bsn, val, wm, true, sticky, queueOf s.f.cur.k⟩] } }
/-- A scalar value delivered to S[n]. -/
def deliverS (s : State) (n : Nat) (x : W64) : State :=
  deliver s .s n (x.zeroExtend 16384) (BitVec.ofNat 16384 (2 ^ 64 - 1)) 0
/-- The value of n loaded bytes, sign-extended from their width where sx is not 0. -/
def extendTo (sx x : Nat) : Nat := if sx = 0 then x else (sextN (8 * sx) x).toNat
/-- Whether an access of this core still has to perform that a store to a scratchpad or an atomic comes behind: a load, an atomic, and any
access to die-local memory (13 R239, R240). -/
def accessAhead (s : State) (r : Req) : Bool :=
  r.src = .core && (!(match r.op with | .store _ => true | _ => false) || homeOfPage s r.page = s.l.coord)
def accessesAhead (s : State) : Bool := s.m.reqs.any (accessAhead s)
/-- Whether an access of an earlier bundle still has to perform that a load of a scratchpad comes behind: one of die-local memory, or an atomic (05 R120,
13 R239). -/
def loadWaits (s : State) : Bool :=
  s.m.reqs.any fun r => r.src = .core && r.bsn < s.f.cur.bsn &&
    (homeOfPage s r.page = s.l.coord || match r.op with | .atomic .. => true | _ => false)
/-- Whether the executing slot is the last of its bundle to issue (13 R241): no other queue holds its bundle or an earlier one. -/
def othersIssued (s : State) : Bool :=
  allQueues.all fun q => q = .mem || (getQ s q).all fun e => s.f.cur.bsn < e.bsn
/-- Every remote write of this core has been acknowledged (09 R187, 13 R237). -/
def remoteAcked (s : State) : Bool :=
  s.f.unacked.isEmpty && !s.m.reqs.any fun r => r.src = .core && isWrite r.op

/-! ### Loads -/

/-- The bytes of an access to scratchpads, as a number. -/
def gatherBytes (s : State) (units : List Part) : Nat :=
  units.foldl (fun x p => x + leNat (seenBytes s p.tgt.key p.len) <<< (8 * p.off)) 0
def isIa (t : Target) : Bool := match t with | .ia _ => true | _ => false
/-- The part whose bytes hold an uncorrectable error, if any (08 R165). FADDR names the start of the part, where an engine's record names the byte: 08 R153 says only
'the faulting virtual address': DESIGN CHOICE (log 29). -/
def badUnit (units : List Part) (s : State) : Option W64 :=
  units.findSome? fun p => if isIa p.tgt then none else (badSeen s p.tgt.key p.len).map fun _ => p.va
/-- Whether any line read is empty (05 R113). -/
def anyEmpty (s : State) (units : List Part) : Bool :=
  !s.m.empties.isEmpty && units.any fun p => (List.range p.len).any fun i => waitsOn s (p.tgt.key + i)
/-- A load of units of n bytes into a register, with the bits that it writes; `sx` is the width that a scalar load extends,
and `s0` the state before the generator stepped, to which a load that waits on an empty line goes back. -/
def doLoad (o : MEM) (file : File) (vas : List W64) (n align sx : Nat) (wm : Vec) (s0 s : State) : Out :=
  let d := o.d.toNat
  if vas.isEmpty then .next (clearPending (if file = .s then fillCaptures s d s.f.cur.bsn (sreg s d) else s) file d s.f.cur.bsn)
  else match accessFault s o.glb n align vas with
    | some (c, a) => .next (raiseR s c 0 a)
    | none =>
      let us := unitsOf s o.glb n vas
      let s := endWait s s.f.cur.k s.f.cur.bsn
      if !o.nowait && anyEmpty s us then hold (startWait s0)
      else if (badUnit us s).isSome then .next (raiseR s 0x16 0 ((badUnit us s).getD 0))
      else if us.any fun u => isIa u.tgt then
        let t := sendReqs s .load n us
        let k := t.m.nextReq - s.m.nextReq
        .next { t with m := { t.m with accs := t.m.accs ++ [⟨s.f.cur.bsn, s.f.cur.k, file, d, 0, wm, k, sx, true⟩] } }
      else if loadWaits s then stall s
      else .next (deliver s file d (BitVec.ofNat 16384 (extendTo sx (gatherBytes s us))) wm 0)

/-! ### Stores -/

/-- The bytes of one part. -/
def unitBytes (data : List Byte) (p : Part) : List Byte := (data.drop p.off).take p.len
/-- The store that waits in the gate. -/
def gateStore (s : State) (key : Nat) (bs : List Byte) : State :=
  { s with f := { s.f with gate := s.f.gate ++ [⟨key, bs, s.f.cur.bsn⟩] } }
/-- Whether a store performs at issue: a global one, any of a handler (08 R160), and one that alone exceeds the gate (05 R122). -/
def storesNow (s : State) (glb : Bool) (reserve : Nat) : Bool :=
  glb || s.f.handler || s.kn.gateKb * 1024 < reserve
/-- The pieces in which a store performs in scratchpads: an element, or the bytes of a sector of a contiguous vector (05 R111, 13 R248). -/
def padPieces (us : List Part) : List (Nat × Nat × Nat) :=
  us.flatMap fun p => (List.range ((p.off + p.len - 1) / 32 - p.off / 32 + 1)).map fun j =>
    let lo := max p.off (32 * (p.off / 32 + j))
    (lo, p.tgt.key + (lo - p.off), min (p.off + p.len) (32 * (p.off / 32 + j + 1)) - lo)
/-- No page: that of the requests of a store to scratchpads. -/
def noPage : Nat := 2 ^ 52
/-- A store performs in scratchpads: at once where it is one piece, else piece after piece. -/
def storePads (s : State) (us : List Part) (data : List Byte) : State :=
  match padPieces us with
  | [] => s
  | [(i, k, n)] => countWrites (performStore s k ((data.drop i).take n)) s.l.coord s.f.cur.bsn 1
  | rs => countWrites { s with m := { s.m with nextReq := s.m.nextReq + 1, reqs := s.m.reqs ++
      [⟨s.m.nextReq, .core, s.f.cur.bsn, s.f.cur.pc, s.f.cur.k, .pads data, noPage, rs, 0, s.kn.owner, .checked, true, true, true, false⟩] } }
      s.l.coord s.f.cur.bsn 1
/-- A store of units of n bytes, in ascending order of the units (05 R111). One that performs in a scratchpad comes behind the loads of its own and
earlier bundles (05 R112, 13 R239, R240), and one that a rollback could repeat behind every other slot of its bundle (13 R241). -/
def doStore (o : MEM) (vas : List W64) (n align reserve : Nat) (data : List Byte) (s : State) : Out :=
  match accessFault s o.glb n align vas with
  | some (c, a) => .next (raiseR s c 0 a)
  | none =>
    let us := unitsOf s o.glb n vas
    let gateAll (s : State) : State := us.foldl (fun s p => gateStore s p.tgt.key (unitBytes data p)) s
    if !storesNow s o.glb reserve then .next (gateAll s)
    else if o.glb && s.f.ahead.isSome then .next (gateAll (sendReqs s .check n us))
    else if (o.glb || !s.f.handler) && !othersIssued s then stall s
    else
      let ias := us.filter fun u => isIa u.tgt
      let pads := us.filter fun u => !isIa u.tgt
      if !pads.isEmpty && (accessesAhead s || pads.any fun p => flagAhead s s.f.cur.bsn p.tgt.key p.len) then stall s
      else
        .next (sendReqs (storePads s pads data) (.store data) n ias)

/-! ### Addresses of the MODEs (05 R103) -/

/-- MODE 0 or 1: one unit for a scalar access and for a contiguous vector, 512 for a generator's vector. -/
def memAddrs (o : MEM) (vec : Bool) (s : State) : List W64 × State :=
  if o.modeN = 0 then ([opS s o.base.toNat + o.off.signExtend 64], s)
  else genAddrs s o.base.toNat (if vec then 512 else 1)
/-- The bytes and the alignment of each unit of a vector access (05 R106). -/
def vecUnit (o : MEM) : Nat := if o.modeN = 0 then 2048 else 4
def vecAlign (o : MEM) : Nat := if o.modeN = 0 then 64 else 4
/-- MODE 2: n elements at S[BASE] + 4 × V[m] (05 R103, R110). -/
def idxAddrs (o : MEM) (s : State) : List W64 :=
  let n := if o.sc = 0 then 512 else min (opS s o.sc).toNat 512
  let v := srcV s o.vm
  (List.range n).map fun i => opS s o.base.toNat + BitVec.ofNat 64 (4 * lane v 32 i)

end Sys2Proof.Machine
end

