-- ==== Sys2Proof/Machine/Scalar.lean ====
section
/-! DEFINITION. The scalar slot's arithmetic, compares and predicate logic (03 R65 to R69, R84). -/

namespace Sys2Proof.Machine

/-- A scalar operation of either width (03 R65): under `.i32` on the low halves, the result sign-extended. -/
def alu (ef : Nat) (op : (w : Nat) → BitVec w → BitVec w → BitVec w) (a b : W64) : W64 :=
  if ef = 8 then ((op 32 (a.truncate 32) (b.truncate 32)).signExtend 64) else op 64 a b

def opMulh (w : Nat) (a b : BitVec w) : BitVec w :=
  ((a.signExtend (2 * w)) * (b.signExtend (2 * w))).extractLsb' w w
/-- Division (03 R66): by zero −1; the most negative value by −1 is itself. -/
def opDiv (w : Nat) (a b : BitVec w) : BitVec w := if b = 0 then BitVec.allOnes w else a.sdiv b
def opDivu (w : Nat) (a b : BitVec w) : BitVec w := if b = 0 then BitVec.allOnes w else a.udiv b
def opRem (w : Nat) (a b : BitVec w) : BitVec w := if b = 0 then a else a.srem b
def opRemu (w : Nat) (a b : BitVec w) : BitVec w := if b = 0 then a else a.umod b
def opMin (w : Nat) (a b : BitVec w) : BitVec w := if a.slt b then a else b
def opMax (w : Nat) (a b : BitVec w) : BitVec w := if a.slt b then b else a
def opMinu (w : Nat) (a b : BitVec w) : BitVec w := if a.ult b then a else b
def opMaxu (w : Nat) (a b : BitVec w) : BitVec w := if a.ult b then b else a
def opAbs (w : Nat) (a _ : BitVec w) : BitVec w := if a.msb then -a else a
def opShl (w : Nat) (a b : BitVec w) : BitVec w := a <<< (b.toNat % w)
def opShr (w : Nat) (a b : BitVec w) : BitVec w := a >>> (b.toNat % w)
def opSar (w : Nat) (a b : BitVec w) : BitVec w := a.sshiftRight (b.toNat % w)
def opRol (w : Nat) (a b : BitVec w) : BitVec w := a.rotateLeft (b.toNat % w)
def opClz (w : Nat) (a _ : BitVec w) : BitVec w :=
  if a = 0 then BitVec.ofNat w w else BitVec.ofNat w (w - 1 - Nat.log2 a.toNat)
/-- Trailing zeros of a number, at most n. -/
def ctzN : Nat → Nat → Nat
  | 0, _ => 0
  | n + 1, x => if x % 2 = 1 then 0 else 1 + ctzN n (x / 2)
/-- One bits among the low n. -/
def popN : Nat → Nat → Nat
  | 0, _ => 0
  | n + 1, x => x % 2 + popN n (x / 2)
def opCtz (w : Nat) (a _ : BitVec w) : BitVec w := BitVec.ofNat w (ctzN w a.toNat)
def opPopc (w : Nat) (a _ : BitVec w) : BitVec w := BitVec.ofNat w (popN w a.toNat)
/-- n bytes in reverse order. -/
def revBytes : Nat → Nat → Nat
  | 0, _ => 0
  | n + 1, x => x % 256 * 2 ^ (8 * n) + revBytes n (x / 256)
def opBswap (w : Nat) (a _ : BitVec w) : BitVec w := BitVec.ofNat w (revBytes (w / 8) a.toNat)

/-- The field descriptor of EXT and DEP (03 R65): position and mask. -/
def fieldPos (b : W64) : Nat := fieldN b 5 0
def fieldMask (b : W64) : W64 := BitVec.ofNat 64 (2 ^ (Nat.min (fieldN b 14 8) (64 - fieldPos b)) - 1)

/-- S[D] := a value of the operands, where q is true. -/
def toS (s : State) (d : BitVec 8) (x : W64) : Out := ifQ s fun s => setS s d.toNat x
/-- An ALU instruction of two sources (03 R65). -/
def aluExec (o : RRR) (op : (w : Nat) → BitVec w → BitVec w → BitVec w) (s : State) : Out :=
  toS s o.d (alu o.ef op (opS s o.a.toNat) (opS s o.b.toNat))
/-- An ALU instruction of one source. -/
def aluExec1 (o : RRR) (op : (w : Nat) → BitVec w → BitVec w → BitVec w) (s : State) : Out :=
  toS s o.d (alu o.ef op (opS s o.a.toNat) 0)

/-- NOP (01 R18). -/
def execNop (s : State) : Out := .next s
/-- MOVI (03 R67). -/
def execMovi (o : RI) (s : State) : Out := toS s o.d (sextN 40 o.imm.toNat)
/-- MOVHI (03 R67). -/
def execMovhi (o : RRI) (s : State) : Out :=
  toS s o.d ((opS s o.a.toNat &&& 0xFFFFFFFF) ||| (o.imm.zeroExtend 64 <<< 32))
def execAdd (o : RRR) (s : State) : Out := aluExec o (fun _ a b => a + b) s
def execSub (o : RRR) (s : State) : Out := aluExec o (fun _ a b => a - b) s
def execMul (o : RRR) (s : State) : Out := aluExec o (fun _ a b => a * b) s
def execMulh (o : RRR) (s : State) : Out := aluExec o opMulh s
def execDiv (o : RRR) (s : State) : Out := aluExec o opDiv s
def execDivu (o : RRR) (s : State) : Out := aluExec o opDivu s
def execRem (o : RRR) (s : State) : Out := aluExec o opRem s
def execRemu (o : RRR) (s : State) : Out := aluExec o opRemu s
def execMin (o : RRR) (s : State) : Out := aluExec o opMin s
def execMax (o : RRR) (s : State) : Out := aluExec o opMax s
def execMinu (o : RRR) (s : State) : Out := aluExec o opMinu s
def execMaxu (o : RRR) (s : State) : Out := aluExec o opMaxu s
/-- SEL (03 R65): P[C] is read under 01 R16. -/
def execSel (o : RRR) (s : State) : Out :=
  toS s o.d (if preg s o.c.toNat then opS s o.a.toNat else opS s o.b.toNat)
def execAbs (o : RRR) (s : State) : Out := aluExec1 o opAbs s
def execAnd (o : RRR) (s : State) : Out := aluExec o (fun _ a b => a &&& b) s
def execOr (o : RRR) (s : State) : Out := aluExec o (fun _ a b => a ||| b) s
def execXor (o : RRR) (s : State) : Out := aluExec o (fun _ a b => a ^^^ b) s
def execAndn (o : RRR) (s : State) : Out := aluExec o (fun _ a b => a &&& ~~~b) s
def execShl (o : RRR) (s : State) : Out := aluExec o opShl s
def execShr (o : RRR) (s : State) : Out := aluExec o opShr s
def execSar (o : RRR) (s : State) : Out := aluExec o opSar s
def execRol (o : RRR) (s : State) : Out := aluExec o opRol s
def execClz (o : RRR) (s : State) : Out := aluExec1 o opClz s
def execCtz (o : RRR) (s : State) : Out := aluExec1 o opCtz s
def execPopc (o : RRR) (s : State) : Out := aluExec1 o opPopc s
def execBswap (o : RRR) (s : State) : Out := aluExec1 o opBswap s
def execExt (o : RRR) (s : State) : Out :=
  let b := opS s o.b.toNat
  toS s o.d ((opS s o.a.toNat >>> fieldPos b) &&& fieldMask b)
def execDep (o : RRR) (s : State) : Out :=
  let b := opS s o.b.toNat
  toS s o.d ((opS s o.a.toNat &&& ~~~(fieldMask b <<< fieldPos b)) ||| ((opS s o.c.toNat &&& fieldMask b) <<< fieldPos b))
/-- SHADD (03 R65): n is XOP. -/
def execShadd (o : RRR) (s : State) : Out := aluExec o (fun _ a b => (a <<< o.xop) + b) s

def execAddi (o : RRI) (s : State) : Out := toS s o.d (opS s o.a.toNat + o.imm.signExtend 64)
def execMuli (o : RRI) (s : State) : Out := toS s o.d (opS s o.a.toNat * o.imm.signExtend 64)
def execAndi (o : RRI) (s : State) : Out := toS s o.d (opS s o.a.toNat &&& o.imm.zeroExtend 64)
def execOri (o : RRI) (s : State) : Out := toS s o.d (opS s o.a.toNat ||| o.imm.zeroExtend 64)
def execXori (o : RRI) (s : State) : Out := toS s o.d (opS s o.a.toNat ^^^ o.imm.zeroExtend 64)
def execShli (o : RRI) (s : State) : Out := toS s o.d (opS s o.a.toNat <<< fieldN o.imm 5 0)
def execShri (o : RRI) (s : State) : Out := toS s o.d (opS s o.a.toNat >>> fieldN o.imm 5 0)
def execSari (o : RRI) (s : State) : Out := toS s o.d ((opS s o.a.toNat).sshiftRight (fieldN o.imm 5 0))

/-- CMP and CMPU (03 R68). -/
def execCmp (o : CMPF) (s : State) : Out :=
  .next (compare s o.pd1 o.pd2 o.ct (scalarCond o.cond.toNat true (opS s o.a.toNat) (opS s o.b.toNat)))
def execCmpu (o : CMPF) (s : State) : Out :=
  .next (compare s o.pd1 o.pd2 o.ct (scalarCond o.cond.toNat false (opS s o.a.toNat) (opS s o.b.toNat)))
/-- CMPI and CMPUI: the immediate is sign-extended for both orders (03 R68). -/
def execCmpi (o : CMPI) (s : State) : Out :=
  .next (compare s o.pd1 o.pd2 o.ct (scalarCond o.cond.toNat true (opS s o.a.toNat) (sextN 21 o.imm.toNat)))
def execCmpui (o : CMPI) (s : State) : Out :=
  .next (compare s o.pd1 o.pd2 o.ct (scalarCond o.cond.toNat false (opS s o.a.toNat) (sextN 21 o.imm.toNat)))

/-- P[D] := a value of P[A] and P[B], where q is true (03 R69). -/
def toP (s : State) (d : BitVec 8) (x : Bool) : Out := ifQ s fun s => setP s d.toNat x
def execPand (o : RRR) (s : State) : Out := toP s o.d (preg s o.a.toNat && preg s o.b.toNat)
def execPor (o : RRR) (s : State) : Out := toP s o.d (preg s o.a.toNat || preg s o.b.toNat)
def execPxor (o : RRR) (s : State) : Out := toP s o.d (preg s o.a.toNat != preg s o.b.toNat)
def execPandn (o : RRR) (s : State) : Out := toP s o.d (preg s o.a.toNat && !preg s o.b.toNat)
/-- P1 to P63 from the bits of a scalar, under a mask (03 R69). -/
def movePreds (a b : W64) (s : State) : State :=
  (List.range 63).foldl (fun s k => if b.getLsbD (k + 1) then setP s (k + 1) (a.getLsbD (k + 1)) else s) s
def execMovsp (o : RRR) (s : State) : Out := ifQ s (movePreds (opS s o.a.toNat) (opS s o.b.toNat))
/-- The predicate file as a word; bit 0 reads 1 (03 R69). -/
def predWord (s : State) : W64 := s.r.p ||| 1
def execMovps (o : RRR) (s : State) : Out := toS s o.d (predWord s)

/-! ### Loss scaling (03 R83, R84) -/

/-- EMAX, EMIN and N of LSCFG. -/
def lsEmax (x : BitVec 48) : Nat := fieldN x 47 40
def lsEmin (x : BitVec 48) : Nat := fieldN x 39 32
def lsN (x : BitVec 48) : Nat := fieldN x 31 0
/-- The step of LSCALE: the new exponent, the new count, whether LSMIN is set. -/
def lscaleStep (cfg : BitVec 48) (e0 cnt : Nat) (ov : Bool) : Nat × Nat × Bool :=
  let lo := lsEmin cfg
  let hi := max (lsEmax cfg) lo
  let e := min (max e0 lo) hi
  if ov then (if lo < e then (e - 1, 0, false) else (e, 0, true))
  else if lsN cfg = 0 then (e, min (cnt + 1) (2 ^ 32 - 1), false)
  else
    let c := min (cnt + 1) (lsN cfg)
    if c = lsN cfg && e < hi then (e + 1, 0, false) else (e, c, false)
/-- The binary32 image of 2^(e − 127). -/
def lsScale (e : Nat) : W64 := BitVec.ofNat 64 (if e = 0 then 0x00400000 else e * 2 ^ 23)
/-- LSCALE (03 R84). -/
def execLscale (o : RRR) (s : State) : Out :=
  ifQ s fun s =>
    let ov := preg s o.a.toNat
    let r := lscaleStep s.x.lscfg s.x.lsscl.toNat s.x.lscnt.toNat ov
    let t := setLsscl (setLscnt s (BitVec.ofNat 32 r.2.1)) (BitVec.ofNat 8 r.1)
    let t := if r.2.2 then setStky t (t.x.stky ||| stkyLsmin) else t
    setS (setP t o.d.toNat ov) o.b.toNat (lsScale r.1)

end Sys2Proof.Machine
end

