-- ==== Sys2Proof/Machine/Control.lean ====
section
/-! DEFINITION. Special registers, generators, bobbins, branches and loops of the scalar slot (03 R70 to R82, 23 R371). -/

namespace Sys2Proof.Machine

/-! ### Special registers (02 R41, R42) -/

/-- The access of a special register (01 R11): 0 RO, 1 RW, 2 W1C, 3 RW-P, 4 RO-P. -/
def srAccess (n : Nat) : Nat :=
  if n = 0x00A then 2
  else if n = 0x010 || n = 0x011 || n = 0x012 then 1
  else if n = 0x028 || n = 0x02B then 4
  else if n < 0x009 then 0
  else 3
/-- LCOORD, computed from DIMMAP at each read (11 R204). -/
def dimField (s : State) (l : Nat) : Nat := fieldN s.x.dimmap (4 * l + 3) (4 * l)
def lcoordOf (s : State) (c : Coord) : Nat :=
  packN 1 (fun i => if i < s.x.kndim && c.getLsbD (dimField s i) then 1 else 0) 15
def lcoord (s : State) : Nat := lcoordOf s s.l.coord
/-- The value of a special register. -/
def readSR (s : State) (n : Nat) : W64 :=
  match n with
  | 0x000 => s.tick
  | 0x001 => s.x.coreid.zeroExtend 64
  | 0x002 => BitVec.ofNat 64 (lcoord s)
  | 0x003 => BitVec.ofNat 64 s.x.kndim
  | 0x008 => s.x.fmtr.zeroExtend 64
  | 0x009 => s.x.perm.zeroExtend 64
  | 0x00A => s.x.stky.zeroExtend 64
  | 0x010 => s.x.lsscl.zeroExtend 64
  | 0x011 => s.x.lscnt.zeroExtend 64
  | 0x012 => s.x.lscfg.zeroExtend 64
  | 0x018 => s.x.wdog
  | 0x019 => s.x.cbto.zeroExtend 64
  | 0x020 => s.x.subm.zeroExtend 64
  | 0x021 => s.x.dimmap.zeroExtend 64
  | 0x028 => s.x.tcause
  | 0x029 => if s.kn.trapen then BitVec.ofNat 64 (leNat (readBytes s.m.cells (trapBase + 8) 8)) else 0
  | 0x02A => s.x.tvec
  | 0x02B => s.x.tfb
  | n =>
    if n < 0x050 then (range s (n - 0x040)).base
    else if n < 0x060 then (range s (n - 0x050)).limit
    else (range s (n - 0x060)).off.zeroExtend 64
/-- EMIN and EMAX store min(value, 254) (03 R70). -/
def clampCfg (x : W64) : BitVec 48 :=
  BitVec.ofNat 48 (min (fieldN x 47 40) 254 * 2 ^ 40 + min (fieldN x 39 32) 254 * 2 ^ 32 + fieldN x 31 0)
/-- A permitted write of a special register (03 R70, 01 R11). LSSCL clamps all 64 bits of S[A]: DESIGN CHOICE (log 26). -/
def writeSR (s : State) (n : Nat) (v : W64) : State :=
  match n with
  | 0x009 => { s with x := { s.x with perm := v.truncate 2 } }
  | 0x00A => setStky s (s.x.stky &&& ~~~(v.truncate 4))
  | 0x010 => setLsscl s (BitVec.ofNat 8 (min v.toNat 254))
  | 0x011 => setLscnt s (v.truncate 32)
  | 0x012 => { s with x := { s.x with lscfg := clampCfg v } }
  | 0x018 => { s with x := { s.x with wdog := v } }
  | 0x019 => { s with x := { s.x with cbto := v.truncate 32 } }
  | 0x020 => { s with x := { s.x with subm := v.truncate 15 } }
  | 0x021 => { s with x := { s.x with dimmap := v.truncate 60 } }
  | 0x029 => putBytes s (trapBase + 8) (bytesLE v.toNat 8)
  | 0x02A => { s with x := { s.x with tvec := v } }
  | n =>
    if 0x040 ≤ n && n < 0x050 then setRange s (n - 0x040) { range s (n - 0x040) with base := v }
    else if 0x050 ≤ n && n < 0x060 then setRange s (n - 0x050) { range s (n - 0x050) with limit := v }
    else if 0x060 ≤ n && n < 0x070 then setRange s (n - 0x060) { range s (n - 0x060) with off := v.truncate 52 }
    else s
/-- MFSR (03 R70): a kernel-mode read of an RO-P register raises 0x02 (02 R41). -/
def execMfsr (o : RRI) (s : State) : Out :=
  ifQ s fun s =>
    let n := fieldN o.imm 11 0
    if srAccess n = 4 && !s.f.handler then raiseD s 0x02 0 0 else setS s o.d.toNat (readSR s n)
/-- MTSR (03 R70): a kernel-mode write of an RW-P or RO-P register raises 0x02; a write of an RO register is ignored (02 R41). -/
def execMtsr (o : RRI) (s : State) : Out :=
  ifQ s fun s =>
    let n := fieldN o.imm 11 0
    if (srAccess n = 3 || srAccess n = 4) && !s.f.handler then raiseD s 0x02 0 0
    else if srAccess n = 0 || srAccess n = 4 then s
    else writeSR s n (opS s o.a.toNat)

/-! ### Address generators (03 R71) -/

def genField (g : Gen) (f : Nat) : W64 :=
  match f with
  | 0 => g.base
  | 1 => (g.stride.get 0).signExtend 64 | 2 => (g.stride.get 1).signExtend 64
  | 3 => (g.stride.get 2).signExtend 64 | 4 => (g.stride.get 3).signExtend 64
  | 5 => (g.extent.get 0).zeroExtend 64 | 6 => (g.extent.get 1).zeroExtend 64
  | 7 => (g.extent.get 2).zeroExtend 64 | 8 => (g.extent.get 3).zeroExtend 64
  | _ => g.dir.zeroExtend 64
/-- The generator with one field written and its running indices at 0. -/
def genWrite (g : Gen) (f : Nat) (v : W64) : Gen :=
  let g := { g with idx := .all 0 }
  if f = 0 then { g with base := v }
  else if f ≤ 4 then { g with stride := g.stride.set (f - 1) (v.truncate 32) }
  else if f ≤ 8 then { g with extent := g.extent.set (f - 5) (v.truncate 24) }
  else { g with dir := v.truncate 4 }
def execMtag (o : RRR) (s : State) : Out :=
  ifQ s fun s => setGen s o.d.toNat (genWrite (gen s o.d.toNat) o.xop (opS s o.a.toNat))
def execMfag (o : RRR) (s : State) : Out := toS s o.d (genField (gen s o.a.toNat) o.xop)

/-! ### Bobbins (03 R72) -/

def bobField (b : Bobbin) (f : Nat) : W64 :=
  match f with
  | 0 => b.base.zeroExtend 64
  | 1 => BitVec.ofNat 64 b.slot
  | 2 => BitVec.ofNat 64 b.count
  | 3 => BitVec.ofNat 64 b.free
  | _ => BitVec.ofNat 64 b.filled
/-- A value clamped to a range. -/
def clampN (lo hi x : Nat) : Nat := min (max x lo) hi
/-- BASE keeps bits 19:7; SLOT and COUNT are clamped; RESET fills FREE and empties FILLED, with both slot pointers at 0 and no
acquisition unreleased; on an unconfigured bobbin both counters become 0 (05 R115). The clamps take S[A] as the signed number that it holds (15 R276),
so a negative one gives 1, and RESET voids the acquisitions that are not released: DESIGN CHOICE (log 26). -/
def bobWrite (b : Bobbin) (f : Nat) (v : W64) : Bobbin :=
  match f with
  | 0 => { b with base := v.truncate 20 &&& 0xFFF80 }
  | 1 => { b with slot := clampN 1 64 v.toInt.toNat }
  | 2 => { b with count := clampN 1 256 v.toInt.toNat }
  | _ => { b with free := if b.slot = 0 then 0 else b.count, filled := 0, cons := 0, prod := 0, consHeld := 0, prodHeld := 0 }
def execMtbb (o : RRR) (s : State) : Out :=
  ifQ s fun s => setBB s o.d.toNat (bobWrite (bobbin s o.d.toNat) o.xop (opS s o.a.toNat))
def execMfbb (o : RRR) (s : State) : Out := toS s o.d (bobField (bobbin s o.a.toNat) o.xop)

/-! ### Control transfer (03 R73, R74) -/

def goto (s : State) (t : W64) : State := setAct s (.goto t)
def execBr (o : BRN) (s : State) : Out := ifQ s fun s => goto s (s.f.cur.pc + o.disp)
def execCall (o : BRN) (s : State) : Out :=
  ifQ s fun s => goto (setS s o.a.toNat (s.f.cur.pc + 64)) (s.f.cur.pc + o.disp)
/-- JMPR jumps through the old value of S[A]. -/
def execJmpr (o : RRR) (s : State) : Out :=
  ifQ s fun s => goto (setS s o.d.toNat (s.f.cur.pc + 64)) (bundleOf (opS s o.a.toNat))
/-- RET through a register that holds zero ends the kernel (03 R74). -/
def execRet (o : RRR) (s : State) : Out :=
  ifQ s fun s => if opS s o.a.toNat = 0 then setAct s .exit else goto s (bundleOf (opS s o.a.toNat))

/-! ### Hardware loops (03 R75 to R79) -/

/-- A level of the loop stack, where it is active. -/
def levelAt (ls : List Loop) (k : Nat) : Option Loop := ls[k]?.bind fun l => if l.active then some l else none
/-- Whether all six levels are active. -/
def loopsFull (ls : List Loop) : Bool := 6 ≤ (ls.filter Loop.active).length
/-- LOOP (03 R76). -/
def execLoop (o : BRN) (s : State) : Out :=
  ifQ s fun s =>
    let pc := s.f.cur.pc
    let n := opS s o.a.toNat
    if loopsFull s.r.loops || s.r.loops.any (fun l => l.active && l.stop = pc) then raiseD s 0x04 0 0
    else if n = 0 then goto s (pc + o.disp + 64)
    else setLoops s ((⟨n, 0, pc + 64, pc + o.disp, true⟩ :: s.r.loops).take 6)
/-- BRK (03 R78): pops L0 to Lk and leaves past the END of Lk. -/
def execBrk (o : RI) (s : State) : Out :=
  ifQ s fun s =>
    match levelAt s.r.loops o.d.toNat with
    | none => raiseD s 0x04 0 0
    | some l => goto (setLoops s (s.r.loops.drop (o.d.toNat + 1))) (bundleOf l.stop + 64)
/-- RDLI (03 R79). -/
def execRdli (o : RRR) (s : State) : Out :=
  toS s o.d (match levelAt s.r.loops o.a.toNat with | none => 0 | some l => l.index)
/-- The end check of 03 R77 at a bundle: the loops after it, and the back-edge or exit taken, if any. -/
def endCheck (pc : W64) : List Loop → List Loop × Option W64
  | [] => ([], none)
  | l :: ls =>
    if l.active && l.stop = pc then
      if l.index.toNat + 1 < l.count.toNat then ({ l with index := l.index + 1 } :: ls, some (bundleOf l.start))
      else
        let r := endCheck pc ls
        (r.1, some (r.2.getD (pc + 64)))
    else (l :: ls, none)

/-! ### Yield, trap and return (03 R80 to R82) -/

def execYield (s : State) : Out := ifQ s fun s => setAct s .yield
/-- TRAP raises 0x03 after its bundle (03 R81). -/
def execTrap (o : RI) (s : State) : Out := ifQ s fun s => setAct s (.softTrap (fieldN o.imm 15 0))
/-- ERET outside a handler raises 0x02 (03 R82). -/
def execEret (s : State) : Out := ifQ s fun s => if s.f.handler then setAct s .eret else raiseD s 0x02 0 0

/-! ### BKT (23 R371) -/

/-- The first boundary not below the count: its value and its number. -/
def bktFind (s : State) (b : Nat) (c : W64) (n : Nat) : Option (Nat × Nat) :=
  ((List.range n).map fun q => (laneN (opS s (b + q / 4)).toNat 16 (q % 4), q)).find? fun p => c.toNat ≤ p.1
def execBkt (o : RRR) (s : State) : Out :=
  ifQ s fun s =>
    let c := opS s o.a.toNat
    let n := o.xop + 1
    match bktFind s o.b.toNat c n with
    | some (v, q) => goto (setS s o.d.toNat (BitVec.ofNat 64 v)) (s.f.cur.pc + BitVec.ofNat 64 (64 * (1 + q)))
    | none =>
      goto (setStky (setS s o.d.toNat c) (s.x.stky ||| stkyBktovf)) (s.f.cur.pc + BitVec.ofNat 64 (64 * (1 + n)))

end Sys2Proof.Machine
end

