-- ==== Sys2Proof/Machine/LoadStore.lean ====
section
/-! DEFINITION. The memory queue: loads, stores, atomics, bobbins, XLT, TOPK and CLRF (05, 23 R366, R367), and the landing
of delivered values. -/

namespace Sys2Proof.Machine

/-! ### Loads (05 R109, R110) -/

/-- A scalar load of w bytes, sign-extended if sx says so. -/
def loadS (o : MEM) (w : Nat) (signed : Bool) (s : State) : Out :=
  if !s.f.cur.q then .next s
  else
    let r := memAddrs o false s
    doLoad o .s r.1 w w (if signed then w else 0) (BitVec.ofNat 16384 (2 ^ 64 - 1)) s r.2
def execLdB (o : MEM) (s : State) : Out := loadS o 1 false s
def execLdH (o : MEM) (s : State) : Out := loadS o 2 false s
def execLdW (o : MEM) (s : State) : Out := loadS o 4 false s
def execLdD (o : MEM) (s : State) : Out := loadS o 8 false s
def execLdBs (o : MEM) (s : State) : Out := loadS o 1 true s
def execLdHs (o : MEM) (s : State) : Out := loadS o 2 true s
def execLdWs (o : MEM) (s : State) : Out := loadS o 4 true s
def execLdV (o : MEM) (s : State) : Out :=
  if !s.f.cur.q then .next s
  else
    let r := memAddrs o true s
    doLoad o .v r.1 (vecUnit o) (vecAlign o) 0 (BitVec.allOnes 16384) s r.2
/-- LDG leaves the elements from n upward unchanged (05 R110). -/
def execLdg (o : MEM) (s : State) : Out :=
  if !s.f.cur.q then .next s
  else
    let as := idxAddrs o s
    doLoad o .v as 4 4 0 (BitVec.ofNat 16384 (2 ^ (32 * as.length) - 1)) s (spendMix s)

/-! ### Stores (05 R109 to R111) -/

def storeS (o : MEM) (w : Nat) (s : State) : Out :=
  if !s.f.cur.q then .next s
  else
    let r := memAddrs o false s
    doStore o r.1 w w w (bytesLE (opS s o.d.toNat).toNat w) r.2
def execStB (o : MEM) (s : State) : Out := storeS o 1 s
def execStH (o : MEM) (s : State) : Out := storeS o 2 s
def execStW (o : MEM) (s : State) : Out := storeS o 4 s
def execStD (o : MEM) (s : State) : Out := storeS o 8 s
def execStV (o : MEM) (s : State) : Out :=
  if !s.f.cur.q then .next s
  else
    let r := memAddrs o true s
    doStore o r.1 (vecUnit o) (vecAlign o) 2048 (vecBytes (srcV s o.d.toNat)) (spendMix r.2)
def execSts (o : MEM) (s : State) : Out :=
  if !s.f.cur.q then .next s
  else doStore o (idxAddrs o s) 4 4 2048 (vecBytes (srcV s o.d.toNat)) (spendMix s)
/-- MARK acts at dispatch, where its mark is placed (05 R122); its issue does nothing. -/
def execMark (s : State) : Out := .next s
/-- CLRF (05 R114). Its count is signed (15 R276), and a negative one does nothing, as 0 does: DESIGN CHOICE (log 26). -/
def execClrf (o : MEM) (s : State) : Out :=
  if !s.f.cur.q then .next s
  else
    let va := opS s o.base.toNat + o.off.signExtend 64
    let n := (opS s o.d.toNat).toInt.toNat
    if n = 0 then .next s
    else if !spadOk s va.toNat (128 * n) then .next (raiseR s 0x10 0 va)
    else if va.toNat % 128 != 0 then .next (raiseR s 0x11 0 va)
    else
      let lines := (List.range n).map fun i => va.toNat / 128 + i
      .next { s with m := { s.m with empties := s.m.empties ++ lines.filter fun l => !s.m.empties.contains l } }

/-! ### Atomics (05 R119, R120) -/

/-- The new value of an atomic, by opcode from AADD on; `old` is S[D] before the instruction (ACAS). -/
def atomicNew (op : Nat) (m b old : W64) : W64 :=
  match op with
  | 0 => m + b | 1 => m &&& b | 2 => m ||| b | 3 => m ^^^ b
  | 4 => if b.slt m then b else m
  | 5 => if m.slt b then b else m
  | 6 => b
  | 7 => if m = old then b else m
  | _ => BitVec.ofNat 64 (fadd fp32 0 (m.toNat % 2 ^ 32) (b.toNat % 2 ^ 32))
def atomicWidth (op : Nat) : Nat := if op = 8 then 4 else 8
/-- Whether a write of the executing slot's bundle has still to pass the checks of its home (13 R241). -/
def writesUnchecked (s : State) : Bool :=
  s.m.reqs.any fun r => r.src = .core && r.bsn = s.f.cur.bsn && isWrite r.op && r.stage != .checked && !r.vetted
/-- An atomic. It comes behind every earlier access that its scope covers, and performs within a scratchpad at issue, elsewhere at the word's home (05 R120). Its
write sets the line full as a store's does (log 26). Its address is aligned to 4 bytes: 24 R382 adds with AADD to words 4 bytes apart, so the natural alignment of 05
R106 is that of loads and stores (DEDUCED, log 18). -/
def atomic (o : MEM) (op : Nat) (s : State) : Out :=
  if !s.f.cur.q then .next s
  else
    let va := opS s o.base.toNat + sextN 16 o.low16
    let w := atomicWidth op
    match accessFault s true w 4 [va] with
    | some (c, a) => .next (raiseR s c 0 a)
    | none =>
      let us := unitsOf s true w [va]
      if !othersIssued s || accessesAhead s || (us.all (fun u => !isIa u.tgt) && writesUnchecked s) || (3 ≤ o.scope && !remoteAcked s) || us.any (fun p => flagAhead s s.f.cur.bsn p.tgt.key p.len) then stall s
      else
        let b := opS s o.sb
        let old := opS s o.d.toNat
        if us.any fun u => isIa u.tgt then
          let runs := us.flatMap (iaRuns s)
          let t := addReq s ⟨0, .core, s.f.cur.bsn, s.f.cur.pc, s.f.cur.k, .atomic op b old, pageBase s ((runs.map (·.2.1)).headD 0), runs, va, s.kn.owner, .held, false, true, false, true⟩
          .next { t with m := { t.m with accs := t.m.accs ++
            [⟨s.f.cur.bsn, s.f.cur.k, .s, o.d.toNat, 0, BitVec.ofNat 16384 (2 ^ 64 - 1), 1, 0, true⟩] } }
        else if (badUnit us s).isSome then .next (raiseR s 0x16 0 va)
        else
          let m := BitVec.ofNat 64 (gatherBytes s us)
          let new := bytesLE (atomicNew op m b old).toNat w
          let t := us.foldl (fun s p => performStore s p.tgt.key (unitBytes new p)) s
          .next (deliverS (countWrites t t.l.coord s.f.cur.bsn 1) o.d.toNat m)
def execAadd (o : MEM) (s : State) : Out := atomic o 0 s
def execAand (o : MEM) (s : State) : Out := atomic o 1 s
def execAor (o : MEM) (s : State) : Out := atomic o 2 s
def execAxor (o : MEM) (s : State) : Out := atomic o 3 s
def execAmin (o : MEM) (s : State) : Out := atomic o 4 s
def execAmax (o : MEM) (s : State) : Out := atomic o 5 s
def execAswp (o : MEM) (s : State) : Out := atomic o 6 s
def execAcas (o : MEM) (s : State) : Out := atomic o 7 s
def execAfadd (o : MEM) (s : State) : Out := atomic o 8 s

/-! ### Bobbins (05 R115) -/

def bobOk (b : Bobbin) : Bool := b.slot != 0 && b.count != 0
/-- The slot address under a pointer. -/
def bobAddr (b : Bobbin) (p : Nat) : W64 := b.base.zeroExtend 64 + BitVec.ofNat 64 (128 * b.slot * p)
/-- Whether a side has a slot to take. -/
def bobReady (b : Bobbin) (producer : Bool) : Bool := if producer then 0 < b.free else 0 < b.filled
/-- One slot taken by a side: its address, and the bobbin after it. -/
def bobTake (b : Bobbin) (producer : Bool) : W64 × Bobbin :=
  if producer then (bobAddr b b.prod, { b with free := b.free - 1, prod := (b.prod + 1) % b.count })
  else (bobAddr b b.cons, { b with filled := b.filled - 1, cons := (b.cons + 1) % b.count })
/-- Whether a CPY or CPYT takes a slot of this side of a bobbin. -/
def copyTakes (n : Nat) (producer : Bool) (i : Instr) : Bool :=
  let one (o : ENG) : Bool := if producer then bitB o.eop 16 && o.f 20 17 = n else bitB o.eop 11 && o.f 15 12 = n
  match i with | .cpy o => one o | .cpyt o => one o | _ => false
/-- Whether an engine command of an earlier bundle, issued or still queued, waits for a slot of this side (05 R115, 09 R172). -/
def engineWaitsFor (s : State) (n : Nat) (producer : Bool) (bsn : Nat) : Bool :=
  (s.f.qs.cp.any fun e => e.bsn < bsn && e.slots.any fun x => x.q && copyTakes n producer x.instr) ||
  s.e.cmds.any fun c => c.bsn < bsn && !c.active && match c.work with
    | .copy src dst .. => if producer then dst = .bob n else src = .bob n
    | _ => false
/-- The grant of an acquisition by the core. -/
def bobGrant (s : State) (d n : Nat) (producer : Bool) : State :=
  let r := bobTake (bobbin s n) producer
  let b := if producer then { r.2 with prodHeld := r.2.prodHeld + 1 } else { r.2 with consHeld := r.2.consHeld + 1 }
  deliverS (setBB s n b) d r.1
def sideOf (o : MEM) : Bool := o.hint.getLsbD 0
def bbacqReady (s : State) (o : MEM) : Bool :=
  bobReady (bobbin s o.base.toNat) (sideOf o) && !engineWaitsFor s o.base.toNat (sideOf o) s.f.cur.bsn
def execBbacq (o : MEM) (s : State) : Out :=
  let n := o.base.toNat
  if !s.f.cur.q then .next s
  else if !bobOk (bobbin s n) then .next (raiseR s 0x07 0 0)
  else if bbacqReady s o then .next (bobGrant (endWait s 4 s.f.cur.bsn) o.d.toNat n (sideOf o))
  else hold (startWait s)
def execBbrel (o : MEM) (s : State) : Out :=
  let n := o.base.toNat
  let b := bobbin s n
  if !s.f.cur.q then .next s
  else if !bobOk b || (if sideOf o then b.prodHeld = 0 else b.consHeld = 0) then .next (raiseR s 0x07 0 0)
  else .next (setBB s n (if sideOf o then { b with filled := b.filled + 1, prodHeld := b.prodHeld - 1 }
    else { b with free := b.free + 1, consHeld := b.consHeld - 1 }))
/-- A waiting BBACQ at the head of the memory queue is granted once its counter is nonzero. -/
def execBbacqGrant (s : State) : Out :=
  match headSlot s 4 with
  | some (e, x) => match x.instr with
    | .bbacq o =>
      let n := o.base.toNat
      if x.q && (waitSince s 4 e.bsn).isSome && bbacqReady (withSlot s e x) o then
        .next (retireSlot (bobGrant (endWait (withSlot s e x) 4 e.bsn) o.d.toNat n (sideOf o)) 4)
      else notEnabled "BBACQ_GRANT"
    | _ => notEnabled "BBACQ_GRANT"
  | none => notEnabled "BBACQ_GRANT"

/-! ### XLT (05 R117, R118) -/

/-- The first 64 pages that a range covers from a virtual address on, as runs, with the pages seen so far: none where a part is not translated by the
range registers. What lies behind the 64th page is not covered, and not translated (05 R118). -/
def xltPages (s : State) (va : W64) (seen : List Nat) : Nat → Nat → Nat → Option (List (Nat × Nat × Nat))
  | 0, _, _ => some []
  | _, _, 0 => some []
  | fuel + 1, off, len =>
    let v := va + BitVec.ofNat 64 off
    match translate s v with
    | some (.ia a) =>
      let page := pageBase s a
      let size := match pageAt s a with | some p => p.ia + pageSize p - a | none => (a / 0x10000 + 1) * 0x10000 - a
      let m := min len size
      let n := (cutPoints s v m).headD m
      if !seen.contains page && 64 ≤ seen.length then some []
      else if partOk s false n (.ia a) && v.toNat + n ≤ 2 ^ 64 then
        (xltPages s va (if seen.contains page then seen else page :: seen) fuel (off + n) (len - n)).map fun r => (off, a, n) :: r
      else none
    | _ => if 64 ≤ seen.length then some [] else none
/-- Whether a range stays within the step that translates its first byte, of the scratchpad or of the windows of the kernel's cores (14 R254). -/
def xltStays (s : State) (va : W64) (len : Nat) (t : Target) : Bool :=
  match t with
  | .own _ => va.toNat + len ≤ spadSize
  | .ia _ => false
  | _ =>
    let core (x : Nat) : Nat := (x - windowBase) / 2 ^ 24
    va.toNat + len ≤ windowBase + 0x40000000 &&
      (List.range 64).all fun c => !(core va.toNat ≤ c && c ≤ core (va.toNat + len - 1)) || s.kn.coreids.getLsbD c
/-- The result of XLT: STATUS, HOME, HOSTT, OUTS and NPAGES. -/
def xltWord (status home : Nat) (hostT outs : Bool) (n : Nat) : W64 :=
  BitVec.ofNat 64 (status * 2 ^ 62 + home % 2 ^ 15 * 2 ^ 47 + (if hostT then 2 ^ 46 else 0) + (if outs then 2 ^ 45 else 0) + n)
/-- XLT. Its length is signed (15 R276), and a negative one is that of an empty range, as 0 is: DESIGN CHOICE (log 26). -/
def execXlt (o : MEM) (s : State) : Out :=
  if !s.f.cur.q then .next s
  else
    let va := opS s o.base.toNat
    let len := (opS s o.xltSb).toInt.toNat
    if len = 0 then .next (deliverS s o.d.toNat (xltWord 0 0 false false 0))
    else match translate s va with
      | none => .next (raiseR s 0x10 0 va)
      | some (.ia _) =>
        match xltPages s va [] 2048 0 len with
        | none => .next (raiseR s 0x10 0 va)
        | some rs =>
          let t := addReq s ⟨0, .core, s.f.cur.bsn, s.f.cur.pc, s.f.cur.k, .xlt (!o.hint.getLsbD 0) s.tick,
            pageBase s ((rs.map (·.2.1)).headD 0), rs, va, s.kn.owner, .held, false, false, false, false⟩
          .next { t with m := { t.m with accs := t.m.accs ++
            [⟨s.f.cur.bsn, s.f.cur.k, .s, o.d.toNat, 0, BitVec.ofNat 16384 (2 ^ 64 - 1), 1, 0, true⟩] } }
      | some tg =>
        if xltStays s va len tg then
          .next (deliverS s o.d.toNat (xltWord 0 0 false false 0))
        else .next (raiseR s 0x10 0 va)

/-! ### TOPK (23 R366, R367) -/

def topKey (x : Nat) : Nat :=
  if 0x7F800000 < x % 2 ^ 31 then 0
  else if x = 0x80000000 then 0x80000000
  else if x < 2 ^ 31 then x + 2 ^ 31 else 2 ^ 32 - 1 - x
/-- Insertion by key descending, then index ascending. -/
def insTop (x : Nat × Nat) : List (Nat × Nat) → List (Nat × Nat)
  | [] => [x]
  | y :: ys => if topKey y.1 < topKey x.1 then x :: y :: ys else y :: insTop x ys
/-- The K best scores of a row with their indices. -/
def topRow (k : Nat) (xs : List Nat) : List (Nat × Nat) := (xs.zipIdx.foldl (fun l x => insTop x l) []).take k
/-- ROWS, N and K of the descriptor, clamped. -/
def topDims (d : W64) : Nat × Nat × Nat :=
  let n := clampN 1 512 (fieldN d 17 8)
  let k := clampN 1 (min n 16) (fieldN d 4 0)
  (clampN 1 (512 / k) (fieldN d 29 20), n, k)
def execTopk (o : MEM) (s : State) : Out :=
  if !s.f.cur.q then .next s
  else
    let base := opS s o.base.toNat
    let (rows, n, k) := topDims (opS s o.sb)
    let rowVa (r : Nat) : W64 := base + BitVec.ofNat 64 (r * o.low16)
    let vas := (List.range rows).map rowVa
    match vas.find? fun a => !spadOk s a.toNat (4 * n) with
    | some a => .next (raiseR s 0x10 0 a)
    | none =>
      if base.toNat % 4 != 0 then .next (raiseR s 0x11 0 base)
      else if !o.nowait && anyEmpty s (vas.map fun a => ⟨0, a, .own a.toNat, 4 * n⟩) then hold (startWait s)
      else if (vas.any fun a => (badSeen s a.toNat (4 * n)).isSome) then
        .next (raiseR s 0x16 0 ((vas.find? fun a => (badSeen s a.toNat (4 * n)).isSome).getD 0))
      else if loadWaits s then stall s
      else
        let scores (a : W64) : List Nat := (List.range n).map fun j => leNat (seenBytes s (a.toNat + 4 * j) 4)
        let all := vas.map scores
        let best := all.flatMap (topRow k)
        let nan := all.any fun r => r.any fun x => 0x7F800000 < x % 2 ^ 31
        let t := deliver (endWait s s.f.cur.k s.f.cur.bsn) .v o.d.toNat (vecOfList (best.map (·.1))) (BitVec.allOnes 16384) (if nan then stkyNan else 0)
        .next (deliver t .v (o.d.toNat + 1) (vecOfList (best.map (·.2))) (BitVec.allOnes 16384) 0)

/-! ### Waits on empty lines (05 R113) -/

/-- The meaning of a load. -/
def runLoad (i : Instr) (s : State) : Option Out :=
  match i with
  | .ldB o => some (execLdB o s)
  | .ldH o => some (execLdH o s)
  | .ldW o => some (execLdW o s)
  | .ldD o => some (execLdD o s)
  | .ldBs o => some (execLdBs o s)
  | .ldHs o => some (execLdHs o s)
  | .ldWs o => some (execLdWs o s)
  | .ldV o => some (execLdV o s)
  | .ldg o => some (execLdg o s)
  | .topk o => some (execTopk o s)
  | _ => none
/-- A load at the head of the memory queue that waits on an empty line resumes: every line that it reads has become full. -/
def execLineFillRelease (s : State) : Out :=
  match headSlot s 4 with
  | none => notEnabled "LINE_FILL_RELEASE"
  | some (e, x) =>
    if !x.q || (waitSince s 4 e.bsn).isNone then notEnabled "LINE_FILL_RELEASE"
    else match runLoad x.instr (withSlot s e x) with
      | some (.next t) => if t.f.cur.ctl = .done then .next (retireSlot t 4) else notEnabled "LINE_FILL_RELEASE"
      | _ => notEnabled "LINE_FILL_RELEASE"

/-! ### Landing (04 R89, 07 R138) -/

/-- The write of a delivered value. -/
def landDelivery (s : State) (d : Delivery) : State :=
  let t := if !d.write then s else match d.file with
    | .s => fillCaptures (setS s d.n (d.val.truncate 64)) d.n d.bsn (d.val.truncate 64)
    | .v => landWrite s d.q (.v d.n) d.bsn d.val d.wm
    | _ => s
  clearPending (orStky t d.sticky) d.file d.n d.bsn
/-- The k-th delivered value lands, unless an earlier delivery to the same register is still to land. -/
def execInterlockedWriteLands (k : Nat) (s : State) : Out :=
  match s.f.deliver[k]? with
  | none => notEnabled "INTERLOCKED_WRITE_LANDS"
  | some d =>
    if s.f.deliver.any fun e => e.file = d.file && e.n = d.n && e.bsn < d.bsn then notEnabled "INTERLOCKED_WRITE_LANDS"
    else .next (landDelivery { s with f := { s.f with deliver := s.f.deliver.eraseIdx k } } d)

end Sys2Proof.Machine
end

