-- ==== Sys2Proof/Machine/Collective.lean ====
section
/-! DEFINITION. Collective branches (23 R372 to R378, 25): membership, contributions and their reduction, results, breaks and timeouts. -/

namespace Sys2Proof.Machine

def group (s : State) (g : Nat) : Group := s.f.groups.get g
def setGroup (s : State) (g : Nat) (x : Group) : State := { s with f := { s.f with groups := s.f.groups.set g x } }
/-- Physical dimensions of a mask of logical ones. -/
def physMask (s : State) (m : BitVec 15) : BitVec 15 :=
  (List.range 15).foldl (fun (a : BitVec 15) l => if m.getLsbD l then a ||| (1#15 <<< dimField s l) else a) 0

/-- The group of this core under a number, as its messages name it. That they bear the launch tag and the membership beside what 25 R388 lists is a DESIGN CHOICE (log
29): without them no die could tell a member from a core that holds another membership (25 R397). -/
def groupId (s : State) (g : Nat) : GroupId := ⟨s.kn.owner, s.kn.ltag, g, (group s g).gdim, (group s g).gcore⟩

/-! ### Breaks and time (23 R377, 25 R389, R396) -/

/-- A break of a group goes to every other die of it (23 R377). -/
def sendBreak (s : State) (g : Nat) : State :=
  (otherDies s.l.coord (physMask s (group s g).gdim)).foldl (fun s c => sendCord s s.x.subm c (.brk (groupId s g))) s
/-- What 0x33 reports: a cause of way A (08 R153). -/
def info33 : TrapInfo := ⟨0x33, 0, 7, 0, 0, 0, 0, none⟩
/-- The collective timeout at the group's mark: at once in the kernel, else pending, in a handler (08 R160), during a drain or a landing (log 29), and behind a
pending 0x38 or 0x06 (08 R151). A kernel that ends already with a fault or as cancelled takes it no more (08 R163, R164). -/
def take33 (s : State) (g : Nat) : State :=
  let s := setGroup s g { group s g with wait := false, contributed := false }
  let drains := match s.f.fe with | .draining _ => true | .landing => true | .landed => true | _ => false
  let behind := s.f.asyncs.any fun p => p.1 = 0x38 || p.1 = 0x06
  if endsNow s then s
  else if s.f.handler || drains || behind then raiseA s 0x33 0 else enterRollback s info33
/-- What this die has combined for some numbers of a group of this kernel is dropped: those numbers resolve no more (25 R397). -/
def dropPartials (s : State) (p : Partial → Bool) : State :=
  { s with l := { s.l with partials := s.l.partials.filter fun q => !(q.id.owner = s.kn.owner && q.id.ltag = s.kn.ltag && p q) } }
/-- A group is broken on this core; a member with a contribution outstanding takes 0x33 (23 R377). -/
def breakGroup (s : State) (g : Nat) : State :=
  let s := dropPartials s fun q => q.id.g = g
  let x := group s g
  let t := setGroup s g { x with broken := true }
  if x.wait then take33 t g else t
/-- Whether a member's count of CBTO has expired (23 R377). -/
def cbtoExpired (s : State) (g : Nat) : Bool :=
  let x := group s g
  running s && x.wait && x.stopped = 0 && s.x.cbto != 0 && s.x.cbto.toNat ≤ elapsed s x.since
/-- A suspended member stops the count of CBTO; `since` then holds the cycles counted (25 R396). -/
def stopCount (t : W64) (x : Group) : Group := { x with stopped := x.stopped + 1, since := if x.stopped = 0 then t - x.since else x.since }
def startCount (t : W64) (x : Group) : Group := { x with stopped := x.stopped - 1, since := if x.stopped = 1 then t - x.since else x.since }
def suspendGroup (s : State) (g : Nat) : State := setGroup s g (stopCount s.tick (group s g))
def resumeGroup (s : State) (g : Nat) : State := if (group s g).stopped = 0 then s else setGroup s g (startCount s.tick (group s g))

/-! ### Results (23 R376, 25 R389 to R392) -/

/-- The group after a sequence number has resolved; the result is kept for a CBR dispatched again from its own mark. -/
def resolved (x : Group) (r : Bool) : Group :=
  { x with seq := x.seq + 1, last := r, lop := x.any, wait := false, owed := false, contributed := false, resKept := some r }
/-- Whether a result can follow from what this member has contributed: a false contribution makes an ALL false, a true one an ANY true (23 R376). -/
def canResult (x : Group) (r : Bool) : Bool := if x.any then !x.pred || r else !r || x.pred
/-- A result for sequence number n of group g. A member that has broken the group, or has resolved n, discards it; one whose count has expired breaks the group
(23 R377, R389). Running ahead, a mismatch rolls the core back to the CBR's mark; a match commits at the next boundary (MARK_SET). -/
def takeResult (s : State) (g : Nat) (n : BitVec 32) (r : Bool) : State :=
  let x := group s g
  if x.broken || x.seq != n || !x.contributed || !canResult x r then s
  else if cbtoExpired s g then breakGroup (sendBreak s g) g
  else
    let t := setGroup s g (resolved x r)
    match s.f.ahead with
    | some a => if a.g = g && a.pred != r then setGroup (rollback t) g (resolved x r) else t
    | none => t

/-! ### The reduction (25 R388) -/

def combine (any : Bool) (vs : List Bool) : Bool := if any then vs.any id else vs.all id
def gcores (x : Group) : List Nat := (List.range 64).filter fun c => x.gcore.getLsbD c
def gdims (x : Group) : List Nat := (List.range 15).filter fun l => x.gdim.getLsbD l
/-- A die's partial moves on: over each dimension of GDIM in ascending order, once all lower ones have been combined, it goes to the
partner. `ready` says that every stage so far is complete. -/
def advance (s : State) (p : Partial) : List Nat → Bool → List Bool → State × Partial × Option Bool
  | [], ready, vs => (s, p, if ready then some (combine p.any vs) else none)
  | l :: ls, ready, vs =>
    if !ready then (s, p, none)
    else
      let d := dimField s l
      let out : State × Partial :=
        if p.sentTo.contains l then (s, p)
        else (sendCord s s.x.subm (partner s.l.coord d) (.contribution ⟨p.id, p.n, p.any, combine p.any vs, .dim l⟩),
              { p with sentTo := l :: p.sentTo })
      match out.2.dims.find? fun q => q.1 = l with
      | some q => advance out.1 out.2 ls true (q.2 :: vs)
      | none => advance out.1 out.2 ls false vs
def samePartial (m : Contribution) (p : Partial) : Bool := p.id = m.id && p.n = m.n
/-- A contribution is entered among those of its number. -/
def enterContribution (p : Partial) (m : Contribution) : Partial :=
  match m.src with
  | .core c => { p with cores := (c, m.value) :: p.cores.filter fun q => q.1 != c }
  | .dim l => { p with dims := (l, m.value) :: p.dims.filter fun q => q.1 != l }
/-- Whether a contribution that waits is stale once another of its source comes: it bears the same number, the numbers begin anew, or its core holds another membership now. -/
def staleEarly (m q : Contribution) : Bool :=
  q.src = m.src && q.id.owner = m.id.owner && q.id.ltag = m.id.ltag && q.id.g = m.id.g &&
    (if q.id = m.id then q.n = m.n || m.n = 0 else match m.src with | .core _ => true | .dim _ => false)
/-- A contribution that this core's group cannot take yet waits, in the order of arrival, until it can. -/
def keepEarly (s : State) (m : Contribution) : State :=
  { s with l := { s.l with early := (s.l.early.filter fun q => !staleEarly m q) ++ [m] } }
/-- Whether GCORE names the source of a contribution, where that is a core of this die (25 R388). -/
def namesSource (m : Contribution) : Bool := match m.src with | .core c => m.id.gcore.getLsbD c.toNat | .dim _ => true
/-- A contribution or a partial result meets the others of its number. Those of another membership wait: this core may come to hold it, and until then its sender
is no member of this core's group (25 R397). Two contributions that carry different operations break the group. -/
def addContribution (s : State) (m : Contribution) : State :=
  let g := m.id.g
  let p := (s.l.partials.find? (samePartial m)).getD ⟨m.id, m.n, m.any, [], [], []⟩
  let rest := s.l.partials.filter fun q => !samePartial m q
  let x := group s g
  if !running s || m.id != groupId s g then keepEarly s m
  else if !namesSource m then s
  else if p.any != m.any then breakGroup (sendBreak { s with l := { s.l with partials := rest } } g) g
  else
    let p := enterContribution p m
    let ready := (gcores x).all fun c => p.cores.any fun q => q.1.toNat = c
    let (t, p, r) := advance s p (gdims x) ready (p.cores.map (·.2))
    match r with
    | none => { t with l := { t.l with partials := p :: rest } }
    | some v => takeResult { t with l := { t.l with partials := rest } } g m.n v
/-- The contributions that wait for a group of this core meet the others, in order. -/
def replayEarly (s : State) (g : Nat) : State :=
  let mine (q : Contribution) : Bool := q.id = groupId s g
  (s.l.early.filter mine).foldl addContribution { s with l := { s.l with early := s.l.early.filter fun q => !mine q } }
/-- This core contributes for its group's sequence number, once. While a member is suspended, its count stands at zero (25 R396). -/
def contribute (s : State) (g : Nat) (v : Bool) : State :=
  let x := group s g
  let t := setGroup s g { x with owed := false, pred := v, wait := true, contributed := true, since := if x.stopped = 0 then s.tick else 0 }
  addContribution t ⟨groupId s g, x.seq, x.any, v, .core s.x.coreid⟩

/-! ### The instructions -/

/-- CBR (23 R376). The mark before it has been set when it executes. -/
def execCbr (o : BRN) (s : State) : Out :=
  let g := o.cg
  if s.f.handler then .next (raiseD s 0x02 0 0)
  else if !s.kn.members.getLsbD g then .next (raiseD s 0x34 0 0)
  else if s.f.ahead.isSome then stall s
  else if (group s g).broken then .next (take33 s g)
  else
    let v := preg s o.ps
    let s := if (group s g).resKept.isSome then s else setGroup s g { group s g with any := o.any }
    let s := if (group s g).contributed || (group s g).resKept.isSome then s else contribute s g v
    let go (s : State) (r : Bool) : State := if r then goto s (s.f.cur.pc + o.off39 * 64) else s
    match (group s g).resKept with
    | some r => .next (go s r)
    | none =>
      if (group s g).broken then .next s
      else
        let t := { s with f := { s.f with ahead := some ⟨g, s.f.cur.pc, s.f.bsn, (group s g).pred⟩ } }
        .next (go t (group s g).pred)
/-- CBRX (23 R378). -/
def execCbrx (o : RRR) (s : State) : Out :=
  ifQ s fun s =>
    let g := o.d.toNat
    if !s.f.handler then raiseD s 0x35 0 0
    else if !s.kn.members.getLsbD g then raiseD s 0x34 0 0
    else if !(group s g).owed then raiseD s 0x35 0 0
    else contribute s g (preg s o.a.toNat)
/-- What was contributed under a membership that this core gives up for another is dropped. Where it writes the same again, the numbers begin anew: what others have
contributed for number 0 may be for the new one, and all else is dropped (25 R397, log 26). -/
def dropOld (s : State) (g : Nat) (new : GroupId) : State :=
  let x := group s g
  let t := dropPartials s fun q => q.id.g = g && (new != groupId s g || (x.seq != 0 && x.seq ≤ q.n) || q.n != 0 || q.cores.any fun c => c.1 = s.x.coreid)
  { t with l := { t.l with early := t.l.early.filter fun q => !(q.id = new && q.n != 0) } }
/-- MEMBW (23 R373): dispatch holds while a CBR of the group is unresolved. -/
def execMembw (o : RRR) (s : State) : Out :=
  if !s.f.cur.q then .next s
  else
    let g := o.d.toNat
    if !s.kn.members.getLsbD g then .next (raiseD s 0x34 0 0)
    else if (group s g).wait then stall s
    else
      let gdim := BitVec.ofNat 15 ((opS s o.a.toNat).toNat % 2 ^ 15) &&& BitVec.ofNat 15 (2 ^ s.x.kndim - 1)
      let gcore := (opS s o.b.toNat &&& s.kn.coreids) ||| (1#64 <<< s.x.coreid.toNat)
      .next (replayEarly (setGroup (dropOld s g ⟨s.kn.owner, s.kn.ltag, g, gdim, gcore⟩) g { group s g with
        gdim := gdim, gcore := gcore, seq := 0, broken := false, contributed := false, resKept := none }) g)
def execMembr (o : RRR) (s : State) : Out :=
  ifQ s fun s =>
    let g := o.a.toNat
    if !s.kn.members.getLsbD g then raiseD s 0x34 0 0
    else setS s o.d.toNat (if o.xop = 0 then (group s g).gdim.zeroExtend 64 else (group s g).gcore)
/-- The status word of 23 R374. -/
def cbstWord (s : State) (g : Nat) : W64 :=
  if s.kn.members.getLsbD g then BitVec.ofNat 64 (groupFlags (group s g) + (group s g).seq.toNat * 2 ^ 32) else 0
def execCbst (o : RRR) (s : State) : Out := toS s o.d (cbstWord s o.a.toNat)

/-! ### Messages and time -/

/-- What a message does to a group: to this core's, or to that of a context which this core has saved (25 R396). -/
structure GroupAct where
  here : State → Nat → State
  saved : W64 → Context → Nat → Context
def mapGroup (c : Context) (g : Nat) (f : Group → Group) : Context := { c with f := { c.f with groups := c.f.groups.set g (f (c.f.groups.get g)) } }
/-- A break that reaches a saved context: a member that waited for a result takes 0x33 once it runs again. -/
def savedBreak (_ : W64) (c : Context) (g : Nat) : Context :=
  let x := c.f.groups.get g
  let d := mapGroup c g fun x => { x with broken := true, wait := false, contributed := if x.wait then false else x.contributed }
  if x.wait && d.f.asyncs.all (fun a => a.1 != 0x33) then { d with f := { d.f with asyncs := d.f.asyncs ++ [(0x33, 0)] } } else d
def breakAct : GroupAct := ⟨breakGroup, savedBreak⟩
def suspendAct : GroupAct := ⟨suspendGroup, fun t c g => mapGroup c g (stopCount t)⟩
def resumeAct : GroupAct := ⟨resumeGroup, fun t c g => mapGroup c g fun x => if x.stopped = 0 then x else startCount t x⟩
/-- Whether the kernel that runs here has a group, and whether that of a saved context has. -/
def memberHere (s : State) (g : Nat) : Bool := running s && g < 4 && s.kn.members.getLsbD g
def memberSaved (s : State) (c : Context) (g : Nat) : Bool :=
  g < 4 && s.c.runs.any fun r => r.id = c.run && r.kernel.members.getLsbD g
/-- The kernel whose context was saved, if it is still known. -/
def savedKernel (s : State) (c : Context) : Option Kernel := (s.c.runs.find? fun r => r.id = c.run).map Run.kernel
/-- Whether a group of a saved context is the one that a message is of. -/
def savedGroup (s : State) (c : Context) (id : GroupId) : Bool :=
  (savedKernel s c).any fun k => k.owner = id.owner && k.ltag = id.ltag && (c.f.groups.get id.g).gdim = id.gdim && (c.f.groups.get id.g).gcore = id.gcore
/-- A message acts on some saved contexts. -/
def actOnSaved (s : State) (a : GroupAct) (g : Nat) (p : Context → Bool) : State :=
  { s with c := { s.c with contexts := s.c.contexts.map fun c => if memberSaved s c g && p c then a.saved s.tick c g else c } }
/-- A message acts on its group: this core's, or a saved one. Of two kernels with the same tags the subcube of its sender tells which; where none
has that subcube, a resumption may have given the kernel another (25 R396). -/
def actOnGroup (s : State) (a : GroupAct) (src : Option (GroupId × BitVec 15)) (g : Nat) : State :=
  match src with
  | none => if memberHere s g then a.here s g else actOnSaved s a g fun _ => true
  | some (id, dims) =>
    if memberHere s g && id = groupId s g && dims = s.x.subm then a.here s g
    else
      let fits (c : Context) : Bool := savedGroup s c id && c.x.subm = dims
      actOnSaved s a g fun c => if s.c.contexts.any (fun c => memberSaved s c g && fits c) then fits c else savedGroup s c id
/-- Whether a group is that of this core's kernel or of a saved one. -/
def memberAny (s : State) (g : Nat) : Bool := memberHere s g || s.c.contexts.any fun c => memberSaved s c g
/-- The agreed result arrives. -/
def execCbrResultArrives (g : Nat) (n : BitVec 32) (r : Bool) (s : State) : Out :=
  when (memberHere s g && ((group s g).seq != n || !(group s g).contributed || canResult (group s g) r)) "CBR_RESULT_ARRIVES" (takeResult s g n r)
def execCbrContributionArrives (m : Contribution) (s : State) : Out :=
  when (m.id.g < 4) "CBR_CONTRIBUTION_ARRIVES" (addContribution s m)
def execCbrBreak (g : Nat) (s : State) : Out := when (memberAny s g) "CBR_BREAK" (actOnGroup s breakAct none g)
def execCbrSuspendNotice (g : Nat) (s : State) : Out := when (memberAny s g) "CBR_SUSPEND_NOTICE" (actOnGroup s suspendAct none g)
def execCbrResumeNotice (g : Nat) (s : State) : Out :=
  when ((memberHere s g && 0 < (group s g).stopped) || (!memberHere s g && memberAny s g)) "CBR_RESUME_NOTICE" (actOnGroup s resumeAct none g)
/-- The first group whose count has expired is broken on this core, a break goes out, and 0x33 is taken. -/
def execCollectiveTimeout (s : State) : Out :=
  match (List.range 4).find? fun g => cbtoExpired s g with
  | none => notEnabled "COLLECTIVE_TIMEOUT"
  | some g => .next (breakGroup (sendBreak s g) g)

end Sys2Proof.Machine
end

