-- ==== Sys2Proof/Machine/Memory.lean ====
section
/-! DEFINITION. The homes of pages (14 R263 to R271): the checks and the performing of requests, the directory, moves between dies, and
the host tier (27 R427). Pages of every die are held together; each names its home. -/

namespace Sys2Proof.Machine

/-! ### Counters and places -/

/-- A field of MIGC counted up, saturating (14 R270). -/
def migcBump (x : BitVec 64) (lo w : Nat) : BitVec 64 :=
  if fieldN x (lo + w - 1) lo = 2 ^ w - 1 then x else x + (1#64 <<< lo)
def bumpMigc (s : State) (lo w : Nat) : State := { s with m := { s.m with migc := migcBump s.m.migc lo w } }
/-- A number under a mask, its bits compacted, the lowest dimension first. -/
def compact (mask x : BitVec 15) : Nat :=
  ((List.range 15).foldl (fun (r : Nat × Nat) d =>
    if mask.getLsbD d then (r.1 + (if x.getLsbD d then 2 ^ r.2 else 0), r.2 + 1) else r) (0, 0)).1
def popDims (mask : BitVec 15) : Nat := ((List.range 15).filter fun d => mask.getLsbD d).length
/-- Whether a die is the directory die of an address of a tenant (14 R266). -/
def isDirDie (t : Tenant) (ia : Nat) (die : Coord) : Bool :=
  (die ^^^ t.base) &&& ~~~t.mask = 0 && compact t.mask die = ia / 2 ^ 21 % 2 ^ popDims t.mask
/-- The directory die of an address of a tenant. -/
def dirDie (t : Tenant) (ia : Nat) : Coord :=
  ((t.base :: otherDies t.base t.mask).find? fun d => isDirDie t ia d).getD t.base
def tenantOf (s : State) (owner : BitVec 16) : Option Tenant := s.c.tenants.find? fun t => t.owner = owner
/-- Whether an open ingest window, of this package or of another, holds a page (27 R424). -/
def windowPins (s : State) (p : Page) : Bool :=
  (s.h.windows.any fun w => w.2.iabase < p.ia + pageSize p && p.ia < w.2.iabase + w.2.len) ||
  s.h.farPins.any fun x => x.2.2.1 < p.ia + pageSize p && p.ia < x.2.2.1 + x.2.2.2
def pinned (s : State) (p : Page) : Bool := p.pins != 0 || windowPins s p
def regionLost (s : State) (r : Nat) : Bool := s.h.lost.contains r
def frames (p : Page) : Nat := if p.large then 32 else 1
/-- The free frames of a die: what this die has counted of it, and before it has counted any, what the other die offers. -/
def freeOf (s : State) (d : Coord) : Nat :=
  match s.m.freeFrames.find? fun p => p.1 = d with
  | some p => p.2
  | none => if d = s.l.coord then 0 else Config.otherFrames d
def setFree (s : State) (d : Coord) (n : Nat) : State :=
  { s with m := { s.m with freeFrames := putSeq s.m.freeFrames d n } }

/-- The home die of a page, wherever the requester believes it to be. Of an address without an entry the directory names this die: DESIGN CHOICE
(log 29). -/
def trueHome (s : State) (a : Nat) : Coord := match pageAt s a with | some p => p.home | none => s.l.coord

/-! ### The checks of a home (14 R265) -/

/-- The cause that a home raises for a plain access, if any. -/
def homeFault (s : State) (owner : BitVec 16) (write : Bool) (a : Nat) : Option Nat :=
  match pageAt s a with
  | none => some 0x13
  | some p =>
    if p.owner != owner then some 0x13
    else if write && p.ro then some 0x14
    else match p.st with
      | .offloaded .. => some 0x12
      | .returning .. => some 0x12
      | _ => none
/-- An access that meets a page being offloaded cancels the offload (14 R269); the page is accessed now (27 R427). -/
def meetPage (s : State) (a : Nat) : State :=
  match pageAt s a with
  | none => s
  | some p =>
    match p.st with
    | .offloading .. =>
      let t := setPage s { p with st := .resident, used := s.tick }
      if p.home = s.l.coord then bumpMigc t 48 16 else t
    | _ => setPage s { p with used := s.tick }
/-- Cycles of 2.0 GHz: an interval of 256 µs, the window of 4 ms, the tack of 4 ms + 16 ms (14 R267, R268). -/
def moveInterval : Nat := 512000
def moveWindow : Nat := 8000000
def tackTime : Nat := 40000000
/-- The interval that runs now. -/
def intervalNow (s : State) : Nat := s.tick.toNat / moveInterval
/-- The 64-byte accesses of a page from a die in the interval that runs (14 R267). -/
def countAccess (s : State) (page : Nat) (die : Coord) (n : Nat) : State :=
  let same (c : Count) : Bool := c.page = page && c.die = die && c.at' = intervalNow s
  let old := ((s.m.counts.find? same).map Count.n).getD 0
  { s with m := { s.m with counts := ⟨page, die, intervalNow s, old + n⟩ :: s.m.counts.filter fun c => !same c } }
/-- The accesses of 64 bytes that runs make: each run counts its own lines, and every access that reaches the home counts, whether or not a cache of the
core could have served it; 14 R267 says neither: DESIGN CHOICE (log 29). -/
def lines64 (runs : List (Nat × Nat × Nat)) : Nat := (runs.map fun r => (r.2.1 + r.2.2 + 63) / 64 - r.2.1 / 64).sum
def srcDie (s : State) (src : ReqSrc) : Coord := match src with | .remote d _ _ => d | _ => s.l.coord

/-! ### Answers -/

/-- What a request of this core sees of the gate: the stores of earlier bundles (05 R112). -/
def beforeReq (s : State) (r : Req) : State := { s with f := { s.f with gate := s.f.gate.filter fun g => g.bsn < r.bsn } }
/-- Bytes of memory that a request of this core reads: those of the gate's earlier stores first. -/
def requestByte (s : State) (r : Req) (a : Nat) : Byte :=
  if r.src = .core then (seenByte (beforeReq s r) (iaBase + a)).1
  else readByte s.m.cells (iaBase + a)
def runNat (s : State) (r : Req) (a n : Nat) : Nat := leNat ((List.range n).map fun i => requestByte s r (a + i))
/-- What a request reads, at the places of its runs in the image. -/
def requestNat (s : State) (r : Req) : Nat := r.runs.foldl (fun x (i, a, n) => x + runNat s r a n <<< (8 * i)) 0
/-- A part of an answer to an access of this core, the last of its request or not: the value is delivered once every answer has arrived. -/
def answerPart (s : State) (r : Req) (x : Nat) (last : Bool) : State :=
  match takeFirst (fun a => a.bsn = r.bsn && a.k = r.k) s.m.accs with
  | none => s
  | some (a, rest) =>
    let v := a.val ||| BitVec.ofNat 16384 x
    if last && a.left ≤ 1 then
      { s with m := { s.m with accs := rest }
               f := { s.f with deliver := s.f.deliver ++
                 [⟨a.file, a.n, a.bsn, if a.file = .s then BitVec.ofNat 16384 (extendTo a.sx v.toNat) else v, a.wm, a.write, 0, .mem⟩] } }
    else { s with m := { s.m with accs := { a with val := v, left := if last then a.left - 1 else a.left } :: rest } }
/-- The answer to an access of this core. -/
def answer (s : State) (r : Req) (x : Nat) : State := answerPart s r x true
def replyTo (s : State) (r : Req) (b : Body) : State :=
  match r.src with
  | .remote d _ _ => sendData s (allotMask s r.owner) .memory d b
  | _ => s
def reqId (r : Req) : Nat := match r.src with | .remote _ _ id => id | _ => r.id
def performedOf (s : State) (d : Coord) (c : BitVec 6) : Nat :=
  ((s.l.performed.find? fun p => p.1 = d && p.2.1 = c).map (·.2.2)).getD 0
def setPerformed (s : State) (d : Coord) (c : BitVec 6) (n : Nat) : State :=
  { s with l := { s.l with performed := (d, c, n) :: s.l.performed.filter fun p => !(p.1 = d && p.2.1 = c) } }
/-- A write of a remote core has performed here (09 R188). -/
def countPerformed (s : State) (r : Req) : State :=
  match r.src with
  | .remote d c _ => if r.counts then setPerformed s d c (performedOf s d c + 1) else s
  | _ => s
/-- A write of this core to another die awaits its acknowledgement (13 R236). -/
def awaitAck (s : State) (r : Req) (home : Coord) : State :=
  if r.src = .core && home != s.l.coord then { s with f := { s.f with unacked := s.f.unacked ++ [⟨r.id, home, r.bsn⟩] } } else s
/-- A response of some bytes leaves in flits of at most 128 of them. -/
def respond (s : State) (r : Req) (home : Coord) : Nat → List Byte → State
  | 0, bs => replyTo s r (.response (reqId r) bs true home)
  | n + 1, bs => if bs.length ≤ 128 then replyTo s r (.response (reqId r) bs true home)
    else respond (replyTo s r (.response (reqId r) (bs.take 128) false home)) r home n (bs.drop 128)
def writeRuns (s : State) (runs : List (Nat × Nat × Nat)) (data : List Byte) : State :=
  runs.foldl (fun s (i, a, n) => putBytes s (iaBase + a) ((data.drop i).take n)) s
/-- The cause of a request is raised: a precise fault of the core (08 R149), a NAK or a refusal to another die. -/
def refuseReq (s : State) (r : Req) (cause : Nat) (faddr : W64) : State :=
  let mine (q : Req) : Bool := q.src = .core && q.bsn = r.bsn && q.k = r.k
  match r.src with
  | .core =>
    let t := uncount s (s.m.reqs.filter mine)
    let t := { t with m := { t.m with accs := t.m.accs.filter fun a => !(a.bsn = r.bsn && a.k = r.k), reqs := t.m.reqs.filter fun q => !mine q } }
    raiseInfo t ⟨cause, 0, 4, r.k, r.pc, r.bsn, faddr, none⟩
  | .past => removeReq s r.id
  | .host qp => say (removeReq s r.id) (.nak qp)
  | .nvme id =>
    let t := removeReq s r.id
    { t with h := { t.h with reads := t.h.reads.map fun x => match x.phase with
        | .data st _ => if x.id = id then { x with phase := .data st true } else x
        | _ => x } }
  | .remote .. => replyTo (removeReq s r.id) r (.refuse (reqId r) cause (trueHome s r.page))
/-- The next bytes of a request to perform, those of its first run within one sector of 32, and the runs that are left. Sectors are those of the virtual address, to
which a vector is aligned: an element, or a scalar store, lies in one of them (05 R111, DESIGN CHOICE, log 29). Runs that belong together perform together. -/
def nextBytes (whole : Bool) (rs : List (Nat × Nat × Nat)) : List (Nat × Nat × Nat) × List (Nat × Nat × Nat) :=
  match rs with
  | [] => ([], [])
  | (i, a, n) :: qs =>
    let m := min n (32 - i % 32)
    if whole then (rs, []) else if m = n then ([(i, a, n)], qs) else ([(i, a, m)], (i + m, a + m, n - m) :: qs)
/-- The request with the runs that are left, or none once nothing is. -/
def putRuns (s : State) (r : Req) (rs : List (Nat × Nat × Nat)) : State :=
  if rs.isEmpty then removeReq s r.id
  else { s with m := { s.m with reqs := s.m.reqs.map fun q => if q.id = r.id then { q with runs := rs } else q } }
/-- A request whose checks have passed performs at its home, a load or store of the core sector by sector, and is answered. -/
def performReq (s : State) (r : Req) (home : Coord) : State :=
  let (now, rest) := nextBytes r.whole r.runs
  match r.op with
  | .load =>
    match r.src with
    | .core => answerPart (putRuns s r rest) r (requestNat s { r with runs := now }) rest.isEmpty
    | _ => respond (removeReq s r.id) r home ((r.runs.map (·.2.2)).sum / 128) (bytesLE (requestNat s r) ((r.runs.map (·.2.2)).sum))
  | .store data =>
    let t := putRuns (writeRuns s now data) r rest
    if rest.isEmpty then replyTo (countPerformed (awaitAck t r home) r) r (.ack (reqId r) home) else t
  | .pads data => putRuns (now.foldl (fun s (i, k, n) => performPart s k ((data.drop i).take n) fun line => rest.any fun x => onLine x.2.1 x.2.2 line) s) r rest
  | .check => removeReq s r.id
  | .atomic op b old =>
    let w := atomicWidth op
    let m := requestNat s r
    let t := writeRuns (removeReq s r.id) r.runs (bytesLE (atomicNew op (BitVec.ofNat 64 m) b old).toNat w)
    match r.src with
    | .core => answer (awaitAck t r home) r m
    | _ => respond (countPerformed t r) r home 0 (bytesLE m w)
  | .xlt .. => s

/-! ### XLT at the homes (05 R118, 14 R265) -/

def xltDone (s : State) (r : Req) (status : Nat) : State :=
  let first := r.runs.head?.bind fun x => pageAt s x.2.1
  let n := (pagesOf s r.runs).length
  let word := match first with
    | none => xltWord status 0 false false n
    | some p =>
      match p.st with
      | .offloaded .. => xltWord status 0 true false n
      | .returning .. => xltWord status 0 true false n
      | _ =>
        if (p.home ^^^ s.l.coord) &&& ~~~s.x.subm = 0 then xltWord status (lcoordOf s p.home) false false n
        else xltWord status 0 false true n
  answer (removeReq s r.id) r word.toNat
/-- The first page of an XLT that raises a cause: absent or foreign, or in a lost region. -/
def xltFault (s : State) (r : Req) : Option (Nat × W64) :=
  r.runs.findSome? fun (i, a, _) =>
    let va := r.va + BitVec.ofNat 64 i
    match pageAt s a with
    | none => some (0x13, va)
    | some p =>
      if p.owner != r.owner then some (0x13, va)
      else match p.st with
        | .offloaded g _ => if regionLost s g then some (0x15, va) else none
        | .returning g _ => if regionLost s g then some (0x15, va) else none
        | _ => none
/-- Whether the traffic of a page homed here with the host goes by the anchor die (00 R5). -/
def byAnchor (s : State) (p : Page) : Bool := p.home = s.l.coord && dieNo s != 0
/-- The return of a page begins. The RDMA READ of a die other than the anchor goes by the anchor (00 R5). -/
def startReturn (s : State) (p : Page) : State :=
  match p.st with
  | .offloaded g o =>
    let t := setPage s { p with st := .returning g o }
    if byAnchor s p then sendData { t with m := { t.m with tier := mapPut 0 t.m.tier p.ia 0 } } 7 .memory (dieOf s 0) (.tierRead p.ia (pageSize p)) else t
  | _ => s
def isOffloaded (p : Page) : Bool := match p.st with | .offloaded .. => true | _ => false
def pinPage (s : State) (p : Page) : State := setPage s { p with pins := p.pins + 1 }
def unpinPage (s : State) (p : Page) : State := setPage s { p with pins := p.pins - 1 }
/-- Whether a page is in the host tier, or on its way from it. -/
def inHostTier (p : Page) : Bool := match p.st with | .offloaded .. => true | .returning .. => true | _ => false
/-- The pages that an XLT covers. -/
def xltCovers (s : State) (r : Req) : List Page := (pagesOf s r.runs).filterMap (pageAt s)
/-- The bound of an XLT in cycles (05 R118). -/
def xltBound (ps : List Page) : Nat := if ps.any inHostTier then 4000 else 400
/-- Whether an XLT can be answered, or has a return to start: a page that is not there yet is waited for until the bound expires (05 R118, 14 R269). -/
def xltReady (s : State) (r : Req) (pin : Bool) (since : W64) : Bool :=
  let ps := xltCovers s r
  !pin || ps.any isOffloaded || ps.all (fun p => p.st = .resident || match p.st with | .offloading .. => true | _ => false) || xltBound ps ≤ elapsed s since
/-- An XLT at the homes of its pages. The unpin form starts the return of what is offloaded and does not wait for it; a page that is not there is judged before the
room in the pin set (log 26). -/
def performXlt (s : State) (r : Req) (pin : Bool) : State :=
  let s := r.runs.foldl (fun s x => meetPage s x.2.1) s
  let pages := xltCovers s r
  if !pin then
    let mine := pages.filter fun p => s.f.pins.contains p.ia
    let t := mine.foldl unpinPage (pages.foldl startReturn s)
    xltDone { t with f := { t.f with pins := t.f.pins.filter fun a => !(mine.any fun p => p.ia = a) } } r 0
  else if pages.any isOffloaded then pages.foldl startReturn s
  else if pages.all fun p => p.st = .resident then
    let new := pages.filter fun p => !s.f.pins.contains p.ia
    if 256 < s.f.pins.length + new.length then xltDone s r 2
    else
      let t := new.foldl pinPage s
      xltDone { t with f := { t.f with pins := t.f.pins ++ new.map Page.ia } } r 0
  else xltDone s r 1

/-! ### HOME_ACCESS -/

/-- Whether two requests come from one place, whose order the fabric keeps (11 R213, 13 R240). -/
def sameSource (a b : ReqSrc) : Bool :=
  match a, b with
  | .core, .core => true
  | .core, .past => true
  | .past, .core => true
  | .past, .past => true
  | .host m, .host n => m = n
  | .nvme m, .nvme n => m = n
  | .remote d _ _, .remote e _ _ => d = e
  | _, _ => false
/-- Whether every flit of a request of this die has left its port. -/
def departed (s : State) (id : Nat) : Bool :=
  s.l.ports.all fun p => p.2.outq.all fun x => x.2.orig != s.l.coord || match x.2.body with | .request q => q.id != id | _ => true
/-- Whether the k-th request may arrive at its home, or go on there, now (05 R120, 13 R239, R240, 14 R266). A write of the core waits for its earlier FLAG
words to the same bytes (13 R238), and behind a recorded fault of its own or an earlier bundle (13 R241). -/
def reqReady (s : State) (k : Nat) (r : Req) : Bool :=
  let before := (s.m.reqs.take k).filter fun q => sameSource q.src r.src
  let home := homeOfPage s r.page
  r.stage != .held && before.all (fun q => q.stage != .held && homeOfPage s q.page != home && match q.op with | .atomic .. => false | _ => true)
  && !(isWrite r.op && before.any fun q => !isWrite q.op)
  && !(r.page != noPage && r.runs.any fun x => moving s x.2.1 && !(match r.op with | .xlt .. => true | _ => false))
  && ((match r.src with | .remote .. => true | _ => false) || departed s r.id)
  && !(r.src = .core && isWrite r.op && ((s.f.rbFaults.any fun i => i.fbsn ≤ r.bsn) || r.page != noPage && r.runs.any fun x => flagAhead s r.bsn (iaBase + x.2.1) x.2.2))
/-- The writes of this core's bundle to which a request belongs: none performs before all of them have passed their checks (13 R241). -/
def writeGroup (s : State) (r : Req) : List Req :=
  if r.src = .core && isWrite r.op then s.m.reqs.filter fun q => q.src = .core && isWrite q.op && q.bsn = r.bsn && q.page != noPage else [r]
/-- A home enters the home cache of this die. -/
def cacheHome (s : State) (page : Nat) (h : Coord) : State :=
  { s with m := { s.m with homeCache := ((page, h) :: s.m.homeCache.filter fun p => p.1 != page).take 4096 } }
/-- Whether some bytes lie in a page. -/
def keyIn (s : State) (page key : Nat) : Bool := iaBase ≤ key && pageBase s (key - iaBase) = page
/-- Whether a request has bytes on a page. -/
def reqOn (s : State) (q : Req) (page : Nat) : Bool := q.page = page || (q.page != noPage && q.runs.any fun x => pageBase s x.2.1 = page)
/-- Whether a request of this die to a page is still to be answered: of the core, of the host, or of an engine. -/
def outstanding (s : State) (page : Nat) : Bool :=
  (s.m.reqs.any fun q => (match q.src with | .remote .. => false | _ => true) && q.stage != .held && reqOn s q page) ||
  s.e.cmds.any fun c => (c.xf.reads.any fun f => f.sent.isSome && keyIn s page f.piece.key) ||
    c.xf.segs.any fun g => g.any fun x => x.sent.isSome && x.parts.any fun p => keyIn s page p.key
/-- The answer names the home; it is taken once no request to the page is outstanding (14 R266). -/
def learnPage (s : State) (page : Nat) : State := if outstanding s page then s else cacheHome s page (trueHome s page)
def learnHome (s : State) (r : Req) : State := learnPage s r.page
/-- The address at which a request that delivers data meets an uncorrectable error (08 R165). -/
def reqBad (s : State) (r : Req) : Option W64 :=
  let first := (r.runs.map (·.2.1)).headD 0
  match r.op with
  | .store _ => none
  | .pads _ => none
  | .check => none
  | _ =>
    let t := if r.src = .core then beforeReq s r else { s with f := { s.f with gate := [] } }
    r.runs.findSome? fun (_, a, n) => (badSeen t (iaBase + a) n).map fun _ => r.va + BitVec.ofNat 64 a - BitVec.ofNat 64 first
/-- The cause that a page raises for a request, with the address of the first byte on it. -/
def pageFault (s : State) (r : Req) : Option (Nat × W64) :=
  let first := (r.runs.map (·.1)).headD 0
  r.runs.findSome? fun (i, a, _) => (homeFault s r.owner (isWrite r.op || r.op = .check) a).map fun c => (c, r.va + BitVec.ofNat 64 (i - first))
/-- The cause that a request meets at its home, with its address. -/
def reqFault (s : State) (r : Req) : Option (Nat × W64) :=
  match (if r.vetted then none else pageFault s r) with
  | some e => some e
  | none => (reqBad s r).map fun a => (0x16, a)
/-- The pages of a request are met, and its accesses to them counted. -/
def meetReq (s : State) (r : Req) : State :=
  (pagesOf s r.runs).foldl (fun t p => countAccess (meetPage t p) p (srcDie t r.src) (lines64 (r.runs.filter fun x => pageBase s x.2.1 = p))) s
/-- Some requests have passed their checks: their pages are met, and their accesses counted. -/
def passChecks (s : State) (rs : List Req) : State := rs.foldl (fun s r => setStage (meetReq s r) r.id .checked) s
/-- A plain request at its home: the checks of its bundle's writes, and then what it does. A write to another die performs in a later step than its checks, as a
write that is under way may (13 R240). -/
def arriveReq (s : State) (r : Req) : Out :=
  let home := trueHome s r.page
  if r.page = noPage then .next (performReq s r home)
  else if r.stage = .checked then .next (learnHome (performReq s r home) r)
  else
    let g := writeGroup s r
    if g.any fun q => q.stage = .held then notEnabled "HOME_ACCESS"
    else match g.findSome? fun q => (reqFault s q).map fun x => (q, x) with
      | some (q, c, a) => .next (refuseReq s q c a)
      | none =>
        let t := passChecks s g
        if r.src = .core && isWrite r.op && home != s.l.coord then .next t
        else .next (learnHome (performReq t { r with stage := .checked } home) r)
/-- The k-th request at its home. -/
def accessHome (k : Nat) (s : State) : Out :=
  match s.m.reqs[k]? with
  | none => notEnabled "HOME_ACCESS"
  | some r =>
    if !reqReady s k r then notEnabled "HOME_ACCESS"
    else match r.op with
      | .xlt pin since =>
        (match xltFault s r with
         | some (c, a) => .next (refuseReq s r c a)
         | none => when (xltReady s r pin since) "HOME_ACCESS" (performXlt s r pin))
      | _ => arriveReq s r
/-- HOME_LOOKUP: the directory's answer for the k-th request, the first of its source that waits, once every request of this die to the page has been answered.
Requests that it held go on in their order. -/
def execHomeLookup (k : Nat) (home : Coord) (s : State) : Out :=
  match s.m.reqs[k]? with
  | none => notEnabled "HOME_LOOKUP"
  | some r =>
    when (r.stage = .held && home = trueHome s r.page && !outstanding s r.page && (s.m.reqs.take k).all fun q => q.src != r.src || q.stage != .held) "HOME_LOOKUP"
      (let t := cacheHome s r.page home
       sendHeld t [] t.m.reqs)
/-- The directory of this die records the home of a page. -/
def recordHome (s : State) (ia : Nat) (h : Coord) : State :=
  { s with m := { s.m with dir := (ia, h) :: s.m.dir.filter fun p => p.1 != ia } }
/-- DIRECTORY_QUERY at this die (14 R266): the recorded home is answered, or a new one recorded. -/
def execDirectoryQuery (q : DirQuery) (s : State) : Out :=
  let ia := match q with | .ask ia _ => ia | .update ia _ => ia
  match s.c.tenants.find? fun t => isDirDie t ia s.l.coord with
  | none => notEnabled "DIRECTORY_QUERY"
  | some t =>
    match q with
    | .update ia h => .next (recordHome s ia h)
    | .ask ia die =>
      let h := (lookupDie s.m.dir (pageBase s ia)).getD (trueHome s ia)
      if die = s.l.coord then .next s else .next (sendData s t.mask .memory die (.home ia h))

/-! ### Moves (14 R267 to R269) -/

/-- The counts of a page in the interval that is judged. -/
def countsOf (s : State) (page : Nat) : List Count := s.m.counts.filter fun c => c.page = page && c.at' = s.m.interval
def countFrom (s : State) (page : Nat) (die : Coord) : Nat := (((countsOf s page).find? fun c => c.die = die).map Count.n).getD 0
/-- The die toward which a page is a move candidate. -/
def candidate (s : State) (p : Page) : Option Coord :=
  let cs := countsOf s p.ia
  (cs.find? fun c => c.die != p.home && 4096 ≤ c.n && 2 * countFrom s p.ia p.home < c.n
      && cs.all fun o => o.die = c.die || 2 * o.n < c.n).map Count.die
/-- The judgement of one page at the end of an interval. A move takes its frame at the new home when it begins. -/
def judge (s : State) (p : Page) : State :=
  match candidate s p with
  | none => s
  | some t =>
    let tacked := match p.tack with | none => false | some u => s.tick < u
    if pinned s p || p.st != .resident || freeOf s t < frames p || tacked then s
    else
      let recent := p.moves.filter fun m => elapsed s m < moveWindow
      if 2 ≤ recent.length then
        bumpMigc (setPage s { p with tack := some (recent.headD 0 + BitVec.ofNat 64 tackTime) }) 32 16
      else setFree (setPage s { p with st := .moving t s.tick }) t (freeOf s t - frames p)
/-- MIGRATION_INTERVAL: an interval has ended; every page homed here is judged by the accesses in it. -/
def execMigrationInterval (s : State) : Out :=
  let t := (s.m.pages.filter fun p => p.home = s.l.coord).foldl judge s
  when (s.m.interval < intervalNow s) "MIGRATION_INTERVAL"
    { t with m := { t.m with counts := t.m.counts.filter fun c => c.at' != s.m.interval, interval := s.m.interval + 1 } }
/-- The directory die of a page learns its home (14 R266, R269): this die, or another by a message. -/
def tellDirectory (s : State) (p : Page) (h : Coord) : State :=
  match tenantOf s p.owner with
  | none => recordHome s p.ia h
  | some t => if dirDie t p.ia = s.l.coord then recordHome s p.ia h else sendData s t.mask .memory (dirDie t p.ia) (.directory p.ia h)
/-- A page is at rest in a frame that its home has given it: which one, the spec leaves to the device. -/
def inFrame (s : State) (p : Page) : State :=
  setPage { s with fresh := s.fresh + 1 } { p with st := .resident, frame := Config.freeFrame s.fresh }
/-- The declared blocks without those over a page: its sectors are written back as it leaves the die (14 R260, R262). -/
def dropBlocks (bs : List (W64 × Nat)) (p : Page) : List (W64 × Nat) :=
  bs.filter fun b => b.1.toNat + 256 * b.2 ≤ iaBase + p.ia || iaBase + p.ia + pageSize p ≤ b.1.toNat
/-- PAGE_MOVE_COMPLETE: the page is at its new home, the directory is updated, and the held requests go on. -/
def execPageMoveComplete (ia : Nat) (s : State) : Out :=
  match s.m.pages.find? fun p => p.ia = ia with
  | none => notEnabled "PAGE_MOVE_COMPLETE"
  | some p =>
    match p.st with
    | .moving t since =>
      let u := inFrame s { p with home := t, moves := (p.moves ++ [since]).drop (p.moves.length - 1) }
      let u := if p.home = s.l.coord then bumpMigc { u with m := { u.m with blocks := dropBlocks u.m.blocks p } } 0 32 else u
      let u := setFree u p.home (freeOf u p.home + frames p)
      .next (tellDirectory u p t)
    | _ => notEnabled "PAGE_MOVE_COMPLETE"

/-! ### The host tier (27 R427) -/

def holdsRegion (s : State) (owner : BitVec 16) : Bool := s.h.regions.any fun r => r.2.owner = owner
/-- Whether an access has met a page that has still to perform there: its checks have passed, or it stands in the gate of a run-ahead. The page is not offloaded
before (14 R269, DESIGN CHOICE, log 29). -/
def awaited (s : State) (p : Page) : Bool :=
  (s.m.reqs.any fun r => reqOn s r p.ia && (r.stage = .checked || r.vetted)) ||
  s.f.gate.any fun g => iaBase ≤ g.key && p.ia ≤ g.key - iaBase && g.key - iaBase < p.ia + pageSize p
/-- A page that the command processor may offload. -/
def offloadable (s : State) (p : Page) : Bool :=
  p.home = s.l.coord && p.st = .resident && !pinned s p && !awaited s p && holdsRegion s p.owner
def inRegion (g : Nat) (p : Page) : Option Nat :=
  match p.st with
  | .offloading r o => if r = g then some o else none
  | .offloaded r o => if r = g then some o else none
  | .returning r o => if r = g then some o else none
  | _ => none
/-- Whether an extent of a region is free. -/
def extentFree (s : State) (g off n : Nat) : Bool :=
  s.m.pages.all fun p => match inRegion g p with | none => true | some o => o + pageSize p ≤ off || off + n ≤ o
/-- Free frames below 1/16 of the frames (14 R263). -/
def framesLow (s : State) : Bool := 16 * freeOf s s.l.coord < s.h.channels * 32768
/-- The flits of 128 bytes in which a page of some bytes goes to the anchor die, or comes from there. -/
def tierFlits (s : State) (dest : Coord) (ia n : Nat) (out : Bool) : State :=
  (List.range (n / 128)).foldl (fun s k => sendData s 7 .memory dest (.tier ia k out)) s
/-- Whether flits of a page on its way to the host have still to reach the next die. -/
def tierLeft (s : State) (ia : Nat) : Bool :=
  let mine (f : Flit) : Bool := f.orig = s.l.coord && match f.body with | .tier a _ _ => a = ia | _ => false
  s.l.ports.any fun p => (p.2.outq.any fun x => mine x.2) || p.2.replay.any mine
/-- OFFLOAD_START. The ciphertext of a page at another die than the anchor goes there in flits, for the host (00 R5). A request of MGWR stands until one offload has been started for it: DESIGN CHOICE (log 26). -/
def execOffloadStart (ia region off : Nat) (s : State) : Out :=
  match s.m.pages.find? (fun p => p.ia = ia), mapFind s.h.regions region with
  | some p, some g =>
    when ((framesLow s || s.m.offloadAsked) && offloadable s p && g.owner = p.owner && !regionLost s region
        && off % 0x10000 = 0 && off + pageSize p ≤ g.len && extentFree s region off (pageSize p)
        && s.m.pages.all fun q => !offloadable s q || p.used ≤ q.used) "OFFLOAD_START"
      (let t := setPage s { p with st := .offloading region off }
       let t := if byAnchor s p then tierFlits t (dieOf s 0) ia (pageSize p) true else t
       { t with m := { t.m with offloadAsked := t.m.offloadAsked && framesLow s } })
  | _, _ => notEnabled "OFFLOAD_START"
/-- OFFLOAD_COMPLETE: the copy has left this die, and the host has it. -/
def execOffloadComplete (ia : Nat) (s : State) : Out :=
  match s.m.pages.find? fun p => p.ia = ia with
  | none => notEnabled "OFFLOAD_COMPLETE"
  | some p =>
    match p.st with
    | .offloading g o =>
      when (!awaited s p && !tierLeft s ia) "OFFLOAD_COMPLETE" (setFree (setPage s { p with st := .offloaded g o }) p.home (freeOf s p.home + frames p))
    | _ => notEnabled "OFFLOAD_COMPLETE"
/-- The RDMA READ of a returning page ends: into a free frame, once all of it has come by the anchor die, or refused by the host, which loses the region. -/
def execReturnComplete (ia : Nat) (ok : Bool) (s : State) : Out :=
  match s.m.pages.find? fun p => p.ia = ia with
  | none => notEnabled "RETURN_COMPLETE"
  | some p =>
    match p.st with
    | .returning g o =>
      if ok then
        when (frames p ≤ freeOf s p.home && (!byAnchor s p || pageSize p / 128 ≤ mapGet 0 s.m.tier ia)) "RETURN_COMPLETE"
          (setFree (inFrame { s with m := { s.m with tier := mapPut 0 s.m.tier ia 0 } } p) p.home (freeOf s p.home - frames p))
      else
        let t := setPage s { p with st := .offloaded g o }
        .next { t with h := { t.h with lost := if t.h.lost.contains g then t.h.lost else t.h.lost ++ [g] } }
    | _ => notEnabled "RETURN_COMPLETE"
/-- A region is lost: every page that is being returned from it goes back to OFFLOADED. -/
def execRegionLost (r : Nat) (s : State) : Out :=
  let back (p : Page) : Page := match p.st with | .returning g o => if g = r then { p with st := .offloaded g o } else p | _ => p
  when (mapHas s.h.regions r && !regionLost s r) "REGION_LOST"
    { s with h := { s.h with lost := s.h.lost ++ [r] }, m := { s.m with pages := s.m.pages.map back } }

end Sys2Proof.Machine
end

