-- ==== Sys2Proof/Machine/Engine.lean ====
section
/-! DEFINITION. What every engine instruction shares (09 R167 to R169): the places of its runs, its command, and an engine's reads and writes of memory
and of register windows, with the causes that a home raises (14 R257, R258, R265). -/

namespace Sys2Proof.Machine

/-! ### Places -/

/-- The whole nest of a generator; its indices end where they began (05 R108). -/
def genNest (s : State) (n : Nat) : List W64 × State := genTake s n (genTotal (gen s n))
/-- The pieces of a run of n bytes for an engine of this core. -/
def runPieces (s : State) (n : Nat) (va : W64) (run : Nat) : List Piece :=
  ((unitParts s true va n).getD []).map fun p => ⟨run, p.off, p.va, p.tgt.key, p.len⟩
/-- The pieces of runs of n bytes: all of one step of 14 R254; a range fault before an alignment fault (09 R169). -/
def locsOf (s : State) (n align : Nat) (vas : List W64) : Except (Nat × W64) (List Piece) :=
  match rangeFault (fun a => unitParts s true a n) vas with
  | some a => .error (0x10, a)
  | none => match vas.find? fun a => a.toNat % align != 0 with
    | some a => .error (0x11, a)
    | none => .ok (vas.zipIdx.flatMap fun (a, i) => runPieces s n a i)
/-- A place in the own scratchpad: its address is a scratchpad address even where no byte is read. -/
def spadLoc (s : State) (n align : Nat) (va : W64) : Except (Nat × W64) Piece :=
  if !spadOk s va.toNat (max 1 n) then .error (0x10, va)
  else if va.toNat % align != 0 then .error (0x11, va)
  else .ok ⟨0, 0, va, va.toNat, n⟩

/-! ### Commands -/

/-- Commands of an engine that have not started: a buffer of the copy engine, timed or not, is full at a bound (09 R168, R173). Whether a command that has started
still takes a place is not said: DESIGN CHOICE, it takes none (log 29). -/
def bufferFull (s : State) (e : Engine) (timed : Bool) : Bool :=
  e = .copy && (if timed then 64 else 32) ≤
    (s.e.cmds.filter fun c => c.eng = .copy && !c.active && c.time.isSome = timed).length
/-- A command of the executing slot: KP becomes pending (09 R167). -/
def pushCmd (s : State) (e : Engine) (kp : BitVec 6) (ks : List Nat) (work : Work) (time : Option W64) (active : Bool) : State :=
  let needs := needsOf s ks
  let (prod, s) := produce s kp.toNat
  { s with e := { s.e with nextId := s.e.nextId + 1, cmds := s.e.cmds ++
      [⟨s.e.nextId, e, s.f.cur.k, s.f.cur.bsn, s.f.cur.pc, work, kp.toNat, prod, needs, s.f.cur.rw, time, active, none, none, none, none, .none⟩] } }
/-- An engine instruction whose q is false issues nothing: its token completes after those that it names (01 R17). -/
def pushNull (s : State) (kp : BitVec 6) (ks : List Nat) : Out := .next (pushCmd s .sync kp ks .null none true)
/-- The issue of an engine instruction: its work, from the state, or the fault of its checks. -/
def submit (o : ENG) (e : Engine) (time : Option W64) (work : State → Except (Nat × W64) (Work × State)) (s : State) : Out :=
  if !s.f.cur.q then pushNull s o.kp o.consumed
  else if bufferFull s e time.isSome then stall s
  else match work s with
    | .error (c, a) => .next (raiseR s c 0 a)
    | .ok (w, t) => .next (pushCmd t e o.kp o.consumed w time false)
def setCmd (s : State) (c : Cmd) : State :=
  { s with e := { s.e with cmds := s.e.cmds.map fun d => if d.id = c.id then c else d } }

/-! ### An engine's reads -/

/-- The window of the own core (14 R257). -/
def ownWin (s : State) : Nat := windowBase + 2 ^ 24 * s.x.coreid.toNat
def setByteN {n : Nat} (x : BitVec n) (i : Nat) (b : Byte) : BitVec n :=
  merge x (BitVec.ofNat n (b.toNat <<< (8 * i))) (BitVec.ofNat n (255 <<< (8 * i)))
/-- The bytes that engines are writing and that a read finds already (13 R246). -/
def bytesAhead (s : State) : List (Nat × Byte) := s.e.cmds.flatMap fun c => c.xf.segs.flatMap fun g => g.flatMap Sect.ahead
/-- An accumulator as a read of it finds it: while an engine writes a sector of it, the old or the new value byte by byte (13 R246). -/
def accSeen (s : State) (n : Nat) : AccImg :=
  let lo := ownWin s + 0x180000 + 16384 * n
  (bytesAhead s).foldl (fun x p => if lo ≤ p.1 && p.1 < lo + 16384 then setByteN x (p.1 - lo) p.2 else x) (acc s n)
/-- One byte as an engine reads it: memory, or a register of this core through its window; an accumulator with an open chain shows a free
value (18 R319). -/
def engByte (s : State) (key : Nat) : Byte :=
  let off := key - ownWin s
  if key < ownWin s || 0x1A0000 ≤ off || off < 0x100000 then readByte s.m.cells key
  else if off < 0x160000 then BitVec.ofNat 8 (lane (vreg s ((off - 0x100000) / 2048)) 8 (off % 2048))
  else
    let a := (off - 0x180000) / 16384
    let b := off % 16384
    if (chain s a).isSome then BitVec.ofNat 8 (lane (Config.windowWord s.fresh (4096 * a + b / 4)) 8 (b % 4))
    else BitVec.ofNat 8 (lane (accSeen s a) 8 b)
def engBytes (s : State) (p : Piece) : List Byte := (List.range p.len).map fun i => engByte s (p.key + i)

/-! ### An engine's writes -/

/-- An engine is about to write element i of an accumulator: the steps in flight into it may land on what it held before (18 R319). -/
def overStep (old : BitVec 32) (seg : Option (Nat × BitVec 32)) (n i : Nat) (x : MStep) : MStep :=
  if x.acc = n && !x.shadow && x.lo ≤ i / 64 && i / 64 < x.hi then { x with prior := x.prior ++ [(i, old, seg)] } else x
/-- Where the segment of an element begins that an engine has written in the present segment of its accumulator's chain. -/
def segOf (s : State) (n i : Nat) : Option (Nat × BitVec 32) :=
  match chain s n with | some (.mms _ _ segs) => lookupN segs i | _ => none
/-- An element's segment is made to begin after some contributions with a value, or again where that of the accumulator does. -/
def setSeg (segs : List (Nat × Nat × BitVec 32)) (i : Nat) (seg : Option (Nat × BitVec 32)) : List (Nat × Nat × BitVec 32) :=
  segs.filter (fun p => p.1 != i) ++ (seg.map fun p => (i, p)).toList
def overwrite (s : State) (n i : Nat) : State :=
  { s with f := { s.f with steps := s.f.steps.map (overStep (accGet (acc s n) (i / 64) (i % 64)) (segOf s n i) n i) } }
/-- One byte of memory or of a vector register written by an engine. No journal keeps what it replaces (05 R121). -/
def engPut (s : State) (key : Nat) (b : Byte) : State :=
  let off := key - ownWin s
  if key < ownWin s || 0x160000 ≤ off || off < 0x100000 then putBytes s key [b]
  else
    let n := (off - 0x100000) / 2048
    { s with r := { s.r with v := mapPut 0 s.r.v n (setByteN (vreg s n) (off % 2048) b) } }
/-- Bytes of element i of accumulator n written by an engine, together (18 R319). An element that an engine writes while a chain is
open goes on from the engine's value: 18 R320 does not say what the fold of a chain makes of such an element: DESIGN CHOICE (log 9). -/
def engPutElem (s : State) (n i : Nat) (bs : List (Nat × Byte)) : State :=
  let x := bs.foldl (fun x p => setByteN x (4 * i + p.1) p.2) (acc s n)
  let t := setAcc (overwrite s n i) n x
  match chain s n with
  | some (.mms start adds segs) =>
    { t with r := { t.r with chains := mapIns t.r.chains n (.mms start adds (setSeg segs i (some (adds.length, accGet x (i / 64) (i % 64))))) } }
  | _ => t
/-- Whether a place lies in an accumulator of this core. -/
def inAccWindow (s : State) (key : Nat) : Bool := ownWin s + 0x180000 ≤ key && key < ownWin s + 0x1A0000
/-- Bytes written by an engine: byte after byte, of an accumulator element after element. -/
def engPuts (s : State) (key : Nat) (bs : List Byte) : State :=
  let b := key - ownWin s - 0x180000
  if inAccWindow s key then
    (List.range ((b % 4 + bs.length + 3) / 4)).foldl (fun s j =>
      let e := b / 4 + j
      engPutElem s (e / 4096) (e % 4096) ((bs.zipIdx.filter fun x => (b + x.2) / 4 = e).map fun x => ((b + x.2) % 4, x.1))) s
  else bs.zipIdx.foldl (fun s (b, i) => engPut s (key + i) b) s

/-! ### Homes of pieces -/

/-- The home die of a place. -/
def homeOf (s : State) (key : Nat) : Coord := if key < iaBase then s.l.coord else homeOfPage s (pageBase s (key - iaBase))
/-- An uncorrectable error in the bytes that a transfer reads (08 R165). -/
def errorIn (s : State) (write : Bool) (va : W64) (key n : Nat) : Option (Nat × W64) :=
  if write then none else (badIn s key n).map fun i => (0x16, va + BitVec.ofNat 64 i)
/-- Whether a key lies in the window of a core that no longer runs the kernel (14 R258). -/
def inGoneWindow (s : State) (key : Nat) : Bool := windowBase ≤ key && s.m.gone.getLsbD ((key - windowBase) / 2 ^ 24)
/-- The cause that the home of a piece or its window raises, with the address of the first byte that fails. -/
def locFault (s : State) (write : Bool) (p : Piece) : Option (Nat × W64) :=
  if p.key < iaBase then
    if inGoneWindow s p.key then some (0x17, p.va) else errorIn s write p.va p.key p.len
  else (cutRun 0 (p.key - iaBase) p.len).findSome? fun (i, a, m) =>
    let va := p.va + BitVec.ofNat 64 i
    match homeFault s s.kn.owner write a with
    | some c => some (c, va)
    | none => errorIn s write va (iaBase + a) m
/-- The cause that a read of a piece raises where its data come from elsewhere: that of its home or window alone (19 R335). -/
def placeFault (s : State) (p : Piece) : Option (Nat × W64) := locFault { s with m := { s.m with bad := [] } } false p
/-- Whether a page of a piece is on its way to another home: its accesses wait (14 R269). -/
def locMoving (s : State) (p : Piece) : Bool :=
  iaBase ≤ p.key && (cutRun 0 (p.key - iaBase) p.len).any fun (_, a, _) => moving s a
/-- A home sees an access to a piece: of the accesses of 64 bytes that its run makes, those that begin in it count (14 R267). -/
def meetLoc (s : State) (p : Piece) : State :=
  if p.key < iaBase then s
  else (cutRun 0 (p.key - iaBase) p.len).foldl (fun s (i, a, m) =>
    countAccess (meetPage s a) (pageBase s a) s.l.coord (lines64 [(i, a, m)] - (if p.off != 0 && 32 ≤ a % 64 then 1 else 0))) s
/-- The parts of a piece that lie in one sector of 32 bytes each (13 R248). -/
def cutSectors (p : Piece) : List Piece :=
  if p.len = 0 then []
  else (List.range ((p.key + p.len - 1) / 32 - p.key / 32 + 1)).map fun j =>
    let lo := max p.key (32 * (p.key / 32 + j))
    let hi := min (p.key + p.len) (32 * (p.key / 32 + j + 1))
    ⟨p.run, p.off + (lo - p.key), p.va + BitVec.ofNat 64 (lo - p.key), lo, hi - lo⟩
/-- Whether a place lies in the registers of this core, which an engine writes byte by byte (13 R246). -/
def inRegs (s : State) (key : Nat) : Bool := ownWin s + 0x100000 ≤ key && key < ownWin s + 0x1A0000
/-- Whether a place lies in the registers of some core, which are no memory and have no home (13 R235, 14 R257). -/
def isRegKey (key : Nat) : Bool := windowBase ≤ key && key < windowBase + 0x40000000 && spadSize ≤ key % 2 ^ 24
/-- Whether a line of a piece is empty (05 R113). -/
def locEmpty (s : State) (p : Piece) : Bool :=
  !s.m.empties.isEmpty && (List.range p.len).any fun i => isEmptyLine s (p.key + i)

end Sys2Proof.Machine
end

