-- ==== Sys2Proof/Machine/Matrix.lean ====
section
/-! DEFINITION. The matrix slot without filet mode (16, 18): operands of a step, its contribution, the matrix issue cycle, chains, claims,
scale bindings and drains. -/

namespace Sys2Proof.Machine

/-! ### Operands (16 R293, R294, 15 R280, R281) -/

/-- The K step of A's format. -/
def kStep (af : Nat) : Nat := if af = 1 || af = 2 then 64 else if af = 5 then 256 else 128
/-- The other format of A's width. -/
def altFmt (af : Nat) : Nat := match af with | 1 => 2 | 2 => 1 | 3 => 4 | _ => 3
/-- The formats of A and B of a step; B's is not used with a codebook. -/
def stepFmts (o : RRR) (fmtr : BitVec 32) : Nat × Nat :=
  let af := efIn o.ef (mafmt fmtr)
  (af, if o.bsel = 0 then (if o.ef = 15 then mbfmt fmtr else af) else altFmt af)
/-- k elements of a format from a row's image. -/
def rowNums (ef k row : Nat) : List Num := (List.range k).map fun i => numOf ef (laneN row (widthOf ef) i)
/-- The weights of one codebook index: magnitude m of the row's word, halved and doubled exactly. -/
def cbWeights (cb : BitVec 2048) (idx : Nat) : List Num :=
  let word := lane cb 32 (idx / 4 % 64)
  let h := idx / 2 % 2
  let d := idx % 2
  (List.range 8).map fun j => .fin (idx.testBit (8 + j)) ((2 * (laneN word 4 j % 8) + h) * (1 + d)) (-1)
def cbRow (cb : BitVec 2048) (row : Nat) : List Num := (List.range 16).flatMap fun q => cbWeights cb (laneN row 16 q)
/-- The 64 rows of an operand slot. -/
def slotRows (x : OpImg) : List Nat := (List.range 64).map fun p => laneN x.toNat 1024 p
/-- A transposed operand: row p takes element p of each source row. -/
def transRows (ef : Nat) (src : List Nat) : List (List Num) :=
  (List.range 64).map fun p => src.map fun r => numOf ef (laneN r (widthOf ef) p)

/-! ### Block scales (15 R279, R283, R284, 16 R298, R299) -/

def isPow2 (n : Nat) : Bool := n != 0 && 2 ^ Nat.log2 n = n
/-- Whether a rectangle fits an operand's K step. -/
def rectOk (b : Binding) (k : Nat) : Bool := isPow2 b.r && isPow2 b.c && b.r * b.c = k && 8 ≤ b.c
def scaleNum (code x : Nat) : Num :=
  if code = 1 then (if x = 255 then .nan else .fin false 1 (Int.ofNat x - 127))
  else if 128 ≤ x then .nan else e4m3.value x
/-- The address of the scale byte of a block. -/
def scaleVa (b : Binding) (bp bk : Nat) : W64 :=
  b.base + BitVec.ofNat 64 b.n * b.s3.signExtend 64 + BitVec.ofNat 64 bp * b.s2.signExtend 64 + BitVec.ofNat 64 bk
/-- The 64 blocks of an operand. -/
def scaleVas (b : Binding) (k : Nat) : List W64 :=
  (List.range (64 / b.r)).flatMap fun bp => (List.range (k / b.c)).map fun bk => scaleVa b bp bk
/-- A binding in use: a code other than 0, for an operand with block scales. -/
def bindUsed (b : Binding) (ef : Nat) : Bool := b.code != 0 && ef != 1 && ef != 2
/-- The scale of row p in the sub-block that begins at element k. -/
def scaleAt (s : State) (b : Binding) (used : Bool) (p k : Nat) : Num :=
  if used then scaleNum b.code (readByte s.m.cells (scaleVa b (p / b.r) (k / b.c)).toNat).toNat else .fin false 1 0

/-! ### The contribution of a step (15 R284, R285) -/

def chunks (g : Nat) : Nat → List Num → List (List Num)
  | 0, _ => []
  | n + 1, l => l.take g :: chunks g n (l.drop g)
/-- The product of two integers: its zero has no sign (15 R276). -/
def intMul (x y : Num) : Num := let p := Num.mul x y; if p.isZero then .fin false 0 0 else p
/-- C of one output: every product, scale and sum exact, one rounding. -/
def outputC (mul : Num → Num → Num) (as bs : List (List Num)) (sa sb : List Num) : BitVec 32 :=
  let ps := List.zipWith (fun x y => Num.sum (List.zipWith mul x y)) as bs
  let ss := List.zipWith Num.mul sa sb
  BitVec.ofNat 32 (fp32.round 0 (Num.sum (List.zipWith Num.mul ps ss)))
/-- All 64 × 64 contributions. -/
def contribution (mul : Num → Num → Num) (a b : List (List Num)) (sa sb : Nat → List Num) (g k : Nat) : AccImg :=
  let n := k / g
  let ar := a.map (chunks g n)
  let br := b.map (chunks g n)
  let sas := (List.range 64).map sa
  let sbs := (List.range 64).map sb
  accOf fun i j => outputC mul (ar.getD i []) (br.getD j []) (sas.getD i []) (sbs.getD j [])

/-! ### Matrix issue cycles (16 R288, R289) -/

/-- Whether the array works a beat in the cycle that has begun. -/
def arrayBusy (s : State) : Bool := s.f.steps.any fun x => 0 < x.beats
/-- The values of an element that engines wrote while a step was in flight, from the oldest, without the present one (18 R319). -/
def priorsOf (x : MStep) (i : Nat) : List (BitVec 32 × Option (Nat × BitVec 32)) := x.prior.filterMap fun p => if p.1 = i then some p.2 else none
/-- The place of the value on which a step lands, freely, among those and the present one. -/
def landsOn (s : State) (x : MStep) (i : Nat) : Nat := Config.landsOn s.fresh i % ((priorsOf x i).length + 1)
/-- The value on which a step lands, with its segment, where it is not the present one. -/
def pickPrior (s : State) (x : MStep) (i : Nat) : Option (BitVec 32 × Option (Nat × BitVec 32)) := (priorsOf x i)[landsOn s x i]?
/-- An accumulator as a step finds it when it lands (18 R319). -/
def foundAcc (s : State) (x : MStep) : AccImg :=
  if x.prior.isEmpty then acc s x.acc
  else accOf fun r c => ((pickPrior s x (64 * r + c)).map Prod.fst).getD (accGet (acc s x.acc) r c)
/-- Rows lo to hi − 1 of an accumulator after a step lands. -/
def landRows (old val : AccImg) (zero : Bool) (lo hi : Nat) : AccImg :=
  accOf fun r c =>
    if lo ≤ r && r < hi then (if zero then accGet val r c else acc32 (accGet old r c) (accGet val r c)) else accGet old r c
/-- The elements of its accumulator that engines wrote while a step was in flight. -/
def writtenOf (x : MStep) : List Nat := (x.prior.map Prod.fst).eraseDups
/-- The chain of an accumulator after a step lands in it: only an MMZ begins a segment (18 R320). An element that the step found at an earlier value has the
segment that goes with it. -/
def chainLand (s : State) (x : MStep) (now : AccImg) : Option Chain :=
  match chain s x.acc with
  | some (.mms start adds segs) =>
    if x.filet then chain s x.acc else if x.zero then some (.mms now [] [])
    else some (.mms start (adds ++ [x.val]) ((writtenOf x).foldl (fun o i => match pickPrior s x i with | some p => setSeg o i p.2 | none => o) segs))
  | c => c
/-- A later step into the accumulator in which x lands: where x landed on a value before some engines' writes, those may still come behind x, and
the later step lands on one of their values or on what x left; where x landed on the present value, so does the later one on what x made of it. -/
def behindStep (s : State) (x y : MStep) : MStep :=
  let n := match chain s x.acc with | some (.mms _ adds _) => if x.zero then 0 else adds.length + 1 | _ => 0
  let after (i : Nat) : List (Nat × BitVec 32 × Option (Nat × BitVec 32)) :=
    let xs := priorsOf x i
    let ys := priorsOf y i
    if xs.isEmpty then ys.map fun p => (i, p)
    else if landsOn s x i = xs.length then []
    else ((ys.map Prod.fst).drop (landsOn s x i + 1 + ys.length - xs.length) ++ [accGet (acc s x.acc) (i / 64) (i % 64)]).map fun v => (i, v, some (n, v))
  if y.acc != x.acc then y else { y with prior := (writtenOf y).flatMap after }
/-- A step lands. -/
def landStep (s : State) (x : MStep) : State :=
  if x.shadow then s
  else
    let now := landRows (foundAcc s x) x.val x.zero x.lo x.hi
    let t := setAcc (if x.prior.isEmpty then s
      else { s with fresh := s.fresh + 1, f := { s.f with steps := s.f.steps.map (behindStep s x) } }) x.acc now
    match chainLand s x now with
    | none => t
    | some c => { t with r := { t.r with chains := mapIns t.r.chains x.acc c } }
/-- One matrix issue cycle begins: each step comes one cycle nearer, and those that are due land. -/
def mxCycle (s : State) : State :=
  let st := s.f.steps.map fun x => { x with left := x.left - 1, beats := x.beats - 1 }
  let t := { s with f := { s.f with steps := st.filter fun x => x.left != 0 } }
  (st.filter fun x => x.left = 0).foldl landStep t
/-- Whether CHE on an accumulator waits for a step (16 R290). -/
def cheWaits (s : State) (d : Nat) : Bool := s.f.steps.any fun x => x.acc = d
/-- Whether OREL of a slot waits for a step of a lower BSN (16 R291). -/
def orelWaits (s : State) (n bsn : Nat) : Bool := s.f.steps.any fun x => x.reads.contains n && 0 < x.beats && x.bsn < bsn

/-! ### What the rewrite stage made of the executing slot -/

def cancelled (s : State) : Option (Bool × Nat) :=
  match s.f.cur.rw with | some ⟨_, _, .cancelled k t⟩ => some (k, t) | _ => none
def replaced (s : State) (template : Nat) : Option Nat :=
  match s.f.cur.rw with | some ⟨_, _, .replaced t u⟩ => if t = template then some u else none | _ => none
/-- What a cancelled instruction captured for its replacement. -/
def keptOf (s : State) (u : Nat) : List (Nat × Byte) := (lookupN s.f.kept u).getD []
def keep (s : State) (u : Nat) (l : List (Nat × Byte)) : State := { s with f := { s.f with kept := (u, l) :: s.f.kept } }
def accBytes (a : AccImg) : List Byte := (List.range 16384).map fun i => BitVec.ofNat 8 (lane a 8 i)
/-- The n bytes kept from the i-th on. -/
def keptNat (l : List (Nat × Byte)) (i n : Nat) : Nat := leNat (((l.drop i).take n).map Prod.snd)
/-- The last row of n bytes that a cancelled TRN kept for an address, as it read it (19 R328). -/
def keptRow (l : List (Nat × Byte)) (key n : Nat) : Option (List Byte) :=
  (List.range (l.length / n)).foldl (fun r j => let row := (l.drop (n * j)).take n; if row.head?.map Prod.fst = some key then some (row.map Prod.snd) else r) none
/-- n bytes from a place: the row that a cancelled TRN kept for it, else memory. -/
def readKept (s : State) (l : List (Nat × Byte)) (key n : Nat) : List Byte := (keptRow l key n).getD (readBytes s.m.cells key n)

/-! ### Steps (16 R295 to R299) -/

/-- The banks of each group of 16 rows are pairwise different (16 R297). -/
def banksOk : Nat → List W64 → Bool
  | 0, _ => true
  | n + 1, l => decide ((l.take 16).map fun a => a.toNat / 16 % 256).Nodup && banksOk n (l.drop 16)
/-- The cause of a transposed read: a byte of any row that is out of range before a row that is not aligned, and that before a bank conflict. 16 R296 and R297 give these
causes no order: DESIGN CHOICE (log 29). -/
def transCheck (s : State) (vas : List W64) (w : Nat) : Option (Nat × W64) :=
  if vas.isEmpty then some (0x08, 0)
  else match vas.find? fun a => !spadOk s a.toNat (64 * w) with
    | some a => some (0x10, a)
    | none => match vas.find? fun a => a.toNat % 16 != 0 with
      | some a => some (0x11, a)
      | none => if banksOk 16 vas then none else some (0x0A, 0)
/-- The rows that one operand takes from memory, with the state after its generator. -/
def transVas (s : State) (t : Bool) (n : BitVec 8) (k : Nat) : List W64 × State :=
  if t then genAddrs s n.toNat k else ([], s)
def slotClaimed (s : State) (t : Bool) (n : BitVec 8) : Bool := t || claimed s n.toNat
/-- The scale bindings of the executing step. -/
def bindings (s : State) : Binding × Binding := s.f.cur.binds.getD (s.r.bindA, s.r.bindB)
/-- The first cause that a step raises at issue (16 R295): claims, chain, rectangles and their bytes, transposed reads. 16 R295 gives the check for an
open chain no place among the others: it stands behind the claims and before the rectangles; and of two scale bindings, or two transposed reads, operand A's is checked before operand B's: DESIGN
CHOICE (log 29). -/
def stepCause (s : State) (o : RRR) (k : Nat) (ua ub : Bool) (va vb : List W64) (w : Nat) : Option (Nat × W64) :=
  let b := bindings s
  let scale (u : Bool) (x : Binding) : Option (Nat × W64) :=
    if !u then none else if !rectOk x k then some (0x08, 0)
    else ((scaleVas x k).find? fun a => !spadOk s a.toNat 1).map fun a => (0x10, a)
  let tr (t : Bool) (l : List W64) : Option (Nat × W64) := if t then transCheck s l w else none
  if !slotClaimed s o.ta o.a || !slotClaimed s o.tb o.b then some (0x08, 0)
  else match chain s o.d.toNat with
    | some (.mms ..) =>
      (scale ua b.1).or ((scale ub b.2).or ((tr o.ta va).or (tr o.tb vb)))
    | _ => some (0x0B, 0)
/-- Whether a step waits on an empty line, of a transposed row or of a scale byte (05 R113). A line that a cancelled TRN has written in shadow is
full for its replacement (19 R332). -/
def stepWaits (s : State) (k : Nat) (ua ub : Bool) (va vb : List W64) (w : Nat) : Bool :=
  let b := bindings s
  let made : List Nat := match replaced s 1 with | some u => (keptOf s u).map fun (p : Nat × Byte) => lineOf p.1 | none => []
  let empty (key : Nat) : Bool := isEmptyLine s key && !made.contains (lineOf key)
  let scales (u : Bool) (x : Binding) : Bool := u && (scaleVas x k).any fun a => empty a.toNat
  !s.m.empties.isEmpty &&
    (scales ua b.1 || scales ub b.2 || (va ++ vb).any fun a => (List.range (64 * w)).any fun i => empty (a.toNat + i))
/-- The address of the first byte with an uncorrectable error that a step reads (08 R165); what a cancelled TRN kept is not read from memory. -/
def stepBad (s : State) (k : Nat) (ua ub : Bool) (va vb : List W64) (w : Nat) : Option W64 :=
  let b := bindings s
  let kept := match replaced s 1 with | some u => keptOf s u | none => []
  let scales (u : Bool) (x : Binding) : List W64 := if u then scaleVas x k else []
  if s.m.bad.isEmpty then none
  else ((scales ua b.1 ++ scales ub b.2).find? fun a => (badIn s a.toNat 1).isSome).or
    ((va ++ vb).findSome? fun a => ((List.range (64 * w)).find? fun i =>
      (lookupN kept (a.toNat + i)).isNone && (badIn s (a.toNat + i) 1).isSome).map fun i => a + BitVec.ofNat 64 i)
/-- An operand's rows as numbers. -/
def operand (s : State) (t : Bool) (n : BitVec 8) (ef k : Nat) (vas : List W64) : List (List Num) :=
  if t then
    let kept := match replaced s 1 with | some u => keptOf s u | none => []
    transRows ef (vas.map fun a => leNat (readKept s kept a.toNat (8 * widthOf ef)))
  else (slotRows (oslot s n.toNat)).map (rowNums ef k)
/-- The steps of one binding counted up. -/
def bumpN (b : Binding) : Binding := { b with n := b.n + 1 }
def bumpBinds (s : State) (ua ub : Bool) : State :=
  if s.f.cur.binds.isSome then s
  else
    let t := if ua then setBindA s (bumpN s.r.bindA) else s
    if ub then setBindB t (bumpN t.r.bindB) else t
/-- RNE_FP32 of two contributions, element by element. -/
def addAcc (x y : AccImg) : AccImg := accOf fun r c => acc32 (accGet x r c) (accGet y r c)
/-- The contribution that a step makes from its operands. -/
def stepC (s : State) (o : RRR) (af bf k : Nat) (ua ub : Bool) (va vb : List W64) : AccImg :=
  let b := bindings s
  let a := operand s o.ta o.a af k va
  let bb := if o.bsel = 1 then (slotRows (oslot s o.b.toNat)).map (cbRow (codebook s o.c.toNat)) else operand s o.tb o.b bf k vb
  let ca := if ua then b.1.c else k
  let cb := if ub then b.2.c else k
  let g := min ca cb
  let ks := (List.range (k / g)).map fun i => g * i
  contribution (if af = 6 && bf = 6 && o.bsel != 1 then intMul else .mul) a bb (fun p => ks.map (scaleAt s b.1 ua p)) (fun p => ks.map (scaleAt s b.2 ub p)) g k
/-- MMS and MMZ. -/
def execStep (zero : Bool) (o : RRR) (s : State) : Out :=
  if !s.f.cur.q then .next s
  else if arrayBusy s then stall s
  else
    let (af, bf) := stepFmts o s.f.cur.fmtr
    let k := kStep af
    let ua := bindUsed (bindings s).1 af
    let ub := bindUsed (bindings s).2 (if o.bsel = 1 then 3 else bf)
    let w := widthOf af / 8
    let (va, t) := transVas s o.ta o.a k
    let (vb, t) := transVas t o.tb o.b k
    match stepCause s o k ua ub va vb w with
    | some (c, a) => .next (raiseR s c 0 a)
    | none =>
      if stepWaits s k ua ub va vb w then hold (startWait s)
      else if (stepBad s k ua ub va vb w).isSome then .next (raiseR s 0x16 0 ((stepBad s k ua ub va vb w).getD 0))
      else
        let c := stepC s o af bf k ua ub va vb
        let x : MStep := { acc := o.d.toNat, bsn := s.f.cur.bsn, filet := false, zero := zero, lo := 0, hi := 64
                           val := match replaced s 4 with
                             | some u => addAcc (BitVec.ofNat 131072 (keptNat (keptOf s u) 0 16384)) c
                             | none => c
                           left := 40, beats := 32
                           reads := (if o.ta then [] else [o.a.toNat]) ++ (if o.tb then [] else [o.b.toNat])
                           cb := if o.bsel = 1 then some o.c.toNat else none, kn := none
                           shadow := (cancelled s).isSome, prior := [] }
        let t := bumpBinds t ua ub
        let t := if (cancelled s).isSome then keep t (slotId s.f.cur.bsn s.f.cur.k) ((List.range 16384).zip (accBytes c)) else t
        .next (endWait { t with f := { t.f with steps := t.f.steps ++ [x] } } 3 s.f.cur.bsn)
def execMms (o : RRR) (s : State) : Out := execStep false o s
def execMmz (o : RRR) (s : State) : Out := execStep true o s

/-! ### Chains and claims (16 R290, R291) -/

def execChb (o : RRR) (s : State) : Out :=
  ifQ s fun s =>
    let d := o.d.toNat
    if (chain s d).isSome then raiseR s 0x0B 0 0 else setChain s d (some (.mms (acc s d) [] []))
/-- Insertion by rank. -/
def rankIns (r : Nat → Nat) (i : Nat) : List Nat → List Nat
  | [] => [i]
  | j :: js => if r i < r j then i :: j :: js else j :: rankIns r i js
/-- A free order of n contributions (18 R320, log 9). -/
def chainOrder (n key : Nat) : List Nat := (List.range n).foldl (fun l i => rankIns (Config.chainRank key) i l) []
/-- What the accumulator holds once CHE has issued: for each element, the fold of its last segment in some order. -/
def foldChain (fresh : Nat) (start : AccImg) (adds : List AccImg) (segs : List (Nat × Nat × BitVec 32)) : AccImg :=
  accOf fun r c =>
    let (n, v) := (lookupN segs (64 * r + c)).getD (0, accGet start r c)
    (chainOrder (adds.length - n) (4096 * fresh + 64 * r + c)).foldl (fun x i => acc32 x (accGet (adds.getD (n + i) 0) r c)) v
def closeChain (s : State) (d : Nat) (c : Chain) : State :=
  let t := match c with
    | .mms start adds segs => if adds.length < 2 then s else setAcc { s with fresh := s.fresh + 1 } d (foldChain s.fresh start adds segs)
    | .filet .. => s
  setChain t d none
def execChe (o : RRR) (s : State) : Out :=
  if !s.f.cur.q then .next s
  else
    let d := o.d.toNat
    match chain s d with
    | none => .next (raiseR s 0x0B 0 0)
    | some c => if cheWaits s d then stall s else .next (closeChain s d c)
def execOclm (o : RRR) (s : State) : Out :=
  ifQ s fun s => if claimed s o.d.toNat then raiseR s 0x08 0 0 else setClaim s o.d.toNat true
def execOrel (o : RRR) (s : State) : Out :=
  if !s.f.cur.q then .next s
  else
    let n := o.d.toNat
    if !claimed s n then .next (raiseR s 0x08 0 0)
    else if orelWaits s n s.f.cur.bsn then stall s
    else .next (setClaim s n false)

/-! ### Bindings and tables (16 R298, R300, R304, R305) -/

/-- SCGB copies the generator's fields into the binding. -/
def execScgb (o : RRR) (s : State) : Out :=
  ifQ s fun s =>
    let code := o.xop % 4
    let g := gen s o.d.toNat
    let b : Binding := if code = 0 then Binding.none
      else ⟨code, g.base, g.stride.get 2, g.stride.get 3, (g.extent.get 0).toNat, (g.extent.get 1).toNat, 0⟩
    if o.xop / 4 % 2 = 1 then setBindB s b else setBindA s b
def execCbld (o : ENG) (s : State) : Out :=
  submit o .copy none (fun s => do
    let l ← spadLoc s 256 64 (opS s (o.f 18 13))
    return (.cbld (o.f 20 19) l, s)) s
/-- RWFL only closes the window, at dispatch (19 R326). -/
def execRwfl (s : State) : Out := .next s
def execPrkld (o : ENG) (s : State) : Out :=
  submit o .copy none (fun s => do
    let l ← spadLoc s (32 * o.f 14 8) 64 (opS s (o.f 20 15))
    return (.prkld l (o.f 14 8), s)) s
/-- A rule of an image's entry (19 R327, R329): none where the entry fails the image. -/
def ruleOf (ver : Nat) (x : Nat) : Option (Option Rule) :=
  let w := x % 2 ^ 32
  let cls := w / 2 ^ 24 % 4
  let t := w % 256
  let kp := w / 256 % 2 = 1
  let rsv := x / 2 ^ 32 != 0 || w / 2 ^ 26 != 0 || w / 2 ^ 9 % 2 ^ 15 != 0
  let want := match t with | 1 => 0 | 2 => 1 | 3 => 0 | _ => 2
  if rsv || 4 < t || cls = 3 then none
  else if t = 0 then (if w = 0 then some none else none)
  else if cls != want || (kp && t = 4) then none
  else if ver = 2 && cls != 0 then some none
  else some (some ⟨cls, kp, t⟩)
/-- The pricking of an image: none where it fails. -/
def prickingOf (ver : Nat) (es : List Nat) : Option (Map Rule) :=
  es.zipIdx.foldr (fun (x, i) m => match m, ruleOf ver x with
    | some m, some (some r) => some ((i, r) :: m)
    | some m, some none => some m
    | _, _ => none) (some [])

/-! ### Drains (16 R301 to R303) -/

/-- The code of the tensor scale t of a drain: 1.0 where its field names S0, else the rounded product of the two scales that the register holds. -/
def tensorCode (n : Nat) (x : W64) : Nat := if n = 0 then 0x3F800000 else fmul fp32 0 (x.toNat % 2 ^ 32) (x.toNat / 2 ^ 32)
/-- Output 64r + c of a drain in format df. -/
def drainOut (a : AccImg) (t : Num) (df rm : Nat) (sat : Bool) (i : Nat) : Nat :=
  convert df rm sat false (.mul (fp32.value (lane a 32 i)) t)
/-- The accumulator image and the scale that a drain uses: its own, or those of a cancelled FP32 drain (19 R328, template 2). -/
def drainSource (s : State) (a n : Nat) : AccImg × Num :=
  let t := tensorCode n (opS s n)
  match replaced s 2 with
  | none => (accSeen s a, fp32.value t)
  | some u =>
    let l := keptOf s u
    (BitVec.ofNat 131072 (keptNat l 0 16384), fp32.value (fmul fp32 0 (keptNat l 16384 4) t))
/-- A register of df lanes, lane i taken from value first + i. -/
def drainReg (f : Nat → Nat) (df first : Nat) : Vec := vecOf (widthOf df) fun i => f (first + i)
def execAccrdV (o : RRR) (s : State) : Out :=
  ifQ s fun s =>
    let a := o.a.toNat
    if (chain s a).isSome then raiseR s 0x09 0 0
    else
      let df := efIn o.ef (dfmt s.f.cur.fmtr)
      let (x, t) := drainSource s a o.b.toNat
      (List.range (accRegs df)).foldl (fun u k =>
        deliver u .v (o.d.toNat + k) (drainReg (drainOut x t df o.rm o.sat) df (lanesOf df * k)) (BitVec.allOnes 16384) 0) s
/-- The bytes of row r of a drain to memory. -/
def drainRow (f : Nat → Nat) (df r : Nat) : List Byte :=
  bytesLE (packN (widthOf df) (fun c => f (64 * r + c)) 64) (8 * widthOf df)
/-- ACCRD.sp captures its values at issue. With an open chain and a bad row address it raises 0x09 before 0x10 or 0x11; 16 R303 gives them no order: DESIGN
CHOICE (log 29). -/
def execAccrdSp (o : ENG) (s : State) : Out :=
  submit o .copy none (fun s => do
    let a := o.f 20 18
    if (chain s a).isSome then throw (0x09, 0)
    let df := efIn (o.f 7 4) (dfmt s.f.cur.fmtr)
    let (vas, t) := genAddrs s (o.f 17 14) 64
    let locs ← locsOf s (8 * widthOf df) 32 vas
    let (x, sc) := drainSource s a (o.f 13 8)
    let f := drainOut x sc df (o.f 3 2) (bitB o.eop 1)
    let t := if (cancelled s).isSome then
        keep t (slotId s.f.cur.bsn s.f.cur.k)
          (((List.range 16384).zip (accBytes (accSeen s a))) ++ (List.range 4).map fun i => (16384 + i, (bytesLE (tensorCode (o.f 13 8) (opS s (o.f 13 8))) 4).getD i 0))
      else t
    return (.put locs ((List.range vas.length).map (drainRow f df)), t)) s


end Sys2Proof.Machine
end

