-- ==== Sys2Proof/Machine/Filet.lean ====
section
/-! DEFINITION. Filet mode (20, 22): knot sets, the basis of a row, steps, drains, and what SPLG and GREF compute. -/

namespace Sys2Proof.Machine

/-! ### Knot sets (20 R336) -/

def knot0 (k : BitVec 128) : Nat := fieldN k 31 0
def knotH (k : BitVec 128) : Nat := fieldN k 63 32
def knotG (k : BitVec 128) : Nat := fieldN k 71 64
def knotClamp (k : BitVec 128) : Nat := fieldN k 73 72
/-- A positive normal FP32 code. -/
def posNormal (x : Nat) : Bool := 0x00800000 ≤ x && x ≤ 0x7F7FFFFF
def knotsOk (k : BitVec 128) (w : Nat) : Bool :=
  knot0 k % 2 ^ 31 < 0x7F800000 && posNormal (knotH k) && 1 ≤ knotG k && knotG k ≤ 13 && knotG k + 3 ≤ w && fieldN k 127 74 = 0
def knotImage (k0 h g clamp : Nat) : BitVec 128 := BitVec.ofNat 128 (k0 + h * 2 ^ 32 + g * 2 ^ 64 + clamp * 2 ^ 72)

/-! ### Grid position and basis (22 R356 to R359) -/

/-- u of an input: one rounding. -/
def gridU (k : BitVec 128) (x : Nat) : Num :=
  fp32.value (fp32.round 0 (Num.div (.add false (fp32.value x) (fp32.value (knot0 k)).neg) (fp32.value (knotH k))))
/-- u as T / 2^N, for a finite u that is not below 0. -/
def gridFrac (m : Nat) (e : Int) : Nat × Nat := if 0 ≤ e then (m <<< e.toNat, 0) else (m, (-e).toNat)
/-- The cell m and t = T / 2^N of a position in the grid (20 R339). -/
def gridCell (g x n : Nat) : Nat × Nat × Nat :=
  let m := min (x >>> n) (g - 1)
  (m, x - m <<< n, n)
/-- Rounded to the nearest multiple of 2^−26, a tie to the even one. -/
def q26 (num : Int) (den : Nat) : Int :=
  let a := 2 * (num * 67108864) + Int.ofNat den
  let d := 2 * Int.ofNat den
  let q := a / d
  if a % d = 0 && q % 2 != 0 then q - 1 else q
/-- The four basis values at t = x / 2^n, as multiples of 2^−26. -/
def basis (x n : Nat) : List Int :=
  let d : Int := Int.ofNat (2 ^ n)
  let t : Int := Int.ofNat x
  let c := 6 * 2 ^ (3 * n)
  let one : Int := 67108864
  let b0 := q26 ((d - t) ^ 3) c
  let b3 := q26 (t ^ 3) c
  if 2 * t < d then
    let b2 := q26 (-3 * t ^ 3 + 3 * t ^ 2 * d + 3 * t * d ^ 2 + d ^ 3) c
    [b0, one - b0 - b2 - b3, b2, b3]
  else
    let b1 := q26 (3 * t ^ 3 - 6 * t ^ 2 * d + 4 * d ^ 3) c
    [b0, b1, one - b0 - b1 - b3, b3]
/-- The four derivative values per unit of u. -/
def dbasis (x n : Nat) : List Int :=
  let d : Int := Int.ofNat (2 ^ n)
  let t : Int := Int.ofNat x
  let c := 2 * 2 ^ (2 * n)
  let d0 := q26 (-(d - t) ^ 2) c
  let d3 := q26 (t ^ 2) c
  if 2 * t < d then
    let d2 := q26 (-3 * t ^ 2 + 2 * t * d + d ^ 2) c
    [d0, -(d0 + d2 + d3), d2, d3]
  else
    let d1 := q26 (3 * t ^ 2 - 4 * t * d) c
    [d0, d1, -(d0 + d1 + d3), d3]
def num26 (i : Int) : Num := .fin (i < 0) i.natAbs (-26)

/-! ### Weights and clamping (20 R339, 22 R361) -/

/-- Where an input lies. -/
inductive GridPos where
  | nan
  | inside (x n : Nat)
  | below (u : Num)
  | above (u : Num)
  deriving DecidableEq, Repr
def gridPos (k : BitVec 128) (x : Nat) : GridPos :=
  match gridU k x with
  | .nan => .nan
  | .inf s => if s then .below (.inf s) else .above (.inf s)
  | .fin s m e =>
    if s && m != 0 then .below (.fin s m e)
    else
      let f := gridFrac m e
      if knotG k <<< f.2 < f.1 then .above (.fin s m e) else .inside f.1 f.2
/-- A clamp of 3 faults on an input outside the grid (20 R339). -/
def clampFaults (k : BitVec 128) (x : Nat) : Bool :=
  knotClamp k = 3 && match gridPos k x with | .inside .. => false | _ => true
/-- The first coefficient and the weights of an input: none for +0, one NaN for a NaN input. -/
def phiWeights (k : BitVec 128) (x : Nat) : Nat × List Num :=
  let at' (t n : Nat) : Nat × Nat × Nat := gridCell (knotG k) t n
  let edge (t n : Nat) : Nat × List Num := let c := at' t n; (c.1, (basis c.2.1 c.2.2).map num26)
  let lin (t n : Nat) (u : Num) : Nat × List Num :=
    let c := at' t n
    let du := Num.add false u (Num.ofInt (Int.ofNat t)).neg
    (c.1, List.zipWith (fun b d => .add false b (.mul d du)) ((basis c.2.1 c.2.2).map num26) ((dbasis c.2.1 c.2.2).map num26))
  match gridPos k x with
  | .inside t n => edge t n
  | .nan => if knotClamp k = 2 then (0, []) else (0, [.nan])
  | .below u => match knotClamp k with | 0 => edge 0 0 | 1 => lin 0 0 u | _ => (0, [])
  | .above u => match knotClamp k with | 0 => edge (knotG k) 0 | 1 => lin (knotG k) 0 u | _ => (0, [])
/-- The same for the derivative per unit of u. -/
def derWeights (k : BitVec 128) (x : Nat) : Nat × List Num :=
  let at' (t n : Nat) : Nat × List Num := let c := gridCell (knotG k) t n; (c.1, (dbasis c.2.1 c.2.2).map num26)
  match gridPos k x with
  | .inside t n => at' t n
  | .nan => if knotClamp k = 2 then (0, []) else (0, [.nan])
  | .below _ => if knotClamp k = 1 then at' 0 0 else (0, [])
  | .above _ => if knotClamp k = 1 then at' (knotG k) 0 else (0, [])

/-! ### Cells and columns (22 R360, 20 R341) -/

/-- FP32 value of sample s in row i of an input or gradient slot (20 R338). -/
def sampleOf (x : OpImg) (i s : Nat) : Nat := lane x 32 (32 * i + s)
/-- The rows of the coefficient slots of a chain. -/
def coefRows (s : State) (b w : Nat) : List (List Nat) := (List.range w).map fun q => slotRows (oslot s (b + q))
def coef (rows : List (List Nat)) (q i j : Nat) : Num := numOf 1 (laneN ((rows.getD q []).getD i 0) 16 j)
/-- A cell under some weights, exactly. -/
def cellSum (rows : List (List Nat)) (w : Nat × List Num) (i j : Nat) : Num :=
  Num.sum (w.2.zipIdx.map fun (x, q) => Num.mul (coef rows (w.1 + q) i j) x)
def splOut (rows : List (List Nat)) (ws : List (Nat × List Num)) (j : Nat) : BitVec 32 :=
  BitVec.ofNat 32 (fp32.round 0 (Num.sum (ws.zipIdx.map fun (w, i) => cellSum rows w i j)))
def spldOut (rows : List (List Nat)) (w : Nat × List Num) (gs : List Num) (h : Num) (i : Nat) : BitVec 32 :=
  BitVec.ofNat 32 (fp32.round 0 (Num.div (Num.sum (gs.zipIdx.map fun (g, j) => Num.mul g (cellSum rows w i j))) h))
/-- The contribution of SPL, placed in rows 16g to 16g + 15. -/
def splVal (s : State) (b w g : Nat) (k : BitVec 128) (x : OpImg) : AccImg :=
  let rows := coefRows s b w
  let ws := (List.range 16).map fun n => (List.range 64).map fun i => phiWeights k (sampleOf x i n)
  accOf fun r c => if 16 * g ≤ r && r < 16 * g + 16 then splOut rows (ws.getD (r - 16 * g) []) c else 0
def spldVal (s : State) (b w g : Nat) (k : BitVec 128) (x gr : OpImg) : AccImg :=
  let rows := coefRows s b w
  let gs := (List.range 16).map fun n => (List.range 64).map fun j => fp32.value (sampleOf gr j n)
  let h := fp32.value (knotH k)
  accOf fun r c =>
    if 16 * g ≤ r && r < 16 * g + 16 then spldOut rows (derWeights k (sampleOf x c (r - 16 * g))) (gs.getD (r - 16 * g) []) h c else 0

/-! ### The instructions -/

def anySample (x : OpImg) (p : Nat → Bool) : Bool := (List.range 64).any fun i => (List.range 16).any fun n => p (sampleOf x i n)
/-- SPL and SPLD: the checks of 20 R341 in their order, then a step that lands 44 matrix issue cycles later. -/
def filetStep (o : RRR) (der : Bool) (s : State) : Out :=
  if !s.f.cur.q then .next s
  else if arrayBusy s then stall s
  else match chain s o.d.toNat with
    | some (.filet b kn wide) =>
      let w := if wide then 16 else 8
      let named := o.a.toNat :: (if der then [o.b.toNat] else [])
      let slots := named ++ (List.range w).map fun q => b + q
      if pendingOn s .kn kn s.f.cur.bsn || slots.any fun n => pendingOn s .o n s.f.cur.bsn then stall s
      else if slots.any fun n => !claimed s n then .next (raiseR s 0x08 0 0)
      else if !knotsOk (knots s kn) w then .next (raiseR s 0x0D 0 0)
      else if anySample (oslot s o.a.toNat) (clampFaults (knots s kn)) then .next (raiseR s 0x0C 0 0)
      else
        let g := o.xop % 4
        let x := oslot s o.a.toNat
        let v := if der then spldVal s b w g (knots s kn) x (oslot s o.b.toNat) else splVal s b w g (knots s kn) x
        .next { s with f := { s.f with steps := s.f.steps ++ [{ acc := o.d.toNat, bsn := s.f.cur.bsn, filet := true, zero := o.xop / 4 % 2 = 1
                                                                lo := 16 * g, hi := 16 * g + 16, val := v, left := 44, beats := 32
                                                                reads := slots, cb := none, kn := some kn, shadow := false, prior := [] }] } }
    | _ => .next (raiseR s 0x0B 0 0)
def execSpl (o : RRR) (s : State) : Out := filetStep o false s
def execSpld (o : RRR) (s : State) : Out := filetStep o true s
/-- FCHB (20 R340, 16 R291). The spec does not order its two causes: DESIGN CHOICE, the chain before the claim, as SPL has them (log 26). -/
def execFchb (o : RRR) (s : State) : Out :=
  ifQ s fun s =>
    if (chain s o.d.toNat).isSome then raiseR s 0x0B 0 0
    else if !claimed s o.a.toNat then raiseR s 0x08 0 0
    else setChain s o.d.toNat (some (.filet o.a.toNat o.b.toNat (bitB o.mod 0)))
/-- FDRN: an open MMS chain raises 0x09; a filet chain may be open. -/
def execFdrn (o : RRR) (s : State) : Out :=
  ifQ s fun s =>
    let a := o.a.toNat
    let g := o.xop % 4
    match chain s a with
    | some (.mms ..) => raiseR s 0x09 0 0
    | _ =>
      let df := efIn o.ef (dfmt s.f.cur.fmtr)
      let x := accSeen s a
      let f (i : Nat) : Nat := if i < 1024 then convert df o.rm o.sat false (fp32.value (lane x 32 (1024 * g + i))) else 0
      let wm := if lanesOf df ≤ 1024 then BitVec.allOnes 16384 else BitVec.ofNat 16384 (2 ^ (1024 * widthOf df) - 1)
      (List.range (fdrnRegs df)).foldl (fun u k => deliver u .v (o.d.toNat + k) (drainReg f df (lanesOf df * k)) wm 0) s
def execKnld (o : ENG) (s : State) : Out :=
  submit o .filet none (fun s => do
    let l ← spadLoc s 16 16 (opS s (o.f 18 13))
    return (.knld (o.f 20 19) l, s)) s
/-- The source and destination slots of a refinement of g intervals. -/
def grefSrc (a g : Nat) : List Nat := (List.range (g + 3)).map fun q => a + q
def grefDst (d g : Nat) : List Nat := (List.range (2 * g + 3)).map fun q => d + q
/-- A pending write of the executing slot, once. -/
def placeOnce (s : State) (f : File) (n : Nat) : State :=
  if s.f.sb.any fun p => p.file = f && p.n = n && p.bsn = s.f.cur.bsn then s else placePending s f n s.f.cur.bsn
/-- The destination slots that the executing GREF places at issue: those of its grid keep their pending writes, any other is free (log 18). -/
def placeGref (s : State) (d g : Nat) : State :=
  let t := { s with f := { s.f with sb := s.f.sb.filter fun p => !(p.file = .o && p.bsn = s.f.cur.bsn && d ≤ p.n && p.n < d + 15 && !(grefDst d g).contains p.n) } }
  (grefDst d g).foldl (fun t n => placeOnce t .o n) t
/-- GREF: the checks of 20 R345. -/
def execGref (o : ENG) (s : State) : Out :=
  let d := o.f 20 16
  let a := o.f 15 11
  let k := knots s (o.f 8 7)
  let g := knotG k
  if s.f.cur.q && (pendingOn s .kn (o.f 8 7) s.f.cur.bsn || (grefDst d g).any fun n => pendingOn s .o n s.f.cur.bsn) then stall s
  else submit o .filet none (fun s => do
    if !knotsOk k 16 || 13 < 2 * g || !posNormal (knotH k - 0x00800000) then throw (0x0D, 0)
    if (grefSrc a g ++ grefDst d g).any (fun n => 32 ≤ n || !claimed s n) || (grefSrc a g).any fun n => (grefDst d g).contains n then
      throw (0x08, 0)
    return (.gref d a (o.f 10 9) k, placeGref s d g)) s

/-! ### SPLG (20 R344, 22 R363) -/

/-- Whether an input lies outside the grid under zero clamping: its weights are +0 (22 R361). -/
def zeroed (k : BitVec 128) (x : Nat) : Bool := knotClamp k = 2 && match gridPos k x with | .inside .. => false | _ => true
/-- The weight of coefficient q for one input, if the input gives it one. -/
def weightOf (k : BitVec 128) (x q : Nat) : Option Num :=
  if zeroed k x then some (.fin false 0 0) else match phiWeights k x with
  | (_, [.nan]) => if q < knotG k + 3 then some .nan else none
  | (m, ws) => if m ≤ q then ws[q - m]? else none
def touches (w : Option Num) : Bool := match w with | none => false | some x => !x.isZero
/-- The touched rows: coefficient, cell row, and the weights of the sixteen samples. -/
def touched (k : BitVec 128) (x : OpImg) : List (Nat × Nat × List (Option Num)) :=
  ((List.range (knotG k + 3)).flatMap fun q => (List.range 64).map fun i =>
    (q, i, (List.range 16).map fun n => weightOf k (sampleOf x i n) q)).filter fun r => r.2.2.any touches
/-- The sum that a touched row adds in column j. -/
def scatterD (gr : OpImg) (ws : List (Option Num)) (j : Nat) : BitVec 32 :=
  BitVec.ofNat 32 (fp32.round 0 (Num.sum (ws.zipIdx.filterMap fun (w, n) => w.map fun x => Num.mul (fp32.value (sampleOf gr j n)) x)))
/-- SPLG captures both slots and its rows: those touched, in the order of their addresses in the nest. Every address of the nest is aligned; only the
touched rows must lie in the scratchpad, and their 0x10 goes before an 0x11: DESIGN CHOICE (log 29). -/
def execSplg (o : ENG) (s : State) : Out :=
  submit o .copy none (fun s => do
    let x := o.f 16 12
    let g := o.f 11 7
    let wide := bitB o.eop 4
    let k := knots s (o.f 6 5)
    let w := if wide then 16 else 8
    if !s.f.cur.claims.getLsbD x || !s.f.cur.claims.getLsbD g then throw (0x08, 0)
    if !knotsOk k w then throw (0x0D, 0)
    if anySample (oslot s x) (clampFaults k) then throw (0x0C, 0)
    let (vas, t) := genAddrs s (o.f 20 17) (64 * w)
    let rows := if vas.isEmpty then [] else (touched k (oslot s x)).map fun r => vas.getD (64 * r.1 + r.2.1) 0
    match rows.find? fun a => !spadOk s a.toNat 256 with
    | some a => throw (0x10, a)
    | none => match vas.find? fun a => a.toNat % 32 != 0 with
      | some a => throw (0x11, a)
      | none => return (.splg (rows.zipIdx.map fun (a, i) => ⟨i, 0, a, a.toNat, 256⟩) (oslot s x) (oslot s g) k wide, t)) s

/-! ### GREF (20 R345, 22 R362) -/

def refineCell (c : Nat → Num) (r : Nat) : Nat :=
  let sum := if r % 2 = 1 then
      Num.sum [c ((r + 1) / 2 - 1), Num.mul (.fin false 6 0) (c ((r + 1) / 2)), c ((r + 1) / 2 + 1)]
    else Num.sum [c (r / 2), c (r / 2 + 1)]
  bf16.round 0 (.mul sum (.fin false 1 (if r % 2 = 1 then -3 else -1)))
/-- Destination slots and the knot set of a refinement. -/
def refine (s : State) (d a e : Nat) (k : BitVec 128) : State :=
  let g := knotG k
  let rows := coefRows s a (g + 3)
  let t := (List.range (2 * g + 3)).foldl (fun t r =>
    setO t (d + r) (BitVec.ofNat 65536 (packN 16 (fun n => refineCell (fun q => coef rows q (n / 64) (n % 64)) r) 4096))) s
  setKN t e (knotImage (knot0 k) (knotH k - 0x00800000) (2 * g) (knotClamp k))

end Sys2Proof.Machine
end

