-- ==== Sys2Proof/Machine/Copy.lean ====
section
/-! DEFINITION. The copy engine's instructions (09 R170 to R176) and LDB (05 R116): what they take at issue, and what their work writes. -/

namespace Sys2Proof.Machine

/-! ### Issue -/

/-- Bytes of a run on the side that is not FP32, for u bytes of FP32. -/
def convSize (u fmt : Nat) : Nat := u * widthOf fmt / 32
/-- Runs of a side: a bobbin slot's, or the generator's. -/
def sideCount (s : State) (bob : Bool) (n u : Nat) : Nat := if bob then 128 * (bobbin s n).slot / u else genTotal (gen s n)
/-- The places of n runs of one side; the generator takes its whole nest. -/
def sideOfCopy (s : State) (bob : Bool) (n u count : Nat) : Except (Nat × W64) (Side × State) :=
  if bob then (if bobOk (bobbin s n) then .ok (.bob n, s) else .error (0x07, 0))
  else
    let (vas, t) := genNest s n
    (locsOf s u 1 (vas.take count)).map fun l => (.runs l, t)
/-- CPY and CPYT (09 R171). Where both sides fail, the source goes first: DESIGN CHOICE (log 29). -/
def copyWork (o : ENG) (s : State) : Except (Nat × W64) (Work × State) := do
  let u := 2 ^ (2 + o.f 10 8)
  let cv := o.f 7 6
  let fmt := cfmt s.f.cur.fmtr
  let us := if cv = 2 then convSize u fmt else u
  let ud := if cv = 1 then convSize u fmt else u
  let sb := bitB o.eop 11
  let db := bitB o.eop 16
  let n := min (sideCount s sb (o.f 15 12) us) (sideCount s db (o.f 20 17) ud)
  let (src, t) ← sideOfCopy s sb (o.f 15 12) us n
  let (dst, t) ← sideOfCopy t db (o.f 20 17) ud n
  return (.copy src dst us ud n cv fmt, t)
def execCpy (o : ENG) (s : State) : Out := submit o .copy none (copyWork o) s
def execCpyt (o : ENG) (s : State) : Out := submit o .copy (some (opS s (o.f 5 0))) (copyWork o) s
/-- CPYG and CPYS (09 R174): the far rows by index, the near rows by generator. Where both sides fail, the spec names no order: DESIGN CHOICE, the far rows first
(log 29). -/
def gatherWork (o : ENG) (scatter : Bool) (s : State) : Except (Nat × W64) (Work × State) := do
  let len := 32 * 2 ^ o.f 2 0
  let n := min 32 (genTotal (gen s (o.f 20 17)))
  let (near, t) := genAddrs s (o.f 20 17) n
  let v := srcV s (o.f 16 9)
  let far := (List.range n).map fun j => opS s (o.f 8 3) + BitVec.ofNat 64 (lane v 32 j)
  let fl ← locsOf s len 32 far
  let nl ← locsOf s len 1 near
  return (if scatter then .rows nl fl len else .rows fl nl len, spendMix t)
def execCpyg (o : ENG) (s : State) : Out := submit o .copy none (gatherWork o false) s
def execCpys (o : ENG) (s : State) : Out := submit o .copy none (gatherWork o true) s
/-- CPYO (09 R175): the slot is claimed at its BSN. The spec does not order 0x08 and the causes of an address: DESIGN CHOICE, the claim first (log 29). -/
def execCpyo (o : ENG) (s : State) : Out :=
  submit o .copy none (fun s => do
    if !s.f.cur.claims.getLsbD (o.f 20 16) then throw (0x08, 0)
    let (vas, t) := genAddrs s (o.f 15 12) (o.f 5 0 + 1)
    let l ← locsOf s 128 16 vas
    return (.fillO (o.f 20 16) (o.f 11 6) l, t)) s
/-- TRN (09 R176). With a generator that yields no addresses it performs nothing (03 R71). Where both sides fail, the source goes first, as in a copy: DESIGN CHOICE
(log 29). -/
def execTrn (o : ENG) (s : State) : Out :=
  submit o .copy none (fun s => do
    let n := o.f 10 5 + 1
    let w := 2 ^ o.f 12 11
    let (src, t) := genAddrs s (o.f 16 13) n
    let (dst, t) := genAddrs t (o.f 20 17) n
    if src.isEmpty || dst.isEmpty then return (.trn [] [] w n, t)
    let sl ← locsOf s (n * w) 1 src
    let dl ← locsOf s (n * w) 1 dst
    return (.trn sl dl w n, t)) s
/-- LDB (05 R116) translates its block at issue. -/
def execLdb (o : ENG) (s : State) : Out :=
  submit o .l2 none (fun s => do
    let n := o.f 14 9 + 1
    let va := opS s (o.f 20 15)
    match unitParts s false va (256 * n) with
    | none => throw (0x10, va)
    | some ps =>
      if va.toNat % 256 != 0 then throw (0x11, va)
      return (.ldb (ps.map fun p => ⟨0, p.off, p.va, p.tgt.key, p.len⟩) n, s)) s

/-! ### What a transfer reads and writes (09 R171, R174, R176) -/

/-- One run converted (09 R171): narrowing rounds to nearest and saturates. -/
def convRun (cv fmt : Nat) (bs : List Byte) : List Byte :=
  let x := leNat bs
  let w := widthOf fmt
  let n := 8 * bs.length
  match cv with
  | 0 => bs
  | 1 => bytesLE (packN w (fun i => convert fmt 0 true false (numOf 0 (laneN x 32 i))) (n / 32)) (n / 32 * w / 8)
  | _ => bytesLE (packN 32 (fun i => convert 0 0 false false (numOf fmt (laneN x w i))) (n / w)) (n / w * 4)
/-- Byte i of source run k, once it has been read. -/
def gotByte (x : Xfer) (k i : Nat) : Option Byte :=
  x.got.findSome? fun g => if g.1.run = k && g.1.off ≤ i && i < g.1.off + g.1.len then g.2[i - g.1.off]? else none
/-- n bytes of source run k, once all of them have been read. -/
def gotRun (x : Xfer) (k i n : Nat) : Option (List Byte) := (List.range n).mapM fun j => gotByte x k (i + j)
/-- Runs of u bytes of a bobbin slot. -/
def slotRuns (addr u n : Nat) : List Piece := (List.range n).map fun k => ⟨k, 0, BitVec.ofNat 64 (addr + u * k), addr + u * k, u⟩
def sideRuns (x : Side) (slot : Option Nat) (u n : Nat) : List Piece :=
  match x with
  | .runs l => l
  | .bob _ => slotRuns (slot.getD 0) u n
def overlaps (src dst : List Piece) : Bool := src.any fun a => dst.any fun b => a.key < b.key + b.len && b.key < a.key + a.len
/-- The bytes of a source run, from and up to, that n bytes of its destination run come from: in a converting copy those of whole elements (09 R171). -/
def srcSpan (cv fmt off n : Nat) : Nat × Nat :=
  let w := widthOf fmt
  let span (ws wd : Nat) : Nat × Nat := (8 * off / wd * ws / 8, ((8 * (off + n) + wd - 1) / wd * ws + 7) / 8)
  match cv with | 0 => (off, off + n) | 1 => span 32 w | _ => span w 32
/-- A run converted as far as it is known: what comes from bytes that could not be read is not. -/
def convKnown (cv fmt : Nat) (bs : List (Option Byte)) : List (Option Byte) :=
  (convRun cv fmt (bs.map fun b => b.getD 0)).zipIdx.map fun (b, i) =>
    let (lo, hi) := srcSpan cv fmt i 1
    if ((bs.drop lo).take (hi - lo)).all Option.isSome then some b else none
/-- The byte that a copy writes at a key, by the last of its runs up to a bound. -/
def writtenAt (dst : List Piece) (data : List (List (Option Byte))) (last key : Nat) : Option Byte :=
  dst.foldl (fun r p => if p.run ≤ last && p.key ≤ key && key < p.key + p.len then ((data.getD p.run [])[p.off + (key - p.key)]?).join.or r else r) none
/-- The byte's place in memory. -/
def keyOf (src : List Piece) (k i : Nat) : Option Nat :=
  src.findSome? fun p => if p.run = k && p.off ≤ i && i < p.off + p.len then some (p.key + (i - p.off)) else none
/-- What a copy writes where its source and destination overlap: each byte that it reads shows the value before its own write or the value that its own
write leaves, freely (09 R171, log 11). Rows perform in their order, so a row sees no write of a later one (R174). Each round puts what the last one would
write in the place of what a byte shows; a chain of such bytes is no longer than the bytes are many. What could not be read is not written. -/
def overlapped (seed : Nat) (inOrder : Bool) (src dst : List Piece) (us cv fmt : Nat) (old : List (List (Option Byte))) : Nat → List (List (Option Byte))
  | 0 => old.map (convKnown cv fmt)
  | n + 1 =>
    let out := overlapped seed inOrder src dst us cv fmt old n
    (old.zipIdx.map fun (bs, k) => bs.zipIdx.map fun (b, i) =>
      if b.isSome && Config.overlapNew seed (us * k + i) then
        ((keyOf src k i).bind (writtenAt dst out (if inOrder then k else old.length))).or b else b).map (convKnown cv fmt)
/-- What destination bytes of a copy are, once their source has been read. Where the sides overlap, the whole source is read first, as far as it can be. -/
def copyBytes (x : Xfer) (inOrder : Bool) (src dst : List Piece) (us n cv fmt : Nat) (p : Piece) : Option (List Byte) :=
  let run (k : Nat) : List (Option Byte) := (List.range us).map (gotByte x k)
  let part (bs : List (Option Byte)) : Option (List Byte) := ((bs.drop p.off).take p.len).mapM id
  if overlaps src dst then
    if !x.reads.isEmpty then none
    else part ((overlapped x.seed inOrder src dst us cv fmt ((List.range n).map run) (n * us)).getD p.run [])
  else if cv = 0 then gotRun x p.run p.off p.len
  else part (convKnown cv fmt (run p.run))
/-- The rows of a transposed tile. -/
def transTile (w n : Nat) (rows : List (List Byte)) : List (List Byte) :=
  (List.range n).map fun j => rows.flatMap fun r => (r.drop (w * j)).take w

/-! ### The order of a transfer's sectors (13 R248, R249, 14 R271) -/

def sectKey (x : Sect) : Nat := match x.parts with | p :: _ => p.key | [] => 0
/-- A piece joins the sector that it lies in. -/
def joinSector (p : Piece) : List Sect → List Sect
  | [] => [⟨p.va.toNat, [p], none, false, []⟩]
  | x :: xs =>
    match x.parts with
    | q :: _ =>
      if q.key / 32 = p.key / 32 then { x with ord := min x.ord p.va.toNat, parts := x.parts ++ [p] } :: xs
      else if p.va.toNat < x.ord then ⟨p.va.toNat, [p], none, false, []⟩ :: x :: xs
      else x :: joinSector p xs
    | [] => x :: joinSector p xs
/-- The sectors of some pieces, in ascending order of address. A received run that is longer than a sector is written sector by sector: whether it is atomic as a
whole (13 R248) is open, DESIGN CHOICE (log 29). -/
def sectorsOf (ps : List Piece) : List Sect := (ps.flatMap cutSectors).foldl (fun l p => joinSector p l) []
/-- The sectors of rows, each row's by itself. -/
def rowSectors (ps : List Piece) : List Sect := (ps.flatMap cutSectors).map fun p => ⟨p.va.toNat, [p], none, false, []⟩
/-- Sectors with a piece joined to the last one of those that lie in its sector; none where there is none. -/
def joinLast (p : Piece) : List Sect → Option (List Sect)
  | [] => none
  | x :: xs =>
    match joinLast p xs with
    | some ys => some (x :: ys)
    | none => if sectKey x / 32 = p.key / 32 then some ({ x with ord := min x.ord p.va.toNat, parts := x.parts ++ [p] } :: xs) else none
/-- A piece of a row that fills its sector follows the sectors of earlier rows (09 R174). One that fills a part of it joins the last earlier row that writes there, so
that the sector changes as a whole (13 R248): at which of their turns is open, DESIGN CHOICE, at the earlier row's (log 29). -/
def joinRow (l : List Sect) (p : Piece) : List Sect := ((if p.len = 32 then none else joinLast p l)).getD (l ++ [⟨p.va.toNat, [p], none, false, []⟩])
/-- The sectors of the rows of one transfer, in ascending order of the rows, and of address within each (09 R174, 16 R303), the highest row on top. A fault stops
them by address (14 R271). -/
def joinedRows (ps : List Piece) : List Sect := (ps.flatMap cutSectors).foldl joinRow []
/-- The page of a place, told apart from the scratchpads and windows. -/
def pageNo (s : State) (key : Nat) : Nat := if key < iaBase then 0 else pageBase s (key - iaBase) + 1
/-- The place from which a sector of a transfer comes: that of its byte, or of its run where runs are converted. -/
def sourceKey (src : List Piece) (x : Sect) : Nat :=
  match x.parts with
  | [] => 0
  | q :: _ => ((src.find? fun p => p.run = q.run && p.off ≤ q.off && q.off < p.off + p.len).or (src.find? fun p => p.run = q.run)).elim 0 Piece.key
/-- Whether some places lie in one home. -/
def oneHome (s : State) (keys : List Nat) : Bool := keys.all fun k => homeOf s k = homeOf s (keys.headD 0)
/-- The segments of a transfer: one where its source lies in one home and its destination in one home (13 R249), else one for each page of either. -/
def segmentsOf (s : State) (src : List Piece) (xs : List Sect) : List (List Sect) :=
  if xs.isEmpty then []
  else if oneHome s (xs.map sectKey) && oneHome s (src.map Piece.key) then [xs]
  else
    let page (y : Sect) : Nat × Nat := (pageNo s (sectKey y), pageNo s (sourceKey src y))
    ((xs.map page).eraseDups).map fun g => xs.filter fun y => page y = g

end Sys2Proof.Machine
end

