-- ==== Sys2Proof/Machine/Dim.lean ====
section
/-! DEFINITION. The dimension instructions (09 R177 to R183, 11 R207 to R210) and POPW (09 R184): issue, the streams that are sent and
received, and their matching. -/

namespace Sys2Proof.Machine

/-! ### Issue -/

/-- Whether a logical dimension passes the checks of 09 R177 and 11 R207. -/
def dimOk (s : State) (l : Nat) : Bool := l < s.x.kndim && dimField s l ≤ 14 && s.x.subm.getLsbD (dimField s l)
def runBytes (o : ENG) (hi lo : Nat) : Nat := 2 ^ (2 + o.f hi lo)
/-- The receiving side: a stream register, or the runs of the receive generator where this side is used. -/
def recvOf (o : ENG) (rag : List W64) (u : Nat) (used : Bool) (s : State) : Except (Nat × W64) Recv :=
  if bitB o.eop 8 then .ok (.stream (o.f 20 17))
  else if !used then .ok (.runs [])
  else (locsOf s u 1 rag).map Recv.runs
/-- XCH, XCMB and SIB (09 R178): both nests are taken; the unused side's addresses are not accessed. -/
def pairWork (o : ENG) (op : Option Nat) (sends recvs : Bool) (s : State) : Except (Nat × W64) (Work × State) := do
  let l := o.f 20 17
  let u := runBytes o 7 5
  let p := dimField s l
  let (sag, t) := genNest s (o.f 16 13)
  let (rag, t) := if bitB o.eop 8 then ([], t) else genNest t (o.f 12 9)
  let send ← if sends then locsOf s u 1 sag else .ok []
  let recv ← recvOf o rag u recvs s
  return (.dim l l p p send recv u op sends recvs, t)
/-- A dimension instruction: the dimension is checked, then its places. -/
def submitDim (o : ENG) (ok : Bool) (d : Nat) (w : State → Except (Nat × W64) (Work × State)) (s : State) : Out :=
  submit o (.dim d) none (fun s => if ok then w s else .error (0x20, 0)) s
def execXch (o : ENG) (s : State) : Out :=
  let l := o.f 20 17
  submitDim o (dimOk s l) (dimField s l) (pairWork o none true true) s
def execXcmb (o : ENG) (s : State) : Out :=
  let l := o.f 20 17
  submitDim o (dimOk s l) (dimField s l) (pairWork o (some (o.f 4 2)) true true) s
def execSib (o : ENG) (s : State) : Out :=
  let l := o.f 20 17
  let c := o.f 4 1
  let sends := (lcoord s).testBit c = bitB o.eop 0
  submitDim o (dimOk s l && c < s.x.kndim) (dimField s l) (pairWork o none sends !sends) s
/-- Bits compacted under a mask of logical dimensions, and the dimensions themselves. -/
def maskDims (m : Nat) : List Nat := (List.range 15).filter fun l => m.testBit l
def compactDims (x : Nat) (ds : List Nat) : Nat := packN 1 (fun i => match ds[i]? with | some l => x >>> l % 2 | none => 0) 15
def gray (i : Nat) : Nat := i ^^^ (i >>> 1)
/-- The ring index of a Gray code of k bits. -/
def unGray (k x : Nat) : Nat := ((List.range (2 ^ k)).find? fun i => gray i = x).getD 0
/-- The logical dimension that a step of the ring crosses. -/
def ringDim (ds : List Nat) (i j : Nat) : Nat := ds.getD (Nat.log2 (gray i ^^^ gray j)) 0
/-- GSH (09 R181). The spec does not order 0x23 and 0x20: DESIGN CHOICE, the mask first (log 29). -/
def execGsh (o : ENG) (s : State) : Out :=
  let m := (opS s (o.f 20 15)).toNat
  let ds := maskDims m
  let n := 2 ^ ds.length
  let i := unGray ds.length (compactDims (lcoord s) ds)
  let up := (i + 1) % n
  let down := (i + n - 1) % n
  let (next, prev) := if bitB o.eop 3 then (down, up) else (up, down)
  let sd := ringDim ds i next
  let rd := ringDim ds i prev
  submit o (.dim (dimField s sd)) none (fun s => do
    if m = 0 || 2 ^ 15 ≤ m then throw (0x23, 0)
    if !(ds.all fun l => dimOk s l) then throw (0x20, 0)
    let u := runBytes o 6 4
    let (sag, t) := genNest s (o.f 14 11)
    let (rag, t) := genNest t (o.f 10 7)
    let send ← locsOf s u 1 sag
    let recv ← locsOf s u 1 rag
    return (.dim sd rd (dimField s sd) (dimField s rd) send (.runs recv) u none true true, t)) s
/-- MCST (09 R182): 0x20 before 0x24. The engine of the lowest of its physical dimensions takes it, and bits of the root field outside the mask mean nothing: DESIGN
CHOICES (log 29). -/
def execMcst (o : ENG) (s : State) : Out :=
  let x := opS s (o.f 20 15)
  let m := x.toNat % 2 ^ 15
  let ds := maskDims m
  let ps := ds.map fun l => dimField s l
  submit o (.dim (ps.foldl min 14)) none (fun s => do
    if !(ds.all fun l => dimOk s l) then throw (0x20, 0)
    if m = 0 || 3 < ds.length || !(ps.all fun p => 6 ≤ p && p / 3 = ps.headD 0 / 3) || fieldN x 63 30 != 0 then throw (0x24, 0)
    let u := runBytes o 6 4
    let mask := physMask s (BitVec.ofNat 15 m)
    let root := ds.foldl (fun (c : Coord) l =>
      let b := 1#15 <<< dimField s l
      if (fieldN x 29 15).testBit l then c ||| b else c &&& ~~~b) s.l.coord
    let (sag, t) := genNest s (o.f 14 11)
    let (rag, t) := genNest t (o.f 10 7)
    let send ← if root = s.l.coord then locsOf s u 1 sag else .ok []
    let recv ← if root = s.l.coord then .ok [] else locsOf s u 1 rag
    return (.mcast mask root send recv u (root = s.l.coord) (root != s.l.coord), t)) s

/-! ### Sending -/

/-- The stream that has been read from the pieces of a send, and whether nothing follows: the end, or a piece that could not be read. -/
def streamGot (x : Xfer) : List Piece → List Byte × Bool
  | [] => ([], true)
  | p :: ps =>
    match x.got.find? fun g => g.1 = p with
    | some g => let r := streamGot x ps; (g.2 ++ r.1, r.2)
    | none => ([], x.lost.contains p)
/-- Whether a die of the subcube is out of reach: a dead hop with no detour (11 R217). -/
def cutOff (s : State) (dest : Coord) : Bool := (nextHop s s.x.subm dest).isNone
/-- The free vectors of a partner's receive buffer for which this core holds credits (11 R210). -/
def credits (s : State) (l : Nat) : Nat := 16 - mapGet 0 s.e.used l
def setUsed (s : State) (l n : Nat) : State := { s with e := { s.e with used := mapPut 0 s.e.used l n } }
/-- A command that fills stream registers takes credits for the vectors that its stream reaches, as far as there are any. -/
def takeCredits (s : State) (c : Cmd) (l n : Nat) : State × Cmd :=
  let k := min ((n + 2047) / 2048 - c.xf.credit) (credits s l)
  let d := { c with xf := { c.xf with credit := c.xf.credit + k } }
  (setCmd (setUsed s l (mapGet 0 s.e.used l + k)) d, d)
/-- Payloads of a stream go to some dies, from place `out` on: full ones of a block of 128 bytes, which fits a flit in every mode (11 R219), and at the end of
the stream the last. -/
def pushPayloads (s : State) (dests : List Coord) (body : List Byte → Bool → Body) (bs : List Byte) (ended : Bool) : Nat → Nat → State × Nat × Bool
  | 0, out => (s, out, false)
  | n + 1, out =>
    let rest := bs.drop out
    let last := ended && rest.length ≤ 128
    if !last && rest.length < 128 then (s, out, false)
    else
      let t := dests.foldl (fun s d => sendData s s.x.subm (.core s.x.coreid) d (body (rest.take 128) last)) s
      if last then (t, out + rest.length, true) else pushPayloads t dests body bs ended n (out + 128)
/-- Whether a command still sends over its dimension or as an MCST. -/
def sending (c : Cmd) : Bool := match c.work with | .dim _ _ _ _ _ _ _ _ sends _ => sends | .mcast _ _ _ _ _ sends _ => sends | _ => false
/-- Whether an earlier command of the same engine still sends: what an engine sends leaves in issue order (11 R213). -/
def sendsBehind (s : State) (c : Cmd) : Bool := (s.e.cmds.takeWhile fun d => d.id != c.id).any fun d => d.eng = c.eng && d.active && sending d
/-- What a command has read of its stream leaves, where credits allow: those of the partner's buffer, if it receives into stream registers (11 R210, log 28). -/
def pushStream (s : State) (c : Cmd) : State :=
  if sendsBehind s c then setCmd s c else
  match c.work with
  | .dim l rl sd rd send recv u op true rc =>
    let (bs, ended) := streamGot c.xf (send.flatMap cutSectors)
    let wr := Config.partnerWr c.id
    let (s, c) := if wr then takeCredits s c l bs.length else (s, c)
    let m := if wr then min bs.length (2048 * c.xf.credit) else bs.length
    let r := pushPayloads s [partner s.l.coord sd] (.stream s.x.coreid) (bs.take m) (ended && m = bs.length) (bs.length / 128 + 1) c.xf.out
    setCmd r.1 { c with xf := { c.xf with out := r.2.1 }, work := .dim l rl sd rd send recv u op (!r.2.2) rc }
  | .mcast mask root send recv u true rc =>
    let (bs, ended) := streamGot c.xf (send.flatMap cutSectors)
    let r := pushPayloads s (otherDies s.l.coord mask) (.mcast s.x.coreid mask) bs ended (bs.length / 128 + 1) c.xf.out
    setCmd r.1 { c with xf := { c.xf with out := r.2.1 }, work := .mcast mask root send recv u (!r.2.2) rc }
  | _ => s
/-- Every started command goes on with its stream, in issue order. -/
def pushStreams (s : State) : State :=
  (s.e.cmds.map Cmd.id).foldl (fun s id => match s.e.cmds.find? fun c => c.id = id && c.active with | none => s | some c => pushStream s c) s
/-- The dies to which a command still sends, or will. -/
def sendDies (s : State) (c : Cmd) : List Coord :=
  match c.work with
  | .dim _ _ sd _ _ _ _ _ true _ => [partner s.l.coord sd]
  | .mcast mask _ _ _ _ true _ => otherDies s.l.coord mask
  | _ => []
/-- A command neither sends nor receives any more. -/
def quiet (w : Work) : Work :=
  match w with
  | .dim l rl sd rd send recv u op _ _ => .dim l rl sd rd send recv u op false false
  | .mcast mask root send recv u _ _ => .mcast mask root send recv u false false
  | w => w
/-- The credits of a command that its stream has not reached come back. -/
def returnCredits (s : State) (c : Cmd) : State :=
  match c.work with
  | .dim l .. => setUsed s l (mapGet 0 s.e.used l - (c.xf.credit - (c.xf.out + 2047) / 2048))
  | _ => s
/-- A command that is cut off stops, and its token will bear 0x21 (11 R217). The rule says only that it stops sending: that it receives no more either, and that a
stream which comes for it waits for the next receive, is DESIGN CHOICE (log 29). -/
def quitDim (s : State) (c : Cmd) : State :=
  let t := returnCredits s c
  pushStreams <| setCmd { t with e := { t.e with sent := t.e.sent.filter fun x => x.id != c.id } }
    { c with err := c.err.or (some (0x21, 0)), work := quiet c.work, xf := .none }
/-- A command that sends to a die that is cut off with no detour stops. -/
def stopCut (s : State) (c : Cmd) : State :=
  if (sendDies s c).any (cutOff s) || s.e.sent.any (fun x => x.id = c.id && x.wait.any (cutOff s)) then quitDim s c else s
/-- A dimension command that has started sends: its stream awaits its acknowledgements. -/
def startSend (s : State) (c : Cmd) : State :=
  match sendDies s c with
  | [] => s
  | dests =>
    if dests.any (cutOff s) then stopCut s c
    else
      let m := match c.work with | .mcast mask .. => some mask | _ => none
      pushStreams (setCmd { s with e := { s.e with sent := s.e.sent ++ [⟨c.id, m, dests⟩] } } c)
/-- An acknowledgement of a stream arrives, with the receiver's cause or none (09 R183). -/
def takeStreamAck (s : State) (orig : Coord) (mcast : Option (BitVec 15)) (cause : Nat) : State :=
  match s.e.sent.find? fun x => x.mcast = mcast && x.wait.contains orig with
  | none => s
  | some x =>
    let y : SentStream := { x with wait := x.wait.erase orig }
    let t := { s with e := { s.e with sent := (s.e.sent.map fun z => if z = x then y else z).filter fun z => !z.wait.isEmpty } }
    if cause = 0 then t
    else match t.e.cmds.find? fun c => c.id = x.id with
      | none => t
      | some c => setCmd t { c with err := c.err.or (some (cause, 0)) }

/-! ### Receiving (09 R179, R180) -/

/-- What tells the receives of a core apart: a logical dimension, or the root and the set of an MCST (09 R179, R182). -/
abbrev RxKey := Option Nat × Coord × BitVec 15
/-- The receives with which a command's is matched, while it receives. -/
def recvFrom (c : Cmd) : Option RxKey :=
  match c.work with
  | .dim _ rl _ _ _ _ _ _ _ true => some (some rl, 0, 0)
  | .mcast mask root _ _ _ _ true => some (none, root, mask)
  | _ => none
/-- The receives with which a stream is matched: those over the logical dimension that DIMMAP maps to its physical one; none where there is none
(11 R207). -/
def rxKey (s : State) (x : RxStream) : Option RxKey :=
  match x.mcast with
  | some mask => some (none, x.src, mask)
  | none => ((List.range 15).find? fun l => dimField s l = Nat.log2 (x.src ^^^ s.l.coord).toNat).map fun l => (some l, 0, 0)
/-- The stream with which a command's receive is matched, once the receives before it have theirs. -/
def matched (s : State) (c : Cmd) : Option RxStream :=
  match recvFrom c with
  | none => none
  | some k =>
    if !c.active || (s.e.cmds.find? fun b => recvFrom b = some k).map Cmd.id != some c.id then none
    else s.e.rx.find? fun x => rxKey s x = some k
/-- The command's receive has been taken. -/
def received (c : Cmd) : Cmd :=
  match c.work with
  | .dim l rl sd rd send recv u op sn _ => { c with work := .dim l rl sd rd send recv u op sn false }
  | .mcast mask root send recv u sn _ => { c with work := .mcast mask root send recv u sn false }
  | _ => c
/-- An XCMB lane (09 R180): a sum with a NaN operand is the canonical NaN, and max and min follow 04 R93 (DEDUCED, log 18). -/
def combLane (op a b : Nat) : Nat :=
  let h (f : Nat → Nat → Nat) : Nat := f (a % 2 ^ 16) (b % 2 ^ 16) + f (a / 2 ^ 16) (b / 2 ^ 16) * 2 ^ 16
  match op with
  | 0 => fadd fp32 0 a b | 1 => fminmax fp32 true a b | 2 => fminmax fp32 false a b
  | 3 => h (fadd bf16 0) | 4 => h (fminmax bf16 true) | 5 => h (fminmax bf16 false)
  | _ => (a + b) % 2 ^ 32
/-- The local stream combined with the remote one, lane by lane. -/
def combineStreams (op : Nat) (loc rem : List Byte) : List Byte :=
  (List.range (loc.length / 4)).flatMap fun i =>
    let a := (loc.drop (4 * i)).take 4
    let b := (rem.drop (4 * i)).take 4
    if b.length < 4 then a else bytesLE (combLane op (leNat a) (leNat b)) 4
def dropRx (s : State) (x : RxStream) : State := { s with e := { s.e with rx := s.e.rx.erase x } }
def setRx (s : State) (x y : RxStream) : State :=
  { s with e := { s.e with rx := s.e.rx.map fun z => if z = x then y else z } }
/-- The runs into which a command receives, of u bytes. -/
def recvRuns (c : Cmd) : List Piece × Nat :=
  match c.work with | .dim _ _ _ _ _ (.runs l) u _ _ _ => (l, u) | .mcast _ _ _ l u _ _ => (l, u) | _ => ([], 0)
/-- The lines that a received stream of n bytes has reached are full: it writes no more of them (05 R113). -/
def fillReached (s : State) (c : Cmd) (n : Nat) : State :=
  ((recvRuns c).1.flatMap cutSectors).foldl (fun s p => if (recvRuns c).2 * p.run + p.off < n then fillLine s p.key else s) s
/-- The receive is done with n bytes written: the sender gets its acknowledgement, with the cause of a receive that has stopped (09 R183). -/
def finishRecv (s : State) (c : Cmd) (x : RxStream) (n : Nat) (err : Option (Nat × W64)) : State :=
  let s := if err.isNone then fillReached s c n else s
  let t := setCmd (dropRx s x) (received { c with err := c.err.or err, xf := { c.xf with segs := [] } })
  sendData t t.x.subm (.core t.x.coreid) x.src (.streamAck t.x.coreid x.mcast ((err.map (·.1)).getD 0))
/-- Whole vectors that fit move from a stream into W[w]; the last one is padded with zero (09 R184). -/
def feedVectors (s : State) (w : Nat) (bs : List Byte) (complete : Bool) : Nat → State × List Byte
  | 0 => (s, bs)
  | n + 1 =>
    if bs.isEmpty || 16 ≤ (stream s w).length || (bs.length < 2048 && !complete) then (s, bs)
    else feedVectors (setW s w (stream s w ++ [BitVec.ofNat 16384 (leNat (bs.take 2048))])) w (bs.drop 2048) complete n
/-- The first write of another die that waits at this one. -/
def firstWrite (s : State) (d : Coord) : Option Nat :=
  ((s.m.reqs.filter fun r => isWrite r.op && match r.src with | .remote e _ _ => e = d | _ => false).map Req.id).min?
/-- The bytes of a stream that came before a number of arrival. -/
def bytesBefore (x : RxStream) (n : Nat) : Nat := ((x.stamps.filter fun p => p.1 < n).map Prod.snd).sum
/-- The arrival number of a byte of a stream. -/
def stampAt : Nat → List (Nat × Nat) → Option Nat
  | _, [] => none
  | k, (i, n) :: l => if k < n then some i else stampAt (k - n) l
/-- The arrival number of the first byte of a stream that is still to be written: its receive has not come, or has not written it. -/
def firstUnwritten (s : State) (x : RxStream) : Option Nat :=
  match s.e.cmds.find? fun c => matched s c = some x with
  | none => stampAt 0 x.stamps
  | some c =>
    match c.work with
    | .dim _ _ _ _ _ (.stream _) _ _ _ _ => stampAt 0 x.stamps
    | _ => (c.xf.segs.flatMap fun g => g.flatMap fun y => y.parts.map fun p => (recvRuns c).2 * p.run + p.off).min?.bind fun k => stampAt k x.stamps
/-- The part of a stream that may be written now: what a die sends is written here in the order in which it left, over all its streams and writes (11 R213). -/
def visible (s : State) (x : RxStream) : RxStream :=
  match ((firstWrite s x.src).toList ++ ((s.e.rx.filter fun y => y.src = x.src && y != x).filterMap (firstUnwritten s))).min? with
  | none => x
  | some n => let k := bytesBefore x n; if k < x.bytes.length then { x with bytes := x.bytes.take k, complete := false } else x
/-- The arrivals that are left once n bytes are taken. -/
def dropStamps : Nat → List (Nat × Nat) → List (Nat × Nat)
  | _, [] => []
  | n, (i, k) :: l => if k ≤ n then dropStamps (n - k) l else (i, k - n) :: l
/-- What a receive has to write so far, and whether that is all: the stream, or the local one combined with it as far as both are known (09 R180).
Where the received runs share addresses with the send, the whole send is read first. -/
def recvBytes (s : State) (c : Cmd) (x : RxStream) : List Byte × Bool :=
  let x := visible s x
  match c.work with
  | .dim _ _ _ _ send recv _ (some op) _ _ =>
    let (whole, ended) := streamGot c.xf (send.flatMap cutSectors)
    let loc := whole.drop c.xf.fed
    let shared := match recv with | .runs d => overlaps send d | .stream _ => false
    if shared && !ended then ([], false)
    else if x.complete then (combineStreams op (loc.take (loc.length / 4 * 4)) x.bytes, ended)
    else
      let n := min loc.length x.bytes.length / 4 * 4
      (combineStreams op (loc.take n) x.bytes, false)
  | _ => (x.bytes, x.complete)
/-- The bytes of a piece of a received run: none while they are not known; fewer, or nothing, where the stream ends before. -/
def recvPart (u : Nat) (bs : List Byte) (complete : Bool) (p : Piece) : Option (List Byte) :=
  let i := u * p.run + p.off
  if i + p.len ≤ bs.length || complete then some ((bs.drop i).take p.len) else none
/-- Whether a stream of n bytes has no byte left that its receive writes. -/
def allWritten (c : Cmd) (u n : Nat) : Bool := c.xf.segs.all fun g => g.all fun x => x.parts.all fun p => n ≤ u * p.run + p.off
/-- A command takes what it can of the stream that its receive is matched with, and ends its receive when there is nothing left to take: where it has
stopped, once the rest of the stream has come (09 R183). -/
def feedOne (s : State) (c : Cmd) (x : RxStream) : State :=
  let (bs, complete) := recvBytes s c x
  let stop := c.xf.stop.map fun y => y.2
  let endRuns (u : Nat) : State := if complete && allWritten c u bs.length then finishRecv s c x bs.length stop else s
  match c.work with
  | .dim _ _ _ _ _ (.runs _) u _ _ _ => endRuns u
  | .mcast _ _ _ _ u _ _ => endRuns u
  | .dim _ _ _ _ _ (.stream w) _ op _ _ =>
    if stop.isSome then (if complete then finishRecv s c x 0 stop else s) else
    let (t, rest) := feedVectors s w bs complete 16
    let n := bs.length - rest.length
    let d := { c with xf := { c.xf with fed := if op.isSome then c.xf.fed + n else 0 } }
    let y := { x with bytes := x.bytes.drop n, stamps := dropStamps n x.stamps }
    let t := setRx (setCmd t d) x y
    if complete && rest.isEmpty then finishRecv t d y 0 none else t
  | _ => s
/-- Every started command that comes first among the receives of its kind takes what it can. -/
def feedStreams (s : State) : State :=
  (s.e.cmds.map Cmd.id).foldl (fun s id =>
    match s.e.cmds.find? fun c => c.id = id with
    | none => s
    | some c => match matched s c with | none => s | some x => feedOne s c x) s
/-- A payload joins the stream that it belongs to, or begins one; n numbers its arrival. -/
def addPayload (rx : List RxStream) (orig : Coord) (mcast : Option (BitVec 15)) (bs : List Byte) (last : Bool) (n : Nat) : List RxStream :=
  match rx.find? fun x => x.src = orig && x.mcast = mcast && !x.complete with
  | some x => rx.map fun z => if z = x then { x with bytes := x.bytes ++ bs, complete := last, stamps := x.stamps ++ [(n, bs.length)] } else z
  | none => rx ++ [⟨orig, mcast, bs, last, [(n, bs.length)]⟩]
/-- A payload of a stream arrives for this core. -/
def takeStream (s : State) (orig : Coord) (mcast : Option (BitVec 15)) (bs : List Byte) (last : Bool) : State :=
  feedStreams { s with e := { s.e with rx := addPayload s.e.rx orig mcast bs last s.m.nextReq }, m := { s.m with nextReq := s.m.nextReq + 1 } }
/-- The partner has freed vectors of its receive buffer of a logical dimension (11 R210): streams that waited for them go on. -/
def takeCredit (s : State) (l n : Nat) : State :=
  pushStreams (setUsed s l (mapGet 0 s.e.used l - n))

/-! ### POPW (09 R184) -/

/-- The limit of POPW in cycles. -/
def popwLimit (o : MEM) : Nat := if o.off = 0 then 1048576 else o.off.toNat * 1024
def execPopw (o : MEM) (s : State) : Out :=
  let w := o.base.toNat
  if !s.f.cur.q then .next s
  else if !dimOk s w then .next (raiseR s 0x20 0 0)
  else match stream s w with
    | [] => hold (startWait s)
    | v :: vs =>
      let t := feedStreams (sendData (setW s w vs) s.x.subm (.core s.x.coreid) (partner s.l.coord (dimField s w)) (.credit s.x.coreid w 1))
      .next (deliver (endWait t 4 s.f.cur.bsn) .v o.d.toNat v (BitVec.allOnes 16384) 0)
/-- No vector has arrived within the limit: 0x22. -/
def execPopwTimeout (s : State) : Out :=
  match headSlot s 4 with
  | some (e, x) => match x.instr, waitSince s 4 e.bsn with
    | .popw o, some t0 =>
      if (stream s o.base.toNat).isEmpty && popwLimit o ≤ elapsed s t0 then .next (raiseR (endWait (withSlot s e x) 4 e.bsn) 0x22 0 0)
      else notEnabled "POPW_TIMEOUT"
    | _, _ => notEnabled "POPW_TIMEOUT"
  | none => notEnabled "POPW_TIMEOUT"

end Sys2Proof.Machine
end

