-- ==== Sys2Proof/Machine/Work.lean ====
section
/-! DEFINITION. The work of engine commands (09 R167 to R176, 08 R158, 13 R246 to R249, 14 R271): their starts, what they read and write sector by
sector, and the completions of their tokens (log 12). -/

namespace Sys2Proof.Machine

/-! ### Start -/

/-- The source pieces of a command: its start waits while a line of them is empty (09 R168). -/
def sourcesOf (s : State) (c : Cmd) : List Piece :=
  match c.work with
  | .copy (.runs l) .. => l
  | .copy (.bob b) _ us _ n _ _ => slotRuns (bobAddr (bobbin s b) (bobbin s b).cons).toNat us n
  | .rows src _ _ => src
  | .fillO _ _ src => src
  | .trn src _ _ _ => (match c.rw with | some ⟨_, _, .replaced 3 _⟩ => [] | _ => src)
  | .cbld _ a => [a]
  | .prkld a _ => [a]
  | .knld _ a => [a]
  | .splg rows .. => rows
  | .dim _ _ _ _ send _ _ _ true _ => send
  | .mcast _ _ send _ _ true _ => send
  | _ => []
/-- Every die-local access of earlier bundles has performed (13 R246). -/
def earlierDone (s : State) (bsn : Nat) : Bool :=
  (s.f.qs.mem.all fun e => bsn ≤ e.bsn) && (s.f.gate.all fun g => bsn ≤ g.bsn) &&
  s.m.reqs.all fun r => !(r.src = .core) || bsn ≤ r.bsn || trueHome s r.page != s.l.coord
/-- Whether an acquisition of a side by the core that comes before a command's still waits in the memory queue: grants follow program order (09 R172). -/
def coreWaitsFor (s : State) (n : Nat) (producer : Bool) (bsn : Nat) : Bool :=
  s.f.qs.mem.any fun e => e.bsn ≤ bsn && e.slots.any fun x => x.q && match x.instr with
    | .bbacq o => o.base.toNat = n && sideOf o = producer
    | _ => false
/-- A bobbin side has the slot that the command takes. -/
def bobbinsReady (s : State) (c : Cmd) : Bool :=
  let one (x : Side) (producer : Bool) : Bool :=
    match x with | .bob n => bobReady (bobbin s n) producer && !coreWaitsFor s n producer c.bsn | _ => true
  match c.work with
  | .copy src dst .. => one src false && one dst true
  | _ => true
/-- An MCST waits for a shared fibre that is granted to it (12 R226). -/
def fibreReady (s : State) (c : Cmd) : Bool :=
  match c.work with
  | .mcast mask root .. => s.l.grants.any fun g => g.purpose = .mcast root && mask.extractLsb' (6 + 3 * g.grp) 3 != 0 && !isRetuning s g.grp g.fibre
  | _ => true
/-- A send into the partner's stream registers waits at its start while it has no credit (11 R210, log 28). -/
def creditReady (s : State) (c : Cmd) : Bool :=
  match c.work with
  | .dim l _ _ _ send _ _ _ true _ => send.isEmpty || !Config.partnerWr c.id || 0 < credits s l
  | _ => true
/-- The engines that a command uses: a GSH those of both its dimensions (11 R208). -/
def enginesOf (c : Cmd) : List Engine :=
  match c.work with
  | .dim _ _ sd rd _ _ _ _ _ _ => if sd = rd then [.dim sd] else [.dim sd, .dim rd]
  | _ => [c.eng]
/-- The next untimed command of an engine, in issue order. -/
def nextUntimed (s : State) (e : Engine) : Option Cmd := s.e.cmds.find? fun c => (enginesOf c).contains e && !c.active && c.time.isNone
/-- Whether a command may start: the conditions of 09 R167 and R168. -/
def startReady (s : State) (c : Cmd) : Bool :=
  !c.active && needsDone s c.needs && tokenDone s c.kp c.prod && earlierDone s c.bsn &&
  ((firstErr s c.needs).isSome ||
    (bobbinsReady s c && fibreReady s c && creditReady s c && !(sourcesOf s c).any (locEmpty s)))
/-- The bobbin slots that a command takes at its start (09 R172). -/
def takeSlots (s : State) (c : Cmd) : State × Cmd :=
  let one (s : State) (x : Side) (producer : Bool) : State × Option Nat :=
    match x with
    | .bob n => let r := bobTake (bobbin s n) producer; (setBB s n r.2, some r.1.toNat)
    | _ => (s, none)
  match c.work with
  | .copy src dst .. =>
    let a := one s src false
    let b := one a.1 dst true
    (b.1, { c with srcSlot := a.2, dstSlot := b.2 })
  | _ => (s, c)

/-! ### The progress of a transfer -/

/-- Sectors in no order among themselves: each is a segment of its own. -/
def unordered (xs : List Sect) : List (List Sect) := xs.map fun x => [x]
/-- What a command has to read and to write, at its start (13 R248, R249, 14 R271). -/
def planXfer (s : State) (c : Cmd) : Xfer :=
  let reads (l : List Piece) : List Fetch := (l.flatMap cutSectors).map fun p => ⟨p, none⟩
  let plan (src : List Piece) (segs : List (List Sect)) : Xfer := { Xfer.none with reads := reads src, segs := segs, seed := s.fresh }
  match c.work with
  | .copy src dst us ud n _ _ =>
    plan (sideRuns src c.srcSlot us n) (segmentsOf s (sideRuns src c.srcSlot us n) (sectorsOf (sideRuns dst c.dstSlot ud n)))
  | .rows src dst _ => plan src (if dst.isEmpty then [] else [joinedRows dst])
  | .put dst _ => plan [] (segmentsOf s [] (joinedRows dst))
  | .fillO _ _ src => plan src []
  | .trn src dst _ _ => plan src (unordered (sectorsOf dst))
  | .cbld _ a => plan [a] []
  | .prkld a _ => plan [a] []
  | .knld _ a => plan [a] []
  | .splg rows .. => plan [] (unordered (rowSectors rows))
  | .dim _ _ _ _ send recv _ _ sends recvs =>
    plan (if sends then send else []) (match recv with | .runs l => if recvs then segmentsOf s [] (sectorsOf l) else [] | .stream _ => [])
  | .mcast _ _ send recv _ sends recvs => plan (if sends then send else []) (if recvs then segmentsOf s [] (sectorsOf recv) else [])
  | _ => .none
/-- Whether a command sends or receives over a dimension. -/
def isDim (w : Work) : Bool := match w with | .dim .. => true | .mcast .. => true | _ => false
/-- Whether a work writes memory or registers sector by sector. -/
def hasDest (w : Work) : Bool :=
  match w with
  | .copy .. => true | .rows .. => true | .put .. => true | .trn .. => true | .splg .. => true | .dim .. => true | .mcast .. => true
  | _ => false
/-- Whether the rewrite stage has cancelled a command's writes (19 R332, R333). -/
def shadowed (c : Cmd) : Bool := match c.rw with | some ⟨_, _, .cancelled false _⟩ => true | _ => false
/-- The rows that a TRN transposes, once they have been read: those that its cancelled partner kept first, where every read of the replacement has been made as that
of the original (19 R328, R332, R335). -/
def trnRows (s : State) (c : Cmd) (src : List Piece) (w n : Nat) : Option (List (List Byte)) :=
  match c.rw with
  | some ⟨_, _, .replaced 3 u⟩ =>
    if src.isEmpty || !c.xf.reads.isEmpty || !c.xf.lost.isEmpty then none else some ((List.range n).map fun k => (((keptOf s u).drop (w * n * k)).take (w * n)).map Prod.snd)
  | _ => (List.range n).mapM fun k => gotRun c.xf k 0 (w * n)
/-- The adds of SPLG to the elements of a piece of a row (22 R363). -/
def splgBytes (s : State) (x gr : OpImg) (kn : BitVec 128) (p : Piece) : List Byte :=
  match (touched kn x)[p.run]? with
  | none => []
  | some (_, _, ws) => (List.range (p.len / 4)).flatMap fun j =>
      bytesLE (acc32 (BitVec.ofNat 32 (leNat (readBytes s.m.cells (p.key + 4 * j) 4))) (scatterD gr ws (p.off / 4 + j))).toNat 4
/-- What a command writes to a piece: none while it is not known; fewer bytes where a received stream ends before (09 R179). -/
def pieceBytes (s : State) (c : Cmd) (p : Piece) : Option (List Byte) :=
  match c.work with
  | .copy src dst us ud n cv fmt => copyBytes c.xf false (sideRuns src c.srcSlot us n) (sideRuns dst c.dstSlot ud n) us n cv fmt p
  | .rows src dst len => copyBytes c.xf true src dst len (((src.map Piece.run).foldl max 0) + 1) 0 0 p
  | .put _ data => some (((data.getD p.run []).drop p.off).take p.len)
  | .trn src _ w n => (trnRows s c src w n).map fun rows => (((transTile w n rows).getD p.run []).drop p.off).take p.len
  | .splg _ x gr kn _ => if locEmpty s p then none else some (splgBytes s x gr kn p)
  | .dim _ _ _ _ _ _ u _ _ _ => (matched s c).bind fun x => let (bs, ended) := recvBytes s c x; recvPart u bs ended p
  | .mcast _ _ _ _ u _ _ => (matched s c).bind fun x => recvPart u (visible s x).bytes (visible s x).complete p
  | _ => none
/-- Whether what a work writes to a sector depends on a source piece. -/
def needsPiece (c : Cmd) (p : Piece) (x : Sect) : Bool :=
  let near (cv fmt : Nat) : Bool := x.parts.any fun q => q.run = p.run && (let (lo, hi) := srcSpan cv fmt q.off q.len; lo < p.off + p.len && p.off < hi)
  match c.work with
  | .copy _ _ _ _ _ cv fmt => near cv fmt
  | .rows .. => near 0 0
  | _ => true
/-- A transfer stops at a place, unless it stops before it already: of what is not under way, only what lies below it is still read and written (14 R271). A scratchpad
line of which it has written a part stays as it is, unless a lower sector of the line is written afterwards: 05 R113 does not say what becomes of its bit, DESIGN CHOICE
(log 29). -/
def stopAt (c : Cmd) (ord cause : Nat) (a : W64) : Cmd :=
  let x := c.xf
  let best := match x.stop with
    | none => (ord, cause, a)
    | some (o, d, b) => if ord < o || (ord = o && a < b) then (ord, cause, a) else (o, d, b)
  let segs := (x.segs.map fun g => g.filter fun y => y.ord < best.1 || y.sent.isSome).filter fun g => !g.isEmpty
  let wanted (f : Fetch) : Bool :=
    f.piece.va.toNat < best.1 || segs.any fun g => g.any (needsPiece c f.piece)
  { c with xf := { x with stop := some best, segs := segs, reads := x.reads.filter wanted } }
/-- A dimension instruction that meets a fault performs nothing more of either side (08 R158): what is under way performs, its own stream ends behind what it has
read, and its receive takes the rest of its stream and writes none of it (09 R183). How its stream ends is DESIGN CHOICE (log 28). -/
def stopDim (c : Cmd) (cause : Nat) (a : W64) : Cmd :=
  let x := c.xf
  { c with
    err := c.err.or (some (cause, a))
    xf := { x with stop := x.stop.or (some (0, cause, a)), reads := [], lost := x.lost ++ x.reads.map Fetch.piece
                   segs := (x.segs.map fun g => g.filter fun y => y.sent.isSome).filter fun g => !g.isEmpty } }
/-- A source piece cannot be read: the sectors that depend on it are not written. -/
def losePiece (c : Cmd) (p : Piece) (cause : Nat) (a : W64) : Cmd :=
  let c := { c with xf := { c.xf with lost := c.xf.lost ++ [p] } }
  if isDim c.work then stopDim c cause a
  else if hasDest c.work then
    match ((c.xf.segs.flatMap fun g => g.filter (needsPiece c p)).map Sect.ord).min? with
    | some o => stopAt c o cause a
    | none => c
  else stopAt c p.va.toNat cause a

/-! ### Starting -/

/-- The source has been read whole: the slot of a source bobbin is free (09 R172), and a cancelled TRN keeps what its destination rows would hold. -/
def afterReads (s : State) (c : Cmd) : State :=
  if !c.xf.reads.isEmpty || !c.xf.lost.isEmpty || c.xf.stop.isSome then s
  else match c.work with
    | .copy (.bob b) .. => setBB s b { bobbin s b with free := (bobbin s b).free + 1 }
    | .trn src dst w n =>
      (match c.rw, trnRows s c src w n with
       | some ⟨_, _, .cancelled _ _⟩, some rows =>
         keep s (slotId c.bsn c.k) ((List.range n).flatMap fun j => (dst.filter fun p => p.run = j).flatMap fun p =>
           ((((transTile w n rows).getD j []).drop p.off).take p.len).zipIdx.map fun (b, i) => (p.key + i, b))
       | _, _ => s)
    | _ => s
/-- Every byte has been written: the slot of a destination bobbin is filled (09 R172). -/
def afterWrites (s : State) (c : Cmd) : State :=
  if !c.xf.segs.isEmpty || c.xf.stop.isSome then s
  else match c.work with
    | .copy _ (.bob b) .. => setBB s b { bobbin s b with filled := (bobbin s b).filled + 1 }
    | _ => s
/-- A command that has consumed an errored token performs nothing: it neither sends nor receives (08 R158, 10 R201). -/
def idleCmd (c : Cmd) (e : TokErr) : Cmd := { c with active := true, err := some (e.cause, e.addr), errRw := e.rw, work := quiet c.work }
/-- A command starts. -/
def startCmd (s : State) (c : Cmd) : State :=
  match firstErr s c.needs with
  | some e => feedStreams (setCmd (consumeErrs s c.needs) (idleCmd c e))
  | none =>
    let (s, c) := takeSlots s c
    let c := { c with active := true, xf := planXfer s c }
    let t := setCmd { s with fresh := s.fresh + 1 } c
    if isDim c.work then feedStreams (startSend t c)
    else afterWrites (if c.xf.reads.isEmpty then afterReads t c else t) c
def execEngineCommandStart (e : Engine) (s : State) : Out :=
  match nextUntimed s e with
  | none => notEnabled "ENGINE_COMMAND_START"
  | some c => when ((enginesOf c).all (fun x => (nextUntimed s x).map Cmd.id = some c.id) && startReady s c) "ENGINE_COMMAND_START" (startCmd s c)
/-- Of the timed commands whose time has come and that may start, the first: the lowest T, and of equal ones the first issued (09 R173). -/
def nextTimed (s : State) : Option Cmd :=
  (s.e.cmds.filter fun c => !c.active && (match c.time with | some t => t ≤ s.tick | none => false) && startReady s c).foldl (fun r c =>
    match r with
    | none => some c
    | some b => if (c.time.getD 0) < (b.time.getD 0) then some c else r) none
def execTimedCopyStart (s : State) : Out :=
  match nextTimed s with
  | none => notEnabled "TIMED_COPY_START"
  | some c => .next (startCmd s c)

/-! ### Earlier readers -/

/-- Whether a queued GREF may read a slot (20 R345): its sources follow its knot set, which may itself be pending. -/
def grefNames (s : State) (o : ENG) (n : Nat) : Bool :=
  let g := if s.f.sb.any fun p => p.file = .kn && p.n = o.f 8 7 then 6 else min 6 (knotG (knots s (o.f 8 7)))
  (grefSrc (o.f 15 11) g).contains n
/-- Whether an instruction of a lower BSN that has not issued names a register, in the matrix or the copy queue. A filet step also reads
what its chain recorded (20 R338), and a GREF its sources (18 R318). A step that has joined the rewrite window is waited for: 16 R291 counts it as issued behind its
last beat, where 19 R325 counts it from its join (DEDUCED, log 18). -/
def queuedNames (s : State) (bsn : Nat) (f : File) (n : Nat) : Bool :=
  (s.f.qs.mx ++ s.f.qs.cp).any fun e => e.bsn < bsn && e.slots.any fun x => x.q && (x.k = 3 || x.k = 6) &&
    ((form s.kn.ver x.instr).ops.any (fun o => o.file = f && o.n = n) ||
      match x.instr with | .spl _ => f != .cb | .spld _ => f != .cb | .gref o => f = .o && grefNames s o n | _ => false)
/-- Whether a step of a lower BSN still works beats that read a slot, a table or a knot set. -/
def stepReads (s : State) (bsn : Nat) (f : File) (n : Nat) : Bool :=
  s.f.steps.any fun x => x.bsn < bsn && 1 < x.beats &&
    match f with | .o => x.reads.contains n | .cb => x.cb = some n | .kn => x.kn = some n | _ => false
/-- Whether a refinement of a lower BSN that the filet engine has not finished reads a slot (18 R318). -/
def refineReads (s : State) (bsn : Nat) (f : File) (n : Nat) : Bool :=
  s.e.cmds.any fun c => c.bsn < bsn && match c.work with | .gref _ a _ kn => f = .o && (grefSrc a (knotG kn)).contains n | _ => false
/-- No earlier reader of a register is left (09 R175, 16 R300, 20 R337, R345). -/
def readersDone (s : State) (bsn : Nat) (f : File) (n : Nat) : Bool :=
  !queuedNames s bsn f n && !stepReads s bsn f n && !refineReads s bsn f n
/-- A CBLD reads its table, and a KNLD its knot set, only after the earlier steps that name it (16 R300, 20 R337). -/
def readHeld (s : State) (c : Cmd) : Bool :=
  match c.work with
  | .cbld n _ => !readersDone s c.bsn .cb n
  | .knld n _ => !readersDone s c.bsn .kn n
  | _ => false

/-! ### An engine's accesses, one by one -/

/-- The next access of a command: a piece read, a sector sent toward its home, or a sector written. -/
inductive EngAct where
  | read (i : Nat)
  | send (g : Nat)
  | write (g : Nat)
  deriving DecidableEq, Repr
def actsOf (c : Cmd) : List EngAct :=
  if !c.active then []
  else ((List.range c.xf.reads.length).map .read) ++ (List.range c.xf.segs.length).flatMap fun g => [.send g, .write g]
/-- What the engines may do next, each command by its number. -/
def engActs (s : State) : List (Nat × EngAct) := s.e.cmds.flatMap fun c => (actsOf c).map fun a => (c.id, a)
/-- Whether a home is cut off from this die for remote-memory traffic (11 R217). -/
def homeCut (s : State) (home : Coord) : Bool := home != s.l.coord && (nextHop s (allotMask s s.kn.owner) home).isNone
/-- The request that an engine's access sends toward a home under a number: for a piece that it reads, or for the parts of a sector that it writes, with
their bytes (11 R211, 13 R248). -/
def sendAccess (s : State) (home : Coord) (id : Nat) (write : Bool) (ps : List (Piece × List Byte)) : State :=
  sendData s (allotMask s s.kn.owner) .memory home (.request
    { id := id, core := s.x.coreid, write := write, runs := ps.map fun p => (p.1.key - iaBase, if write then p.2.length else p.1.len), owner := s.kn.owner
      bytes := ps.flatMap (·.2), atom := none, count := write })
/-- Whether this die knows the home of a place (14 R266). -/
def homeKnown (s : State) (key : Nat) : Bool := key < iaBase || (lookupDie s.m.homeCache (pageBase s (key - iaBase))).isSome
/-- The directory's answer for a page that an engine names, once every request of this die to the page has been answered (14 R266). -/
def askHome (s : State) (key : Nat) : Out :=
  let p := pageBase s (key - iaBase)
  when (!outstanding s p) "HOME_ACCESS" (cacheHome s p (trueHome s p))
/-- An engine's access to a place has been answered: the answer names the home of its page (14 R266). -/
def learnPlace (s : State) (key : Nat) : State := if key < iaBase then s else learnPage s (pageBase s (key - iaBase))
/-- Requests that wait at a port are taken back; those left ahead of a fence still stand ahead of it. -/
def takeBack (s : State) (ids : List Nat) : State :=
  let stays (x : Requester × Flit) : Bool := !(x.2.orig = s.l.coord && match x.2.body with | .request q => ids.contains q.id | _ => false)
  { s with l := { s.l with ports := s.l.ports.map fun (d, p) =>
      (d, markLow s.tick p { p with outq := p.outq.filter stays, portFence := fenceLeft p.outq stays p.portFence, circFence := fenceLeft p.outq stays p.circFence }) } }
/-- A command whose source or destination is cut off with no detour stops sending (11 R217): what waits at a port is taken back, what has left performs. -/
def cutCmd (s : State) (c : Cmd) : State :=
  if isDim c.work then quitDim s c else
  let waiting (n : Option Nat) : Bool := match n with | none => true | some n => !departed s n
  let back := (c.xf.segs.flatMap id).filter fun x => x.sent.isSome && waiting x.sent
  let segs := (c.xf.segs.map fun g => g.filter fun x => !waiting x.sent).filter fun g => !g.isEmpty
  let t := back.foldl (fun s x => let d := homeOf s (sectKey x); setCount s d c.bsn (countAt s d c.bsn - 1)) s
  setCmd (takeBack t (back.filterMap Sect.sent ++ c.xf.reads.filterMap Fetch.sent))
    { c with xf := { c.xf with reads := [], segs := segs, stop := c.xf.stop.or (some (0, 0x21, 0)) } }
/-- A command has read a piece, or has failed to: a stream that waited for it goes on. -/
def afterRead (s : State) (c : Cmd) : State :=
  let t := afterReads (setCmd s c) c
  if isDim c.work then feedStreams (pushStreams t) else t
/-- A source piece is read at its home, or its request first sets out. The pieces of a stream are read in its order. What a replacement after template 3 reads it
takes from its cancelled partner, but its read meets the causes of the place (19 R335). -/
def runRead (s : State) (c : Cmd) (i : Nat) : Out :=
  match c.xf.reads[i]? with
  | none => notEnabled "HOME_ACCESS"
  | some f =>
    let p := f.piece
    let home := homeOf s p.key
    let rest := c.xf.reads.eraseIdx i
    let got (s : State) : State :=
      match (match c.rw with | some ⟨_, _, .replaced 3 _⟩ => placeFault s p | _ => locFault s false p) with
      | some (e, a) => afterRead s (losePiece { c with xf := { c.xf with reads := rest } } p e a)
      | none => afterRead (meetLoc (if inAccWindow s p.key then { s with fresh := s.fresh + 1 } else s) p) { c with xf := { c.xf with reads := rest, got := c.xf.got ++ [(p, engBytes s p)] } }
    if (isDim c.work && i != 0) || readHeld s c then notEnabled "HOME_ACCESS"
    else if !homeKnown s p.key then askHome s p.key
    else match f.sent with
      | none =>
        if home = s.l.coord then when (!locMoving s p) "HOME_ACCESS" (got s)
        else if homeCut s home then .next (cutCmd s c)
        else
          let t := sendAccess { s with m := { s.m with nextReq := s.m.nextReq + 1 } } home s.m.nextReq false [(p, [])]
          .next (setCmd t { c with xf := { c.xf with reads := c.xf.reads.set i ⟨p, some s.m.nextReq⟩ } })
      | some n =>
        if !departed s n then (if homeCut s home then .next (cutCmd s c) else notEnabled "HOME_ACCESS")
        else when (!locMoving s p) "HOME_ACCESS" (learnPlace (got s) p.key)
/-- The bytes of the parts of a sector, once all are known. -/
def sectBytes (s : State) (c : Cmd) (x : Sect) : Option (List (Piece × List Byte)) :=
  x.parts.mapM fun p => (pieceBytes s c p).map fun bs => (p, bs)
/-- The sector counts for FLAG (09 R188): memory has homes, a scratchpad among it, and registers have none (13 R235). -/
def countSector (s : State) (bsn : Nat) (x : Sect) : State :=
  if isRegKey (sectKey x) then s else countWrites s (homeOf s (sectKey x)) bsn 1
/-- Whether an earlier command of the same engine has sectors to send toward a die: what an engine sends there leaves in issue order (11 R213). -/
def unsentBehind (s : State) (c : Cmd) (home : Coord) : Bool :=
  (s.e.cmds.takeWhile fun d => d.id != c.id).any fun d => d.eng = c.eng && d.active && d.xf.segs.any fun g => g.any fun x => x.sent.isNone && homeOf s (sectKey x) = home
/-- The first sector of segment g that has not been sent sets out toward another die. -/
def runSend (s : State) (c : Cmd) (g : Nat) : Out :=
  match c.xf.segs[g]? with
  | none => notEnabled "HOME_ACCESS"
  | some seg =>
    match seg.find? fun x => x.sent.isNone with
    | none => notEnabled "HOME_ACCESS"
    | some x =>
      let home := homeOf s (sectKey x)
      if !homeKnown s (sectKey x) then askHome s (sectKey x)
      else if home = s.l.coord then notEnabled "HOME_ACCESS"
      else if homeCut s home then .next (cutCmd s c)
      else if unsentBehind s c home then notEnabled "HOME_ACCESS"
      else match sectBytes s c x with
        | none => notEnabled "HOME_ACCESS"
        | some ps =>
          if ps.all fun p => p.2.isEmpty then notEnabled "HOME_ACCESS"
          else
            let n := s.m.nextReq
            let t := sendAccess { s with m := { s.m with nextReq := n + 1 } } home n true ps
            .next (setCmd (countSector t c.bsn x)
              { c with xf := { c.xf with segs := c.xf.segs.set g (seg.map fun y => if y = x then { x with sent := some n } else y) } })
/-- Lines that a transfer has written and will write no more are full (05 R113). -/
def fillDone (s : State) (x : Sect) (segs : List (List Sect)) : State :=
  x.parts.foldl (fun s p =>
    if segs.any fun g => g.any fun y => y.parts.any fun q => lineOf q.key = lineOf p.key then s else fillLine s p.key) s
/-- A sector is done with: written, or left out. -/
def afterWrite (s : State) (c : Cmd) (g : Nat) (seg : List Sect) : State :=
  let segs := (c.xf.segs.set g seg).filter fun g => !g.isEmpty
  let d := { c with xf := { c.xf with segs := segs } }
  let t := setCmd s d
  if isDim c.work then feedStreams t else afterWrites t d
/-- Of what a transfer writes in a sector of registers, the bytes that go ahead of the others, freely: who reads a register meanwhile sees the old or the new value, byte by
byte (13 R246, log 29). -/
def someBytes (s : State) (ps : List (Piece × List Byte)) : List (Nat × Byte) :=
  ps.zipIdx.flatMap fun x => x.1.2.zipIdx.filterMap fun b => if Config.overlapNew s.fresh (32 * x.2 + b.2) then some (x.1.1.key + b.2, b.1) else none
/-- They go ahead: into a vector register. An accumulator's elements are written whole, and its reads alone find them before (18 R319). -/
def writeSome (s : State) (ps : List (Piece × List Byte)) (x : Sect) : State :=
  (if inAccWindow s (sectKey x) then [] else someBytes s ps).foldl (fun t p => engPut t p.1 p.2) { s with fresh := s.fresh + 1 }
/-- The sector, of which the other bytes are still to be written. -/
def lateSect (s : State) (ps : List (Piece × List Byte)) (x : Sect) : Sect :=
  { x with late := true, ahead := if inAccWindow s (sectKey x) then someBytes s ps else x.ahead }
/-- The first sector of segment g is written at its home, whole (13 R248), or meets a fault there, which stops the transfer: of its
segment only lower sectors are still written (14 R271). SPLG reads what it adds to. -/
def runWrite (s : State) (c : Cmd) (g : Nat) : Out :=
  match c.xf.segs[g]? with
  | some (x :: seg) =>
    let home := homeOf s (sectKey x)
    match sectBytes s c x with
    | none => notEnabled "HOME_ACCESS"
    | some ps =>
      if ps.all fun p => p.2.isEmpty then .next (afterWrite s c g seg)
      else if !homeKnown s (sectKey x) then askHome s (sectKey x)
      else if x.parts.any (locMoving s) || (home != s.l.coord && x.sent.isNone) then notEnabled "HOME_ACCESS"
      else if (match x.sent with | some n => !departed s n | none => false) then
        (if homeCut s home then .next (cutCmd s c) else notEnabled "HOME_ACCESS")
      else match x.parts.findSome? (locFault s (match c.work with | .splg .. => false | _ => true)) with
        | some (e, a) =>
          if isDim c.work then
            .next (feedStreams (pushStreams (setCmd s (stopDim { c with xf := { c.xf with segs := c.xf.segs.set g seg } } e a))))
          else .next (setCmd s (stopAt { c with xf := { c.xf with segs := c.xf.segs.set g (seg.filter fun y => y.ord < x.ord) } } x.ord e a))
        | none =>
          let t := if x.sent.isNone && !x.late then countSector s c.bsn x else s
          let t := if x.late then t else x.parts.foldl meetLoc t
          if shadowed c then .next (learnPlace (afterWrite t c g seg) (sectKey x))
          else if inRegs s (sectKey x) && !x.late then
            .next (setCmd (writeSome t ps x) { c with xf := { c.xf with segs := c.xf.segs.set g (lateSect t ps x :: seg) } })
          else
            let t := ps.foldl (fun s p => engPuts s p.1.key p.2) t
            .next (learnPlace (afterWrite (fillDone t x (c.xf.segs.set g seg)) c g seg) (sectKey x))
  | _ => notEnabled "HOME_ACCESS"
def runAct (s : State) (c : Cmd) (a : EngAct) : Out :=
  match a with
  | .read i => runRead s c i
  | .send g => runSend s c g
  | .write g => runWrite s c g
/-- A part of the gate's first store performs ahead of the others, while a mark is being set behind which no rollback can reach: each element of a store by itself,
and the bytes of a sector of one together (13 R248). Of a store to a page the sectors are those of the virtual address, as in `nextBytes`. -/
def gateStep (s : State) : Out :=
  match s.f.gate with
  | [] => notEnabled "HOME_ACCESS"
  | g :: gs =>
    let n := min g.bytes.length (if g.key < iaBase then 32 - g.key % 32 else 32)
    let rest : List GateStore := if n = g.bytes.length then gs else { g with key := g.key + n, bytes := g.bytes.drop n } :: gs
    let t := performPart s g.key (g.bytes.take n) fun line => rest.any fun x => x.bsn = g.bsn && onLine x.key x.bytes.length line
    let t := { t with f := { t.f with gate := rest } }
    let die := homeOf s g.key
    when (s.f.fe = .marking && s.f.markBehind.isNone && !commitDue s && markReady s && s.f.rbFaults.isEmpty && (List.range 4).all fun j => !(group s j).wait) "HOME_ACCESS"
      (if (gateWrites t).contains (g.bsn, die) then t else countWrites t die g.bsn 1)
/-- Whether bytes of a stream up to a place are still to be written: its receive has not come, or has not written them. -/
def unwritten (s : State) (x : RxStream) (k : Nat) : Bool :=
  k != 0 && match s.e.cmds.find? fun c => matched s c = some x with
    | none => true
    | some c => match c.work with
      | .dim _ _ _ _ _ (.runs _) u _ _ _ => !allWritten c u k
      | .mcast _ _ _ _ u _ _ => !allWritten c u k
      | _ => true
/-- Whether a write of another die comes behind bytes of its streams that are still to be written: what a die sends is written here in the order in which it left
(11 R213, DEDUCED, log 18). -/
def behindStream (s : State) (r : Req) : Bool :=
  match r.src with
  | .remote d _ _ => isWrite r.op && s.e.rx.any fun x => x.src = d && unwritten s x (bytesBefore x r.id)
  | _ => false
/-- A request at its home. Behind a write of another die its streams go on. -/
def accessAndFeed (k : Nat) (r : Req) (s : State) : Out :=
  match accessHome k s, r.src with
  | .next t, .remote .. => .next (feedStreams t)
  | o, _ => o
/-- HOME_ACCESS: a request at its home, or after those the next access of an engine at the home of its bytes, or at last a part of the gate (14 R265, 13 R248,
R249). -/
def execHomeAccess (k : Nat) (s : State) : Out :=
  match s.m.reqs[k]? with
  | some r => if behindStream s r then notEnabled "HOME_ACCESS" else accessAndFeed k r s
  | none => match (engActs s)[k - s.m.reqs.length]? with
    | none => if k = s.m.reqs.length + (engActs s).length then gateStep s else notEnabled "HOME_ACCESS"
    | some (id, a) => match s.e.cmds.find? fun c => c.id = id with
      | none => notEnabled "HOME_ACCESS"
      | some c => runAct s c a

/-! ### What a completion waits for -/

/-- Whether traffic of this core toward a die leaves through a port, or waits there. -/
def leavesBy (s : State) (dims : BitVec 15) (d : Nat) (dest : Coord) : Bool := dest != s.l.coord && (waitPort s dims dest).1 = d
/-- Whether a command of an earlier bundle still has traffic for a port: of a transfer over its dimension, or of reads and writes at remote homes. -/
def cmdLeavesBy (s : State) (d : Nat) (c : Cmd) : Bool :=
  let by_ (p : Piece) : Bool := leavesBy s (allotMask s s.kn.owner) d (homeOf s p.key)
  let planned := if c.active then c.xf else planXfer s c
  (planned.reads.any fun f => by_ f.piece) || (planned.segs.any fun g => g.any fun x => x.parts.any by_) ||
  (match c.work with
   | .dim _ _ sd _ _ _ _ _ sends _ => (sends || s.e.sent.any fun x => x.id = c.id) && (sd = d || leavesBy s s.x.subm d (partner s.l.coord sd))
   | .mcast mask _ _ _ _ sends _ => (sends || s.e.sent.any fun x => x.id = c.id) && (mask.getLsbD d || (otherDies s.l.coord mask).any (leavesBy s s.x.subm d))
   | _ => false)
/-- Whether an engine instruction of an earlier bundle that may use a port has not issued: one of the copy slot, or an ACCRD.sp. -/
def copyQueued (s : State) (bsn : Nat) : Bool :=
  let some_ (l : List QEntry) (p : Instr → Bool) : Bool := l.any fun e => e.bsn < bsn && e.slots.any fun x => x.q && p x.instr
  some_ s.f.qs.cp (fun i => i != .nop) || some_ s.f.qs.mx (fun i => match i with | .accrdSp _ => true | _ => false)
/-- Every request that this core's earlier bundles have placed on a port has been acknowledged (09 R191, kind 0). -/
def portQuiet (s : State) (d : Nat) (bsn : Nat) : Bool :=
  let mem := allotMask s s.kn.owner
  (s.f.qs.mem.all fun e => bsn ≤ e.bsn) && !(copyQueued s bsn) && !(s.f.unacked.any fun u => u.bsn < bsn && leavesBy s mem d u.home) &&
  !(s.m.reqs.any fun r => r.src = .core && r.bsn < bsn && leavesBy s mem d (homeOfPage s r.page)) &&
  !(s.e.cmds.any fun c => c.bsn < bsn && cmdLeavesBy s d c)
/-- Whether a flag word of this core has left its port. -/
def flagLeft (s : State) (m : FlagMsg) : Bool := s.l.ports.all fun p => (p.2.cord ++ p.2.cordBack).all fun x => x.msg != .flag m
/-- Whether something that has left through a port, or waits there ahead of its fence, has not been acknowledged (09 R191, kind 1): flits on the link, messages of cores,
and the requests, writes, FLAG words and streams of this core at their far ends. -/
def portOutstanding (s : State) (d : Nat) : Bool :=
  let p := port s d
  let mem := allotMask s s.kn.owner
  let left (n : Option Nat) : Bool := match n with | some n => departed s n | none => false
  let waits (id : Nat) : Bool := s.l.sentFlags.any fun m => m.id = id && !flagLeft s m
  p.portFence != some 0 || (p.replay.any fun f => f.ftype != 2) || (p.cord.any fun m => fencedMsg m.msg) ||
  (s.f.unacked.any fun u => !waits u.id && leavesBy s mem d u.home) ||
  (s.m.reqs.any fun r => r.src = .core && r.stage != .held && departed s r.id && leavesBy s mem d (homeOfPage s r.page)) ||
  (s.e.cmds.any fun c => (c.xf.reads.any fun f => left f.sent && leavesBy s mem d (homeOf s f.piece.key)) ||
    c.xf.segs.any fun g => g.any fun x => left x.sent && leavesBy s mem d (homeOf s (sectKey x))) ||
  s.e.sent.any fun x => x.wait.any fun c => leavesBy s s.x.subm d c && !p.outq.any fun y => y.2.orig = s.l.coord && y.2.dest = c
/-- Whether everything that a command reads and writes is done, as far as it goes. -/
def xferDone (c : Cmd) : Bool := c.xf.reads.isEmpty && c.xf.segs.isEmpty
/-- Whether the work of a started command is at its end. -/
def workReady (s : State) (c : Cmd) : Bool :=
  xferDone c &&
  (match c.work with
   | .null => needsDone s c.needs && tokenDone s c.kp c.prod
   | .fillO o _ _ => c.err.isSome || readersDone s c.bsn .o o
   | .gref d a e kn =>
     let g := knotG kn
     c.err.isSome || ((grefSrc a g).all (fun n => !pendingOn s .o n c.bsn) && ((grefDst d g).all fun n => readersDone s c.bsn .o n) &&
       readersDone s c.bsn .kn e)
   | .ldb a _ => !a.any (locMoving s)
   | .dim _ _ _ _ _ _ _ _ _ rc => !rc && !(s.e.sent.any fun x => x.id = c.id)
   | .mcast _ _ _ _ _ _ rc => !rc && !(s.e.sent.any fun x => x.id = c.id)
   | .portFence d 0 => portQuiet s d c.bsn
   | .portFence d _ => !portOutstanding s d
   | .flag .. => false
   | _ => true)

/-! ### The end of the work -/

/-- What a slot fill has read, without what lies at or above the address at which it stopped (14 R271). -/
def gotBelow (x : Xfer) : Xfer :=
  match x.stop with
  | none => x
  | some (o, _, _) => { x with got := x.got.filter fun g => g.1.va.toNat < o }
/-- CPYO fills its rows with what it has read (09 R175). -/
def fillSlot (s : State) (o row0 : Nat) (x : Xfer) : State :=
  let old := oslot s o
  let y := gotBelow x
  setO s o (opOf fun r b => match (if row0 ≤ r then gotByte y (r - row0) b else none) with | some v => v.toNat | none => opByte old r b)
/-- The lines of the blocks that a cluster's L2 holds: 8 MiB of lines of 256 bytes (14 R260). -/
def l2Lines : Nat := 32768
/-- A block is declared; the oldest ones are evicted where the L2 has no room (14 R262, log 28). -/
def declareBlock (bs : List (W64 × Nat)) (b : W64 × Nat) : List (W64 × Nat) :=
  let keepFrom (l : List (W64 × Nat)) : Bool := (l.map (·.2)).sum + b.2 ≤ l2Lines
  (((List.range (bs.length + 1)).map fun i => bs.drop i).find? keepFrom).getD [] ++ [b]
/-- Whether no block is declared over some bytes: some lie in a scratchpad, at another die, or in an uncached page (14 R262). -/
def undeclared (s : State) (ps : List Piece) : Bool :=
  ps.any fun p => p.key < iaBase || (cutRun 0 (p.key - iaBase) p.len).any fun (_, a, _) =>
    match pageAt s a with | some q => q.home != s.l.coord || q.uncached | none => false
/-- The parts of a block that are homed at this die. -/
def homedHere (s : State) (p : Piece) : List Piece :=
  if p.key < iaBase then [p]
  else (cutRun 0 (p.key - iaBase) p.len).filterMap fun (i, a, n) =>
    if trueHome s a = s.l.coord then some ⟨p.run, p.off + i, p.va + BitVec.ofNat 64 i, iaBase + a, n⟩ else none
/-- Whether a part of a block is homed at a die that is cut off. -/
def ldbCut (s : State) (p : Piece) : Bool :=
  iaBase ≤ p.key && (cutRun 0 (p.key - iaBase) p.len).any fun (_, a, _) => homeCut s (trueHome s a)
/-- LDB (05 R116): this home checks what is homed here; nothing is declared over bytes of another home or of an uncached page (14 R262), and a home that is cut
off is met as by any engine instruction (11 R217, DEDUCED, log 18). -/
def doLdb (s : State) (ps : List Piece) (lines : Nat) : State × Option (Nat × W64) :=
  match (ps.flatMap (homedHere s)).findSome? (locFault s false) with
  | some e => (s, some e)
  | none =>
    if ps.any (ldbCut s) then (s, some (0x21, 0))
    else if undeclared s ps then (s, none)
    else
      let t := ps.foldl meetLoc s
      ({ t with m := { t.m with blocks := declareBlock t.m.blocks (BitVec.ofNat 64 ((ps.map Piece.key).headD 0), lines) } }, none)
/-- What is left to do of the work of a command that has consumed no error and has met none but where its transfer stopped. -/
def doWork (s : State) (c : Cmd) : State × Option (Nat × W64) :=
  let stop := c.xf.stop.map fun x => x.2
  let whole (n : Nat) : Nat := leNat ((gotRun c.xf 0 0 n).getD [])
  match c.work with
  | .fillO o row0 _ => (fillSlot s o row0 c.xf, stop)
  | .cbld n _ => (if stop.isSome then s else setCB s n (BitVec.ofNat 2048 (whole 256)), stop)
  | .prkld _ n =>
    if stop.isSome then (s, stop)
    else (match prickingOf s.kn.ver ((List.range n).map fun i => leNat ((gotRun c.xf 0 (32 * i) 32).getD [])) with
     | some m => ({ s with r := { s.r with pricking := m } }, none)
     | none => ({ s with r := { s.r with pricking := [] } }, some (0x0E, 0)))
  | .knld n _ => (if stop.isSome then s else setKN s n (BitVec.ofNat 128 (whole 16)), stop)
  | .gref d a e kn => (refine s d a e kn, none)
  | .ldb a n => doLdb s a n
  | _ => (s, stop)
/-- The pending writes that a token's completion clears (07 R138). -/
def clearsOf (w : Work) : List (File × Nat) :=
  match w with
  | .fillO o _ _ => [(.o, o)]
  | .cbld n _ => [(.cb, n)]
  | .knld n _ => [(.kn, n)]
  | .gref d _ e kn => (.kn, e) :: (grefDst d (knotG kn)).map fun n => (.o, n)
  | _ => []
def dropCmd (s : State) (id : Nat) : State := { s with e := { s.e with cmds := s.e.cmds.filter fun c => c.id != id } }
/-- The rewriting that the error record of a command names: a cancelled one's as that of its pair (19 R334). -/
def cmdRw (c : Cmd) : Option Rw :=
  c.errRw.or (c.rw.map fun w => match w.kind with | .cancelled _ t => { w with kind := .replaced t (slotId c.bsn c.k) } | _ => w)
/-- A command's token completes, in the error state or not. -/
def completeCmd (s : State) (c : Cmd) (err : Option (Nat × W64)) : State :=
  let t := (clearsOf c.work).foldl (fun s p => clearPending s p.1 p.2 c.bsn) (dropCmd s c.id)
  completeTok t c.kp c.prod err (if err.isSome then cmdRw c else none)
/-- TOKEN_COMPLETION of the k-th command: its work is at its end, and its token completes. A transfer that is cut off ends here too. -/
def execTokenCompletion (k : Nat) (s : State) : Out :=
  match s.e.cmds[k]? with
  | none => notEnabled "TOKEN_COMPLETION"
  | some c =>
    let s := stopCut s c
    match s.e.cmds[k]? with
    | none => notEnabled "TOKEN_COMPLETION"
    | some c =>
      if !c.active || !workReady s c then notEnabled "TOKEN_COMPLETION"
      else match c.work with
        | .null =>
          let e := firstErr s c.needs
          .next (completeCmd (consumeErrs s c.needs) { c with errRw := e.bind TokErr.rw } (e.map fun e => (e.cause, e.addr)))
        | _ =>
          if c.err.isSome then .next (completeCmd s c c.err)
          else let r := doWork s c; .next (completeCmd r.1 c r.2)

end Sys2Proof.Machine
end

