-- ==== Sys2Proof/Machine/Sync.lean ====
section
/-! DEFINITION. The sync slot (09 R185 to R194): waits, fences, barriers, flags, formats, ports, launches and event counters, with the
transitions that end a wait. A slot that must wait holds the head of its queue. -/

namespace Sys2Proof.Machine

/-! ### Shared -/

/-- The executing slot no longer holds later bundles. -/
def releaseHold (s : State) : State := { s with f := { s.f with holds := s.f.holds.filter fun b => b != s.f.cur.bsn } }
/-- Its wait, if it has waited, is over. -/
def endCur (s : State) : State := endWait s s.f.cur.k s.f.cur.bsn
/-- A consumed errored token raises 0x18 in the sync queue, with the record (08 R158); a rewritten producer's names the originals (19 R334). -/
def raise18 (s : State) (ks : List Nat) (e : TokErr) : State :=
  let t := consumeErrs (endCur s) (needsOf s ks)
  match e.rw with
  | none => raiseR t 0x18 e.cause e.addr
  | some w => raiseInfo t { rwInfo (slotInfo t 0x18 e.cause e.addr) w with queue := queueCode 7 }
/-- KP is produced and completes at once. -/
def produceDone (s : State) (kp : BitVec 6) : State :=
  let (id, t) := produce s kp.toNat
  completeTok t kp.toNat id none none
/-- A sync instruction of layout SYE: q false, the wait for its tokens, an errored token, and then its effect. -/
def syncTokens (o : SYE) (ready : State → Bool) (f : State → State) (s : State) : Out :=
  if !s.f.cur.q then pushNull s o.kp o.consumed
  else if !needsDone s (needsOf s o.consumed) || !ready s then hold (startWait s)
  else match firstErr s (needsOf s o.consumed) with
    | some e => .next (raise18 s o.consumed e)
    | none => .next (f (endCur s))
/-- The effect of a waiting slot 7 at the head of the sync queue, where it has waited and now ends its wait. -/
def syncRelease (m : String) (p : Instr → Bool) (run : Instr → State → Option Out) (s : State) : Out :=
  match headSlot s 7 with
  | none => notEnabled m
  | some (e, x) =>
    if !x.q || !p x.instr || (waitSince s 7 e.bsn).isNone then notEnabled m
    else match run x.instr (withSlot s e x) with
      | some (.next t) =>
        if t.f.cur.ctl = .done then .next (retireSlot t 7) else if t.f.cur.ctl = .trapped then .next t else notEnabled m
      | _ => notEnabled m
/-- A limit of a wait expires: the cause is raised at the waiting slot. -/
def syncTimeout (m : String) (limit : Instr → Option Nat) (ready : Instr → State → Bool) (cause : Nat) (s : State) : Out :=
  match headSlot s 7 with
  | none => notEnabled m
  | some (e, x) =>
    match limit x.instr, waitSince s 7 e.bsn with
    | some n, some t0 =>
      if x.q && n ≤ elapsed s t0 && !ready x.instr (withSlot s e x) then .next (raiseR (endCur (withSlot s e x)) cause 0 0) else notEnabled m
    | _, _ => notEnabled m

/-! ### TWAIT, TJOIN and DRAIN (09 R185, R187) -/

def execTwait (o : SYE) (s : State) : Out := syncTokens o (fun _ => true) (fun s => releaseHold (produceDone s o.kp)) s
def execTjoin (o : SYE) (s : State) : Out := syncTokens o (fun _ => true) (fun s => produceDone s o.kp) s
/-- Every remote store, atomic and FLAG word of earlier bundles has issued and been acknowledged. -/
def drainReady (s : State) : Bool :=
  (s.f.qs.mem.all fun e => s.f.cur.bsn ≤ e.bsn) && remoteAcked s && s.l.sentFlags.isEmpty &&
  !s.l.flags.any fun m => m.die = s.l.coord && m.core = s.x.coreid
def drainLimit (o : SYE) : Nat := if o.eop = 0 then 4194304 else o.eop.toNat * 1024
def execDrain (o : SYE) (s : State) : Out := syncTokens o drainReady (fun s => releaseHold (produceDone s o.kp)) s
def execTwaitRelease (s : State) : Out :=
  syncRelease "TWAIT_RELEASE" (fun i => match i with | .twait _ => true | .tjoin _ => true | _ => false)
    (fun i s => match i with | .twait o => some (execTwait o s) | .tjoin o => some (execTjoin o s) | _ => none) s
def execDrainCompletion (s : State) : Out :=
  syncRelease "DRAIN_COMPLETION" (fun i => match i with | .drain _ => true | _ => false)
    (fun i s => match i with | .drain o => some (execDrain o s) | _ => none) s
def execDrainTimeout (s : State) : Out :=
  syncTimeout "DRAIN_TIMEOUT" (fun i => match i with | .drain o => some (drainLimit o) | _ => none)
    (fun i s => match i with | .drain o => needsDone s (needsOf s o.consumed) && drainReady s | _ => false) 0x25 s

/-! ### FENCE and BAR (09 R186, R189) -/

/-- Every load, store and atomic of earlier bundles has performed; at scopes 3 and 4 every remote write is acknowledged. -/
def accessesDone (s : State) (scope : Nat) : Bool :=
  (s.f.qs.mem.all fun e => s.f.cur.bsn ≤ e.bsn) && (s.m.accs.all fun a => s.f.cur.bsn ≤ a.bsn) &&
  (s.m.reqs.all fun r => !(r.src = .core) || s.f.cur.bsn ≤ r.bsn) && (scope < 3 || remoteAcked s)
def execFence (o : SYN) (s : State) : Out :=
  if !s.f.cur.q then .next s
  else if accessesDone s (o.f 2 0) then .next (releaseHold s) else stall s
/-- The dies of a scope, without this one. -/
def scopeDies (s : State) (scope : Nat) : List Coord :=
  if scope < 3 then [] else otherDies s.l.coord (if scope = 3 then s.x.subm &&& 7 else s.x.subm)
def coreList (x : W64) : List (BitVec 6) := ((List.range 64).filter fun c => x.getLsbD c).map fun c => BitVec.ofNat 6 c
/-- The cores of a barrier's set (09 R189); a kernel occupies the same COREIDs on each die. -/
def barrierSet (s : State) (scope : Nat) : List (Coord × BitVec 6) :=
  let cores := (coreList s.kn.coreids).filter fun c => scope != 1 || c.toNat / 8 = s.x.coreid.toNat / 8
  (s.l.coord :: scopeDies s scope).flatMap fun d => cores.map fun c => (d, c)
/-- How often a core has reached the BARs of a scope, as some arrivals tell. -/
def reachedBy (l : List (Nat × Coord × BitVec 6 × Nat)) (scope : Nat) (p : Coord × BitVec 6) : Nat :=
  ((l.find? fun a => a.1 = scope && a.2.1 = p.1 && a.2.2.1 = p.2).map (·.2.2.2)).getD 0
def putReached (l : List (Nat × Coord × BitVec 6 × Nat)) (scope : Nat) (p : Coord × BitVec 6) (n : Nat) : List (Nat × Coord × BitVec 6 × Nat) :=
  (scope, p.1, p.2, n) :: l.filter fun a => !(a.1 = scope && a.2.1 = p.1 && a.2.2.1 = p.2)
def arrivedOf (s : State) (scope : Nat) (p : Coord × BitVec 6) : Nat := reachedBy s.l.barArrived scope p
def setArrived (s : State) (scope : Nat) (p : Coord × BitVec 6) (n : Nat) : State :=
  { s with l := { s.l with barArrived := putReached s.l.barArrived scope p n } }
/-- This core reaches its n-th BAR of a scope: it says so once, however often the BAR is dispatched. -/
def reachBar (s : State) (scope n : Nat) : State :=
  let t := setBars s (s.f.barsReached.set (scope - 1) n)
  let me := (t.l.coord, t.x.coreid)
  if n ≤ arrivedOf t scope me then t
  else (scopeDies t scope).foldl (fun s d => sendCord s s.x.subm d (.barrier s.kn.owner s.kn.ltag scope s.l.coord s.x.coreid)) (setArrived t scope me n)
def execBar (o : SYN) (s : State) : Out :=
  if !s.f.cur.q then .next s
  else
    let scope := o.f 2 0
    if (waitSince s 7 s.f.cur.bsn).isSome then hold s
    else if !accessesDone s 4 then stall s
    else
      let n := s.f.barsReached.get (scope - 1) + 1
      let t := reachBar s scope n
      if n ≤ t.f.barsDone.get (scope - 1) then .next (releaseHold t) else hold (startWait t)
/-- The state with a saved context's place and kernel. -/
def asSaved (s : State) (c : Context) : State :=
  match s.c.runs.find? fun r => r.id = c.run with | some r => { s with x := c.x, kn := r.kernel } | none => s
/-- Another core of the set of a scope, in the kernel that runs here, or in that of a saved context. -/
def othersHas (s : State) (scope : Nat) (die : Coord) (core : BitVec 6) : Bool :=
  1 ≤ scope && scope ≤ 4 && (barrierSet s scope).contains (die, core) && !(die = s.l.coord && core = s.x.coreid)
def arrive (s : State) (scope : Nat) (die : Coord) (core : BitVec 6) : State := setArrived s scope (die, core) (arrivedOf s scope (die, core) + 1)
/-- An arrival is kept for the kernel of a saved context, which counts it once it runs again (26 R415). -/
def arriveSaved (s : State) (scope : Nat) (die : Coord) (core : BitVec 6) (p : Context → Bool) : State :=
  let one (c : Context) : Context :=
    if p c && othersHas (asSaved s c) scope die core then { c with arrived := putReached c.arrived scope (die, core) (reachedBy c.arrived scope (die, core) + 1) } else c
  { s with c := { s.c with contexts := s.c.contexts.map one } }
/-- Another core of a set arrives: of the kernel that runs here, else of one whose context is saved. -/
def execBarrierArrival (scope : Nat) (die : BitVec 15) (core : BitVec 6) (s : State) : Out :=
  if running s && othersHas s scope die core then .next (arrive s scope die core)
  else match s.c.contexts.find? fun c => othersHas (asSaved s c) scope die core with
    | none => notEnabled "BARRIER_ARRIVAL"
    | some c => .next (arriveSaved s scope die core fun d => d.run = c.run)
/-- The message of an arrival comes from a core of a kernel, which its tags name. -/
def takeArrival (s : State) (owner : BitVec 16) (ltag : W64) (scope : Nat) (die : Coord) (core : BitVec 6) : State :=
  let of_ (s : State) : Bool := s.kn.owner = owner && s.kn.ltag = ltag
  if running s && of_ s then (if othersHas s scope die core then arrive s scope die core else s)
  else arriveSaved s scope die core fun c => of_ (asSaved s c)
/-- Every core of the set has reached the barrier at which this core waits. -/
def execBarrierCompletion (s : State) : Out :=
  match headSlot s 7 with
  | none => notEnabled "BARRIER_COMPLETION"
  | some (e, x) =>
    match x.instr with
    | .bar o =>
      let scope := o.f 2 0
      let n := s.f.barsReached.get (scope - 1)
      when (x.q && (waitSince s 7 e.bsn).isSome && (barrierSet s scope).all fun p => n ≤ arrivedOf s scope p) "BARRIER_COMPLETION"
        (let t := releaseHold (endCur (withSlot s e x))
         retireSlot { t with f := { t.f with barsDone := t.f.barsDone.set (scope - 1) n } } 7)
    | _ => notEnabled "BARRIER_COMPLETION"

/-! ### FLAG (09 R188) -/

/-- Whether a command has sent every sector that it writes at a home, or has nothing to write there: a sector of this die is sent when it is written. -/
def sectorsSent (c : Cmd) : Bool :=
  let sent := c.active && c.xf.segs.all fun g => g.all fun x => x.sent.isSome || isRegKey (sectKey x)
  match c.work with
  | .dim _ _ _ _ _ (.runs _) _ _ _ rc => !rc || sent
  | .mcast _ _ _ _ _ _ rc => !rc || sent
  | w => !hasDest w || isDim w || c.err.isSome || sent
/-- What a FLAG waits for: earlier stores and atomics sent toward their homes, and earlier engine instructions issued and their sectors sent. -/
def flagReady (s : State) : Bool :=
  (s.f.qs.mem.all fun e => s.f.cur.bsn ≤ e.bsn) && (s.f.qs.cp.all fun e => s.f.cur.bsn ≤ e.bsn) &&
  (s.f.qs.mx.all fun e => s.f.cur.bsn ≤ e.bsn || !e.slots.any fun x => x.q && match x.instr with | .accrdSp _ => true | _ => false) &&
  (s.m.reqs.all fun r => !(r.src = .core) || s.f.cur.bsn ≤ r.bsn || !isWrite r.op || r.stage != .held) &&
  s.e.cmds.all fun c => s.f.cur.bsn ≤ c.bsn || sectorsSent c
/-- The counted flag word sets out (09 R188). One whose home is cut off with no detour waits at its port (11 R217, log 18). -/
def sendFlag (s : State) (o : SYE) (key : Nat) (apart : List (Nat × Nat × Nat)) (v : W64) : State :=
  let dest := homeOf s key
  let m : FlagMsg := ⟨key, s.kn.owner, v, countOf s dest s.f.cur.bsn, s.l.coord, s.x.coreid, s.m.nextReq, apart⟩
  let t := clearCount { s with m := { s.m with nextReq := s.m.nextReq + 1 }, l := { s.l with sentFlags := s.l.sentFlags ++ [m] } } dest s.f.cur.bsn
  let t := if dest = s.l.coord then t
    else { sendCord t (allotMask t s.kn.owner) dest (.flag m) with f := { t.f with unacked := t.f.unacked ++ [⟨m.id, dest, s.f.cur.bsn⟩] } }
  pushCmd t .sync o.kp o.consumed (.flag m.id (opS s (o.f 19 14))) none true
/-- The parts of a word behind its first that the mapping puts elsewhere. -/
def partsApart (ps : List Part) : List (Nat × Nat × Nat) :=
  match ps with
  | [] => []
  | p :: qs => if qs.all fun q => q.tgt.key = p.tgt.key + q.off then [] else qs.map fun q => (q.off, q.tgt.key, q.len)
/-- FLAG (09 R188). A word whose parts range registers map apart goes to the home of its first byte (log 29). -/
def execFlag (o : SYE) (s : State) : Out :=
  let va := opS s (o.f 19 14)
  if !s.f.cur.q then pushNull s o.kp o.consumed
  else match accessFault s true 8 8 [va] with
    | some (c, a) => .next (raiseR s c 0 a)
    | none =>
      let us := unitsOf s true 8 [va]
      let key := (us.map fun u => u.tgt.key).headD 0
      syncTokens o flagReady (fun s =>
        if 2 ^ 24 - 1 < countOf s (homeOf s key) s.f.cur.bsn then raiseR s 0x26 0 0
        else sendFlag s o key (partsApart us) (opS s (o.f 13 8))) s
/-- Whether a list of flags holds one before m from the same core to the same home: one route, or one count, keeps their order (09 R188, 11 R213). -/
def flagBefore (s : State) (m : FlagMsg) (l : List FlagMsg) : Bool :=
  (l.takeWhile fun x => x != m).any fun x => x.die = m.die && x.core = m.core && homeOf s x.addr = homeOf s m.addr
/-- A FLAG word arrives at its destination die: this core's own at its own, or another die's at this one. -/
def execFlagWordArrives (m : FlagMsg) (s : State) : Out :=
  if m.die = s.l.coord && m.core = s.x.coreid then
    when (s.l.sentFlags.contains m && flagLeft s m && !flagBefore s m s.l.sentFlags) "FLAG_WORD_ARRIVES"
      { s with l := { s.l with sentFlags := s.l.sentFlags.erase m, flags := s.l.flags ++ [m] } }
  else when (homeOf s m.addr = s.l.coord) "FLAG_WORD_ARRIVES" { s with l := { s.l with flags := s.l.flags ++ [m] } }
/-- The command of a flag word of this core. -/
def flagCmd (s : State) (m : FlagMsg) : Option Cmd := s.e.cmds.find? fun c => match c.work with | .flag id _ => id = m.id | _ => false
/-- Whether the counted writes of a flag have performed at its home: of this core's own, the writes and sectors of earlier bundles that were sent before it. A page
on its way to another home makes it wait (14 R269). -/
def flagDue (s : State) (m : FlagMsg) : Bool :=
  let earlier (bsn : Nat) : Bool := match flagCmd s m with | some c => bsn < c.bsn | none => true
  !flagBefore s m s.l.flags && !((flagParts m).any fun p => iaBase ≤ p.2.1 && moving s (p.2.1 - iaBase)) &&
  if m.die = s.l.coord && m.core = s.x.coreid then
    !(s.m.reqs.any fun r => r.src = .core && isWrite r.op && r.id < m.id && earlier r.bsn && homeOfPage s r.page = homeOf s m.addr) &&
    !(s.e.cmds.any fun c => earlier c.bsn && c.xf.segs.any fun g => g.any fun x =>
      homeOf s (sectKey x) = homeOf s m.addr && match x.sent with | some n => n < m.id | none => false)
  else m.cnt ≤ performedOf s m.die m.core
/-- The cause of a flag word at its home: also 0x17 where the window of a core is gone (14 R258). -/
def flagFault (s : State) (m : FlagMsg) : Option Nat :=
  (flagParts m).findSome? fun p =>
    if p.2.1 < iaBase then (if inGoneWindow s p.2.1 then some 0x17 else none) else homeFault s m.owner true (p.2.1 - iaBase)
/-- A part of a flag word is written. -/
def writeFlagPart (m : FlagMsg) (s : State) (p : Nat × Nat × Nat) : State :=
  let bs := ((bytesLE m.value.toNat 8).drop p.1).take p.2.2
  if p.2.1 < iaBase then performStore s p.2.1 bs
  else
    let a := p.2.1 - iaBase
    putBytes (countAccess (meetPage s a) (pageBase s a) m.die 1) p.2.1 bs
def writeFlag (s : State) (m : FlagMsg) : State := (flagParts m).foldl (writeFlagPart m) s
/-- FLAG_WORD_WRITE: the first flag word whose counted writes have performed is written, and its KP completes. -/
def execFlagWordWrite (s : State) : Out :=
  match takeFirst (flagDue s) s.l.flags with
  | none => notEnabled "FLAG_WORD_WRITE"
  | some (m, rest) =>
    let s := { s with l := { s.l with flags := rest } }
    let t := if (flagFault s m).isSome then s else writeFlag s m
    if m.die = s.l.coord && m.core = s.x.coreid then
      match flagCmd t m with
      | none => .next t
      | some c => .next (completeCmd t c ((flagFault s m).map fun x => (x, match c.work with | .flag _ va => va | _ => 0)))
    else .next (setPerformed t m.die m.core (performedOf t m.die m.core - m.cnt))
def dropAck (id : Nat) (f : Seq) : Seq := { f with unacked := f.unacked.filter fun u => u.id != id }
/-- REMOTE_WRITE_ACK: a remote write or FLAG word has been acknowledged, once it has performed: one of this core, of a context that it has saved, or of a kernel that
has left such a context. -/
def execRemoteWriteAck (id : Nat) (s : State) : Out :=
  when ((((s.f :: s.c.contexts.map Context.f).any fun f => f.unacked.any fun u => u.id = id) || s.c.runs.any fun x => x.unacked.contains id)
      && !(s.m.reqs.any fun r => r.id = id)
      && !((s.l.sentFlags ++ s.l.flags).any fun m => m.id = id && m.die = s.l.coord && m.core = s.x.coreid))
    "REMOTE_WRITE_ACK" { s with f := dropAck id s.f, c := { s.c with contexts := s.c.contexts.map fun c => { c with f := dropAck id c.f }
                                                                     runs := s.c.runs.map fun x => { x with unacked := x.unacked.filter fun u => u != id } } }

/-! ### FMT, REALN, ports (09 R190 to R192, 01 R37) -/

/-- FMT acts at dispatch (07 R143). -/
def execFmt (_o : SYN) (s : State) : Out := .next s
/-- REALN makes its bundle a realign bundle, at dispatch (01 R37). -/
def execRealn (s : State) : Out := .next s
/-- PFNC (09 R191). -/
def execPfnc (o : SYE) (s : State) : Out :=
  let kind := o.f 15 14
  let l := o.f 19 16
  if !s.f.cur.q then pushNull s o.kp o.consumed
  else if kind != 0 && !s.f.handler then .next (raiseR s 0x27 0 0)
  else if !dimOk s l then .next (raiseR s 0x20 0 0)
  else
    let d := dimField s l
    syncTokens o (fun _ => true) (fun s =>
      let p := port s d
      match kind with
      | 0 => pushCmd s .sync o.kp o.consumed (.portFence d 0) none true
      | 1 => pushCmd (setPort s d { p with portFence := some (p.portFence.getD p.outq.length) }) .sync o.kp o.consumed (.portFence d 1) none true
      | _ => produceDone (dropFence s d) o.kp) s
/-- The widths that LWID accepts on a physical dimension. -/
def widthOk (d ded shr : Nat) : Bool :=
  if d < 3 || 14 < d then false
  else if d < 6 then 1 ≤ ded && ded ≤ 16 && shr = 0
  else 1 ≤ ded && ded ≤ 8 && shr ≤ 8
/-- LWID (09 R192): the port stripes over that many lanes, and no more than work. -/
def execLwid (o : SYN) (s : State) : Out :=
  ifQ s fun s =>
    let d := dimField s (o.f 19 16)
    let ded := o.f 9 5
    let shr := o.f 4 0
    if !s.f.handler || !widthOk d ded shr then raiseR s 0x27 0 0
    else restripe (setPort s d { port s d with ded := min ded (port s d).lanes, lwid := true, shr := shr }) d

/-! ### LAUNCH (09 R193, 26 R400, R412) -/

def recField (r : BitVec 512) (byte hi lo : Nat) : Nat := fieldN r (8 * byte + hi) (8 * byte + lo)
/-- The intermediate address to which the first of some bytes translates; none where they are not of the range registers' step. -/
def toIa (s : State) (va : W64) (n : Nat) : Option Nat :=
  match unitParts s false va n with | some (⟨_, _, .ia a, _⟩ :: _) => some a | _ => none
def setField (r : BitVec 512) (byte w : Nat) (x : Nat) : BitVec 512 :=
  merge r (BitVec.ofNat 512 (x <<< (8 * byte))) (BitVec.ofNat 512 ((2 ^ w - 1) <<< (8 * byte)))
/-- KADDR of a LAUNCH and SADDR are virtual, and are translated at issue. -/
def launchRecord (s : State) (r : BitVec 512) : Except (Nat × W64) (BitVec 512) :=
  let k := BitVec.ofNat 64 (recField r 0 63 0)
  let sa := BitVec.ofNat 64 (recField r 0x18 63 0)
  let status (r : BitVec 512) : Except (Nat × W64) (BitVec 512) :=
    if sa = 0 then .ok r
    else match toIa s sa 32 with | none => .error (0x10, sa) | some a => .ok (setField r 0x18 64 a)
  if recField r 8 3 0 != 0 then status r
  else match toIa s k 256 with
    | none => .error (0x10, k)
    | some a => if k.toNat % 256 != 0 then .error (0x11, k) else status (setField r 0 64 a)
def queueLen (s : State) (n : Nat) : Nat := (mapGet [] s.c.queues n).length
/-- A record enters a queue: CQ0 to CQ15 are 0 to 15, DQ0 to DQ3 are 16 to 19 (26 R399). -/
def enqueueRec (s : State) (n : Nat) (r : Rec) : State :=
  { s with c := { s.c with queues := mapPut [] s.c.queues n (mapGet [] s.c.queues n ++ [r]) } }
def execLaunch (o : SYE) (s : State) : Out :=
  if !s.f.cur.q then pushNull s o.kp o.consumed
  else match spadLoc s 64 64 (opS s (o.f 17 12)) with
    | .error (c, a) => .next (raiseR s c 0 a)
    | .ok l => syncTokens o (fun _ => true) (fun s =>
        if (badIn s l.key 64).isSome then raiseR s 0x16 0 l.va
        else match launchRecord s (BitVec.ofNat 512 (leNat (readBytes s.m.cells l.key 64))) with
        | .error (c, a) => raiseR s c 0 a
        | .ok r =>
          let q := 16 + o.f 19 18
          if 16 ≤ queueLen s q then raiseR s 0x32 0 0
          else produceDone (enqueueRec s q ⟨r, s.kn.owner, s.kn.cls, 0, none, 0, 0⟩) o.kp) s

/-! ### EVWAIT (09 R194) -/

def evReady (s : State) (o : SYN) : Bool := opS s (o.f 15 10) ≤ ec s (o.f 23 16)
def execEvwait (o : SYN) (s : State) : Out :=
  if !s.f.cur.q then .next s
  else if evReady s o then .next (releaseHold (endCur s)) else hold (startWait s)
def execEvwaitRelease (s : State) : Out :=
  syncRelease "EVWAIT_RELEASE" (fun i => match i with | .evwait _ => true | _ => false)
    (fun i s => match i with | .evwait o => some (execEvwait o s) | _ => none) s
def execEvwaitTimeout (s : State) : Out :=
  syncTimeout "EVWAIT_TIMEOUT" (fun i => match i with | .evwait o => if o.f 9 0 = 0 then none else some (65536 * o.f 9 0) | _ => none)
    (fun i s => match i with | .evwait o => evReady s o | _ => false) 0x36 s

end Sys2Proof.Machine
end

