-- ==== Sys2Proof/Machine/Rewrite.lean ====
section
/-! DEFINITION. The rewrite stage (19): joining the window with the operands captured there, the pairs that a rule matches, and what a
rule makes of them. -/

namespace Sys2Proof.Machine

/-- The tile instructions (19 R324). -/
def isTile (i : Instr) : Bool :=
  match i with
  | .mms _ => true | .mmz _ => true | .accrdV _ => true | .accrdSp _ => true | .oclm _ => true | .orel _ => true
  | .cpyo _ => true | .trn _ => true | _ => false
/-- A dispatched slot: its bundle in its queue, and the slot. -/
abbrev Member := QEntry × QSlot
def memberAt (s : State) (p : Nat × Nat) : Option Member :=
  ((getQ s (queueOf p.2)).find? fun e => e.bsn = p.1).bind fun e => (e.slots.find? fun x => x.k = p.2).map fun x => (e, x)
def inWindow (s : State) (bsn k : Nat) : Bool := s.f.window.contains (bsn, k)
/-- Every member leaves the window (19 R326). -/
def flushWindow (s : State) : State := { s with f := { s.f with window := [] } }
def namesReg (ver : Nat) (i : Instr) (f : File) (n : Nat) : Bool := (form ver i).ops.any fun o => o.file = f && o.n = n
/-- The registers of a file that an instruction names. -/
def regsNamed (ver : Nat) (i : Instr) (f : File) : List Nat :=
  (form ver i).ops.filterMap fun o => if o.file = f then some o.n else none
def stepOf (i : Instr) : Option RRR := match i with | .mms o => some o | .mmz o => some o | _ => none

/-! ### Joining (19 R325) -/

/-- Whether an SCGB binds a geometry that a step of these formats uses. -/
def bindsFor (i t : Instr) (fmtr : BitVec 32) : Bool :=
  match i, stepOf t with
  | .scgb o, some p =>
    let (af, bf) := stepFmts p fmtr
    let f := if o.xop / 4 % 2 = 1 then (if p.bsel = 1 then 3 else bf) else af
    f != 1 && f != 2
  | _, _ => false
/-- Whether a slot of an earlier bundle that has not issued must take its addresses or its binding first. A slot that joined the window counts as issued
from then on (19 R325, 17 R312). -/
def joinHeld (s : State) (bsn : Nat) (fmtr : BitVec 32) (t : Instr) : Bool :=
  allQueues.any fun q => (getQ s q).any fun e => e.bsn < bsn && e.slots.any fun x =>
    !x.joined &&
      ((regsNamed s.kn.ver t .ag).any (fun n => namesReg s.kn.ver x.instr .ag n) || (x.q && bindsFor x.instr t fmtr))
/-- A member takes its generator addresses and its scale bindings. -/
def captureTile (s : State) (fmtr : BitVec 32) (x : QSlot) : QSlot × State :=
  match x.instr with
  | .trn o =>
    let n := o.f 10 5 + 1
    let (src, t) := genTake s (o.f 16 13) n
    let (dst, t) := genTake t (o.f 20 17) n
    ({ x with gens := [(o.f 16 13, src), (o.f 20 17, dst)] }, t)
  | .cpyo o => let (l, t) := genTake s (o.f 15 12) (o.f 5 0 + 1); ({ x with gens := [(o.f 15 12, l)] }, t)
  | .accrdSp o => let (l, t) := genTake s (o.f 17 14) 64; ({ x with gens := [(o.f 17 14, l)] }, t)
  | i => match stepOf i with
    | none => (x, s)
    | some o =>
      let (af, bf) := stepFmts o fmtr
      let (a, t) := if o.ta then genTake s o.a.toNat (kStep af) else ([], s)
      let (b, t) := if o.tb then genTake t o.b.toNat (kStep af) else ([], t)
      let y := { x with gens := (if o.ta then [(o.a.toNat, a)] else []) ++ (if o.tb then [(o.b.toNat, b)] else [])
                        binds := some (t.r.bindA, t.r.bindB) }
      (y, bumpBinds t (bindUsed t.r.bindA af) (bindUsed t.r.bindB (if o.bsel = 1 then 3 else bf)))

/-! ### Matching (19 R328, R330, R331) -/

/-- The addresses that a member captured, by the order in which it takes them. -/
def rowsOf (x : QSlot) (j : Nat) : List W64 := (x.gens[j]?.map (·.2)).getD []
/-- The places of some rows, as keys and lengths. -/
def spansOf (s : State) (n : Nat) (vas : List W64) : List (Nat × Nat) := vas.flatMap fun a => (runPieces s n a 0).map fun p => (p.key, p.len)
def spansMeet (x y : List (Nat × Nat)) : Bool := x.any fun a => y.any fun b => a.1 < b.1 + b.2 && b.1 < a.1 + a.2
/-- An instruction with its drain format in place of EF 0xF (01 R21). -/
def withFormat (fmtr : BitVec 32) (i : Instr) : Instr :=
  let put (o : RRR) : RRR :=
    if o.ef = 15 then { o with mod := BitVec.ofNat 16 (dfmt fmtr * 2 ^ 12 + o.mod.toNat % 2 ^ 12) } else o
  match i with | .accrdV o => .accrdV (put o) | .fdrn o => .fdrn (put o) | i => i
/-- The registers that an instruction names, with its formats known. -/
def opsOf (ver : Nat) (fmtr : BitVec 32) (i : Instr) : List Opd := (form ver (withFormat fmtr i)).ops
/-- The window bytes of the registers that a member names (14 R257). -/
def registerBytes (s : State) (m : Member) : List (Nat × Nat) :=
  (opsOf s.kn.ver m.1.fmtr m.2.instr).filterMap fun o =>
    match o.file with
    | .v => some (ownWin s + 0x100000 + 2048 * o.n, 2048)
    | .acc => some (ownWin s + 0x180000 + 16384 * o.n, 16384)
    | _ => none
/-- The bytes of memory that a member names, and those that it writes. -/
def memberBytes (s : State) (m : Member) (writes : Bool) : List (Nat × Nat) :=
  let x := m.2
  (if writes then [] else registerBytes s m) ++
  match x.instr with
  | .trn o =>
    let n := (o.f 10 5 + 1) * 2 ^ o.f 12 11
    (if writes then [] else spansOf s n (rowsOf x 0)) ++ spansOf s n (rowsOf x 1)
  | .cpyo _ => if writes then [] else spansOf s 128 (rowsOf x 0)
  | .accrdSp o => spansOf s (8 * widthOf (efIn (o.f 7 4) (dfmt m.1.fmtr))) (rowsOf x 0)
  | i => match stepOf i with
    | some o =>
      if writes then []
      else
        let (af, bf) := stepFmts o m.1.fmtr
        let scales (b : Binding) (ef : Nat) : List (Nat × Nat) := if bindUsed b ef && rectOk b (kStep af) then spansOf s 1 (scaleVas b (kStep af)) else []
        (x.gens.flatMap fun g => spansOf s (8 * widthOf af) g.2) ++
          (match x.binds with | none => [] | some (a, b) => scales a af ++ scales b (if o.bsel = 1 then 3 else bf))
    | none => []
/-- Whether a TWAIT or DRAIN that consumes a token stands between two bundles. -/
def waitBetween (s : State) (lo hi k : Nat) : Bool :=
  s.f.qs.sy.any fun e => lo < e.bsn && e.bsn < hi && e.slots.any fun x => x.q &&
    match x.instr with | .twait o => o.consumed.contains k | .drain o => o.consumed.contains k | _ => false
/-- Whether an MMS chain is open by the bundles dispatched before one. -/
def chainDispatched (s : State) (bsn a : Nat) : Bool :=
  let ops := s.f.qs.mx.flatMap fun e => if e.bsn < bsn then (e.slots.filter QSlot.q).map QSlot.instr else []
  ops.foldl (fun o i => match i with
    | .chb c => if c.d.toNat = a then true else o
    | .che c => if c.d.toNat = a then false else o
    | .fchb c => if c.d.toNat = a then false else o
    | _ => o) (match chain s a with | some (.mms ..) => true | _ => false)
/-- The row addresses of an accumulator's window on this core. -/
def accRows (s : State) (b : Nat) : List W64 :=
  (List.range 64).map fun r => BitVec.ofNat 64 (ownWin s + 0x180000 + 16384 * b + 256 * r)
/-- Whether an FP32 drain u to ACCb's window precedes a drain of ACCb. -/
def drainsInto (s : State) (o : ENG) (u : Member) (b : Nat) : Bool :=
  efIn (o.f 7 4) (dfmt u.1.fmtr) = 0 && rowsOf u.2 0 = accRows s b
/-- The conditions of a template on its pair alone. A TRN with an empty nest writes nothing, so it has no destination rows (19 R328). -/
def pairMatches (s : State) (template : Nat) (u t : Member) : Bool :=
  match template, u.2.instr, t.2.instr with
  | 1, .trn o, i =>
    (match stepOf i with
     | none => false
     | some p =>
       o.f 10 5 = 63 && 8 * 2 ^ o.f 12 11 = widthOf (stepFmts p t.1.fmtr).1 && waitBetween s u.1.bsn t.1.bsn o.kp.toNat &&
         t.2.gens.any fun g => !g.2.isEmpty && g.2.all fun a => (rowsOf u.2 1).contains a)
  | 2, .accrdSp o, .accrdV p => drainsInto s o u p.a.toNat
  | 2, .accrdSp o, .accrdSp p => drainsInto s o u (p.f 20 18) && !(rowsOf t.2 0).isEmpty
  | 3, .trn o, .trn p => !(rowsOf u.2 0).isEmpty && o.f 12 5 = p.f 12 5 && rowsOf u.2 1 = rowsOf t.2 0 && p.consumed.contains o.kp.toNat
  | 4, .mms o, .mms p => o.d = p.d && chainDispatched s t.1.bsn o.d.toNat
  | _, _, _ => false
/-- ACCa and ACCb of a template. -/
def pairAccs (ver template : Nat) (u t : Member) : List Nat :=
  if template = 2 then regsNamed ver u.2.instr .acc ++ regsNamed ver t.2.instr .acc
  else if template = 4 then regsNamed ver u.2.instr .acc else []
/-- Whether a member between u and t stands in the way of a template. -/
def blocks (s : State) (template : Nat) (u t m : Member) : Bool :=
  let ver := s.kn.ver
  (pairAccs ver template u t).any (namesReg ver m.2.instr .acc) || (regsNamed ver t.2.instr .o).any (namesReg ver m.2.instr .o) ||
    spansMeet (memberBytes s u true) (memberBytes s m false)
/-- A rule is admitted by its class, the header and PERM (19 R331). -/
def admitted (s : State) (r : Rule) : Bool :=
  r.cls = 0 || (r.cls = 1 && s.kn.permRound && s.x.perm.getLsbD 0) || (r.cls = 2 && s.kn.permAssoc && s.x.perm.getLsbD 1)
/-- The members before t, newest first, each with those that joined after it. -/
def withLater : List Member → List (Member × List Member)
  | [] => []
  | m :: ms => withLater ms ++ [(m, ms)]
/-- The first entry and member that match t. -/
def findRule (s : State) (ms : List Member) (t : Member) : Option (Nat × Rule × Member) :=
  s.r.pricking.findSome? fun (i, r) =>
    if !admitted s r then none
    else ((withLater ms).find? fun p => p.1.2.rw.isNone && pairMatches s r.template p.1 t && !(p.2.any (blocks s r.template p.1 t))).map
      fun p => (i, r, p.1)
/-- A queued slot replaced by another of its number. -/
def putSlot (s : State) (bsn : Nat) (x : QSlot) : State :=
  setQ s (queueOf x.k) ((getQ s (queueOf x.k)).map fun e =>
    if e.bsn = bsn then { e with slots := e.slots.map fun y => if y.k = x.k then x else y } else e)
def slotWordOf (m : Member) : W64 := m.1.pc + BitVec.ofNat 64 m.2.k
/-- A tile instruction joins the window: its operands are captured, and the first rule that matches is applied at once. As the ninth it
makes the oldest member leave first (19 R324, R330, DEDUCED, log 18). -/
def joinWindow (s : State) (e : QEntry) (x : QSlot) : QSlot × State :=
  let (y, s) := captureTile s e.fmtr { x with joined := true }
  let ms := (s.f.window.drop (s.f.window.length - 7)).filterMap (memberAt s)
  let (z, s) := match findRule s ms (e, y) with
    | none => (y, s)
    | some (i, r, u) =>
      let origs := [slotWordOf u, slotWordOf (e, y)]
      ({ y with rw := some ⟨i, origs, .replaced r.template (slotId u.1.bsn u.2.k)⟩ },
       putSlot s u.1.bsn { u.2 with rw := some ⟨i, origs, .cancelled r.keep r.template⟩ })
  let w := s.f.window ++ [(e.bsn, x.k)]
  (z, { s with f := { s.f with window := w.drop (w.length - 8) } })
/-- Whether a non-tile instruction names an operand slot or an accumulator that a member names (19 R326). -/
def meetsMember (s : State) (i : Instr) : Bool :=
  !isTile i && (s.f.window.filterMap (memberAt s)).any fun m =>
    (regsNamed s.kn.ver m.2.instr .o).any (namesReg s.kn.ver i .o) || (regsNamed s.kn.ver m.2.instr .acc).any (namesReg s.kn.ver i .acc)

end Sys2Proof.Machine
end

