-- ==== Sys2Proof/Machine/ScalarDispatch.lean ====
section
/-! DEFINITION. The scalar slot's instructions (02 R44), as the dispatch of a bundle calls them (03 R62). -/

namespace Sys2Proof.Machine

/-- The meaning of a scalar instruction. -/
def runScalar (i : Instr) (s : State) : Out :=
  match i with
  | .nop => execNop s
  | .movi o => execMovi o s
  | .movhi o => execMovhi o s
  | .add o => execAdd o s
  | .sub o => execSub o s
  | .mul o => execMul o s
  | .mulh o => execMulh o s
  | .addi o => execAddi o s
  | .muli o => execMuli o s
  | .div o => execDiv o s
  | .divu o => execDivu o s
  | .rem o => execRem o s
  | .remu o => execRemu o s
  | .min o => execMin o s
  | .max o => execMax o s
  | .minu o => execMinu o s
  | .maxu o => execMaxu o s
  | .sel o => execSel o s
  | .abs o => execAbs o s
  | .and o => execAnd o s
  | .or o => execOr o s
  | .xor o => execXor o s
  | .andn o => execAndn o s
  | .andi o => execAndi o s
  | .ori o => execOri o s
  | .xori o => execXori o s
  | .shl o => execShl o s
  | .shr o => execShr o s
  | .sar o => execSar o s
  | .rol o => execRol o s
  | .shli o => execShli o s
  | .shri o => execShri o s
  | .sari o => execSari o s
  | .clz o => execClz o s
  | .ctz o => execCtz o s
  | .popc o => execPopc o s
  | .bswap o => execBswap o s
  | .ext o => execExt o s
  | .dep o => execDep o s
  | .shadd o => execShadd o s
  | .cmp o => execCmp o s
  | .cmpi o => execCmpi o s
  | .cmpu o => execCmpu o s
  | .cmpui o => execCmpui o s
  | .pand o => execPand o s
  | .por o => execPor o s
  | .pxor o => execPxor o s
  | .pandn o => execPandn o s
  | .movsp o => execMovsp o s
  | .movps o => execMovps o s
  | .mfsr o => execMfsr o s
  | .mtsr o => execMtsr o s
  | .rdli o => execRdli o s
  | .mtag o => execMtag o s
  | .mfag o => execMfag o s
  | .mtbb o => execMtbb o s
  | .mfbb o => execMfbb o s
  | .br o => execBr o s
  | .call o => execCall o s
  | .jmpr o => execJmpr o s
  | .ret o => execRet o s
  | .loop o => execLoop o s
  | .brk o => execBrk o s
  | .yield => execYield s
  | .trap o => execTrap o s
  | .eret => execEret s
  | .lscale o => execLscale o s
  | .cbr o => execCbr o s
  | .cbrx o => execCbrx o s
  | .membw o => execMembw o s
  | .membr o => execMembr o s
  | .cbst o => execCbst o s
  | .bkt o => execBkt o s
  | _ => notEnabled "BUNDLE_DISPATCH"

end Sys2Proof.Machine
end

