-- ==== Sys2Proof/Machine/Traps.lean ====
section
/-! DEFINITION. The drains of the front end (05 R122, 07 R147, 08 R149 to R164): marks, the entry of causes, realigns, run-ahead and its
commit (25 R390 to R393), interrupts, and the end of a kernel on the core (03 R74). -/

namespace Sys2Proof.Machine

/-! ### Classes of instructions (05 R122, 25 R390) -/

def isAtomic (i : Instr) : Bool :=
  match i with
  | .aadd _ => true | .aand _ => true | .aor _ => true | .axor _ => true | .amin _ => true | .amax _ => true | .aswp _ => true
  | .acas _ => true | .afadd _ => true | _ => false
/-- What is marked before and after: atomics, BBACQ, BBREL, CLRF and POPW. -/
def isFenced (i : Instr) : Bool :=
  isAtomic i || match i with | .bbacq _ => true | .bbrel _ => true | .clrf _ => true | .popw _ => true | _ => false
def isCopySlot (i : Instr) : Bool :=
  match i with
  | .cpy _ => true | .cpyt _ => true | .cpyg _ => true | .cpys _ => true | .cpyo _ => true | .trn _ => true | .xch _ => true
  | .xcmb _ => true | .sib _ => true | .gsh _ => true | .mcst _ => true | .splg _ => true | _ => false
/-- The engine instructions of the load and matrix slots. -/
def isOtherEngine (i : Instr) : Bool :=
  match i with
  | .ldb _ => true | .accrdSp _ => true | .cbld _ => true | .prkld _ => true | .knld _ => true | .gref _ => true | _ => false
/-- Whether a store is global, and the bytes that it reserves. -/
def storeInfo (i : Instr) : Option (Bool × Nat) :=
  match i with
  | .stB o => some (o.glb, 1) | .stH o => some (o.glb, 2) | .stW o => some (o.glb, 4) | .stD o => some (o.glb, 8)
  | .stV o => some (o.glb, 2048) | .sts o => some (o.glb, 2048) | _ => none
def gateBytes (s : State) : Nat := s.kn.gateKb * 1024
/-- A local store that alone exceeds the gate. -/
def bigStore (s : State) (i : Instr) : Bool := match storeInfo i with | some (g, n) => !g && gateBytes s < n | none => false
/-- A store that alone exceeds the gate: during run-ahead every store waits there (25 R390). -/
def overGate (s : State) (i : Instr) : Bool := match storeInfo i with | some (_, n) => gateBytes s < n | none => false
/-- What run-ahead holds unissued. -/
def isHeldKind (i : Instr) : Bool :=
  isCopySlot i || isOtherEngine i || match i with
  | .twait _ => true | .tjoin _ => true | .fence _ => true | .drain _ => true | .flag _ => true | .bar _ => true | .pfnc _ => true
  | .lwid _ => true | .launch _ => true | .evwait _ => true | .mms _ => true | .mmz _ => true | .spl _ => true | .spld _ => true
  | _ => false
/-- What halts dispatch during run-ahead. -/
def isHaltKind (i : Instr) : Bool :=
  isFenced i || match i with
  | .mark => true | .mtsr _ => true | .mtbb _ => true | .membw _ => true | .yield => true | .trap _ => true | .cbr _ => true | _ => false
/-- A slot that is held until the core has committed its run-ahead. -/
def heldSlot (s : State) (e : QEntry) (x : QSlot) : Bool :=
  match s.f.ahead with
  | none => false
  | some a => a.bsn ≤ e.bsn && (isHeldKind x.instr || (x.q && e.bsn = a.bsn && (isHaltKind x.instr || overGate s x.instr)))
def heldEntry (s : State) (e : QEntry) : Bool := e.slots.any (heldSlot s e)
/-- What is marked behind its bundle. -/
def marksAfter (s : State) (i : Instr) : Bool :=
  isFenced i || bigStore s i || match i with | .mark => true | _ => match storeInfo i with | some (g, _) => g | none => false

/-! ### Interlocks of a queued slot (07 R136, R138, 03 R63) -/

/-- The producers of pending writes whose value a slot still waits for. -/
def waitsFor (s : State) (e : QEntry) (x : QSlot) : List Nat :=
  if !x.q then []
  else
    (opsOf s.kn.ver e.fmtr x.instr).flatMap (fun o => if o.file = .s && o.use = .rd then []
      else (s.f.sb.filter fun p => p.file = o.file && p.n = o.n && p.bsn < e.bsn).map Pending.bsn) ++
    x.sv.filterMap fun c => match c.2 with | .wait b => some b | _ => none
def interlocked (s : State) (e : QEntry) : Bool := e.slots.any fun x => !(waitsFor s e x).isEmpty
/-- A queue's head is held by a TWAIT, DRAIN, FENCE, BAR or EVWAIT of a lower BSN, or by a member of the window. -/
def behindHold (s : State) (e : QEntry) : Bool := s.f.holds.any fun b => b < e.bsn
def inWin (s : State) (e : QEntry) : Bool := e.slots.any fun x => inWindow s e.bsn x.k
/-- A queue's head lies behind a mark that is still to be set: that of a bundle whose slots a run-ahead held (25 R390). -/
def behindMark (s : State) (e : QEntry) : Bool := match s.f.markBehind with | some b => b < e.bsn | none => false
def unissued (s : State) (bsn : Nat) : Bool := allQueues.any fun q => (getQ s q).any fun e => e.bsn = bsn
/-- A head that can issue nothing before the commit: it is held, stands behind a hold, or waits for a producer that is. -/
def headStops (s : State) (e : QEntry) : Bool :=
  heldEntry s e || behindHold s e || e.slots.any fun x => (waitsFor s e x).any (unissued s)
/-- Every queue has issued everything up to its first held slot (25 R391). -/
def aheadStopped (s : State) : Bool := allQueues.all fun q => match getQ s q with | [] => true | e :: _ => headStops s e

/-! ### Matrix issue cycles in which nothing issues (16 R288, 18 R323) -/

/-- A drain, a mark or a commit lets the steps run to landing once nothing is left to issue before it (05 R122, 07 R147, 08 R155, 25 R391). -/
def settling (s : State) : Bool :=
  match s.f.qs.mx with
  | [] => commitDue s ||
      (match s.f.fe with | .marking => true | .draining _ => true | .landing => true | .exiting _ => true | .returning => true | _ => false)
  | e :: _ => (commitDue s && (heldEntry s e || aheadStopped s)) || behindMark s e
/-- Whether the head of the matrix queue is held by CHE or OREL under their entries, or by a realign. -/
def headHeld (s : State) : Bool :=
  match s.f.qs.mx with
  | [] => false
  | e :: _ =>
    if e.realign && s.f.realigned ≤ e.bsn then true
    else !(behindHold s e || inWin s e || heldEntry s e || interlocked s e) && e.slots.any fun x => x.q &&
      match x.instr with | .che o => cheWaits s o.d.toNat | .orel o => orelWaits s o.d.toNat e.bsn | _ => false
/-- Whether the next clock cycle is a matrix issue cycle although nothing issues in it. -/
def mxCounts (s : State) : Bool := s.f.steps.any (fun x => 1 < x.beats) || headHeld s || settling s
/-- A matrix issue cycle in which a step of a kind has a count at its last value. -/
def mxEvent (m : String) (p : MStep → Bool) (s : State) : Out := when (mxCounts s && s.f.steps.any p) m (mxCycle s)
def execMatrixStepLands (s : State) : Out := mxEvent "MATRIX_STEP_LANDS" (fun x => !x.filet && x.left = 1) s
def execFiletStepLands (s : State) : Out := mxEvent "FILET_STEP_LANDS" (fun x => x.filet && x.left = 1) s
def execStepLastBeat (s : State) : Out := mxEvent "STEP_LAST_BEAT" (fun x => x.beats = 2) s

/-! ### Drains and faults in them (08 R151, R156, R157) -/

/-- The waits that 08 R156 does not list: those of FLAG, PFNC and LAUNCH. -/
def waitsBounded (i : Instr) : Bool := match i with | .flag _ => true | .pfnc _ => true | .launch _ => true | _ => false
/-- Whether a queue's head waits in an instruction of some kind. -/
def headWaits (s : State) (p : Instr → Bool) : Bool :=
  s.f.waits.any fun w => match headSlot s w.k with | some (e, x) => e.bsn = w.bsn && p x.instr | none => false
/-- A queue's head waits with no bound (08 R156). -/
def stuck (s : State) : Bool := headWaits s fun i => !waitsBounded i
/-- Whether an access of this core waits at a port whose link has no detour: only the watchdog ends its wait (11 R217). -/
def waitsAtPort (s : State) : Bool :=
  s.m.reqs.any fun r => r.src = .core && r.stage != .checked && !departed s r.id && homeCut s (homeOfPage s r.page)
/-- What converts a drain where the watchdog has counted out, which ends every wait: also one that 08 R156 does not list (10 R201, 11 R217, DEDUCED, log 18). -/
def stuckOut (s : State) : Bool := stuck s || headWaits s (fun _ => true) || waitsAtPort s
/-- What converts the drain for a cause. -/
def stuckFor (s : State) (c : Nat) : Bool := if c = 0x06 then stuckOut s else stuck s
/-- Whether a head lies at or behind a recorded fault. -/
def pastFault (i : TrapInfo) (q : Queue) (e : QEntry) : Bool :=
  i.fbsn < e.bsn || (i.fbsn = e.bsn && (queueOf (faultSlot i) = q || e.slots.all fun x => faultSlot i ≤ x.k))
/-- What keeps the head of a queue from issuing: a hold (09 R185), a realign that has not been released (07 R140), a recorded fault (08 R151,
R156), the rewrite window (19 R325), a run-ahead (25 R390), or a pending write (07 R138). -/
def headStopped (s : State) (q : Queue) (e : QEntry) : Bool :=
  behindHold s e || (e.realign && s.f.realigned ≤ e.bsn) || (match s.f.rbFaults with | [] => false | i :: _ => pastFault i q e)
  || inWin s e || heldEntry s e || behindMark s e || interlocked s e
/-- The results of a vector queue whose landing cycle is the next issue cycle of the queue land in it: while the head is stalled they are frozen (04 R89). -/
def execLatchLands (q : VQueue) (s : State) : Out :=
  match getQ s (queueOfV q) with
  | [] => notEnabled "LATCH_LANDS"
  | e :: _ => when (!headStopped s (queueOfV q) e && s.f.latches.any fun l => l.q = q && l.due ≤ e.bsn) "LATCH_LANDS" (landDue s q e.bsn)
/-- Everything before the lowest recorded fault has issued and been answered. -/
def settled (s : State) : Bool :=
  match s.f.rbFaults with
  | [] => false
  | i :: _ =>
    (allQueues.all fun q => match getQ s q with | [] => true | e :: _ => pastFault i q e) &&
      !(s.m.reqs.any fun r => r.src = .core && slotId r.bsn r.k < slotId i.fbsn (faultSlot i))
/-- The recorded fault that is taken once nothing before it is left, or once the wait is over: an entry that was drained for is abandoned (08 R151). -/
def takeRecorded (s : State) (ov : Bool) : Option State :=
  match s.f.rbFaults with
  | [] => none
  | i :: _ => if settled s || ov then some (enterRollback s i) else none
/-- The fault that a drain takes. -/
def drainFault (s : State) : Option State := takeRecorded s (stuck s)
def dropAsync (s : State) (c : Nat) : State := { s with f := { s.f with asyncs := s.f.asyncs.filter fun p => p.1 != c } }
/-- The end of a drain for a cause of way D or A. -/
def finishDrain (m : String) (s : State) (i : TrapInfo) : Out :=
  match takeRecorded s (stuckFor s i.cause) with
  | some t => .next t
  | none =>
    if drained s && s.f.rbFaults.isEmpty then
      let t := if s.f.markDue then setMark s else s
      .next (enterForward (dropAsync t i.cause) i t.f.pc)
    else if stuckFor s i.cause && s.f.rbFaults.isEmpty then .next (enterRollback (dropAsync s i.cause) i)
    else notEnabled m

/-! ### Asynchronous causes (08 R150, R151, R160, 25 R393) -/

def asyncOrder : List Nat := [0x38, 0x06, 0x33, 0x30, 0x31, 0x37]
/-- The pending cause that is taken next; during run-ahead the others wait. -/
def nextAsync (s : State) : Option (Nat × Nat) :=
  asyncOrder.findSome? fun c => s.f.asyncs.find? fun p => p.1 = c && (s.f.ahead.isNone || [0x38, 0x06, 0x33].contains c)
def asyncInfo (c d : Nat) : TrapInfo := ⟨c, d, 7, 0, 0, 0, 0, none⟩
/-- An asynchronous cause is taken between two dispatches. -/
def takeAsync (s : State) (c d : Nat) : State :=
  let i := asyncInfo c d
  let t := dropAsync s c
  if c = 0x33 then enterRollback t i
  else match s.f.ahead with
    | some a =>
      enterRollback (if c = 0x06 then sendBreak (setGroup (dropPartials t fun p => p.id.g = a.g) a.g { group t a.g with broken := true, wait := false }) a.g else t) i
    | none => if drained s && s.f.rbFaults.isEmpty then enterForward t i s.f.pc else setFe s (.draining (some i))
/-- Whether an asynchronous cause is taken before the next bundle. In the wait behind a RET it is taken too (log 18). -/
def asyncDue (s : State) : Bool := s.f.fe = .run && !s.f.handler && (nextAsync s).isSome
/-- A mark or a commit is due before a pending cause: the cause is taken behind it. Where the wait for it would not end, the drain is converted (08 R156), and a
recorded fault goes first (R151). -/
def asyncBehind (m : String) (s : State) (c d : Nat) : Out :=
  match takeRecorded s (stuckFor s c) with
  | some t => .next t
  | none => when (stuckFor s c && s.f.rbFaults.isEmpty) m (enterRollback (dropAsync s c) (asyncInfo c d))
/-- A pending cause is taken. With the result of a run-ahead known, its commit comes first: the run-ahead is over (25 R390, R393). An asynchronous cause that
comes while the queues drain for a landing, or between the landing and the save, pends until the kernel runs on, in place or resumed: whether it comes
together with the landing (07 R148) is open, DESIGN CHOICE (log 29). -/
def execAsyncTrapEntry (s : State) : Out :=
  let m := "ASYNC_TRAP_ENTRY"
  if s.f.handler then notEnabled m
  else match s.f.fe with
    | .draining (some i) => if i.queue = 7 then finishDrain m s i else notEnabled m
    | .run =>
      (match nextAsync s with
       | some (c, d) => if commitDue s && c != 0x33 then asyncBehind m s c d else .next (takeAsync s c d)
       | none => notEnabled m)
    | .marking => (match nextAsync s with | some (c, d) => asyncBehind m s c d | none => notEnabled m)
    | .exiting st =>
      (match nextAsync s with
       | some (c, d) =>
         if s.f.markBehind.isSome || (commitDue s && c != 0x33) then asyncBehind m s c d
         else if !endsAnyway s st then .next (takeAsync { s with f := { s.f with retAt := some s.f.pc } } c d) else notEnabled m
       | none => notEnabled m)
    | _ => notEnabled m
def execTimerInterrupt (s : State) : Out := when (running s && s.kn.trapen) "TIMER_INTERRUPT" (raiseA s 0x30 0)
def execMachineCheck (s : State) : Out := when (running s) "MACHINE_CHECK" (raiseA s 0x38 0)
/-- The watchdog count reaches WDOG (07 R145): in a handler a double trap (08 R163). On a core that ends already it is kept, so that the end waits for nothing that does not
come. -/
def execWatchdogExpiry (s : State) : Out :=
  when (running s && s.x.wdog != 0 && s.x.wdog.toNat ≤ elapsed s s.f.wcount) "WATCHDOG_EXPIRY"
    (let t := { s with f := { s.f with wcount := s.tick } }
     if s.f.handler && !endsNow s then doubleTrap t (asyncInfo 0x06 0) else raiseA t 0x06 0)

/-! ### Run-ahead commits (25 R391) -/

/-- Whether an engine still fills a slot, a table or a knot set for an instruction that issued before the run-ahead. -/
def fillsLeft (s : State) : Bool := s.e.cmds.any fun c => !(clearsOf c.work).isEmpty
/-- Everything has issued up to the held slots, and what it writes has landed (25 R391). -/
def commitReady (s : State) : Bool :=
  aheadStopped s && s.f.steps.isEmpty && s.f.deliver.isEmpty && !fillsLeft s && coreReqsDone s && gateFree s
/-- Everything before the lowest recorded fault has issued and been answered, up to the held slots (25 R391). -/
def settledAhead (s : State) (i : TrapInfo) : Bool :=
  (allQueues.all fun q => match getQ s q with | [] => true | e :: _ => pastFault i q e || headStops s e) &&
    !(s.m.reqs.any fun r => r.src = .core && slotId r.bsn r.k < slotId i.fbsn (faultSlot i))
/-- The bundles of the queues behind which a mark is due: those with a slot that a run-ahead has held back and that is marked (25 R390), each before it and after, but
for MARK. -/
def markPoints (s : State) : List Nat :=
  (allQueues.flatMap (getQ s)).flatMap fun e => e.slots.flatMap fun x =>
    if x.q && marksAfter s x.instr then (if x.instr = .mark then [e.bsn] else [e.bsn - 1, e.bsn]) else []
/-- The first of them from a bundle on: the marks are set one after another. -/
def nextMarked (s : State) (lo : Nat) : Option Nat := ((markPoints s).filter fun b => lo ≤ b).min?
/-- A mark with what still waits in the queues behind it. -/
def setMarkHere (s : State) : State :=
  let t := setMark s
  { t with f := { t.f with atMark := queuesEmpty s, markBehind := none } }
/-- The next mark of those that a run-ahead has held back is begun, or the front end goes on. -/
def markOn (s : State) (lo : Nat) : State :=
  let b := nextMarked s lo
  let t := { s with f := { s.f with markBehind := b } }
  match s.f.fe with | .exiting _ => t | _ => setFe t (if b.isSome then .marking else .run)
/-- The commit mark: the gate performs, and the held slots lie behind it. A held slot that is marked behind its bundle gets its mark
once it has issued. -/
def commit (s : State) : State :=
  let t := setMarkHere s
  markOn { t with f := { t.f with ahead := none } } ((s.f.ahead.map RunAhead.bsn).getD 0)
/-- A mark that is being set is complete: of every bundle dispatched, or of those up to the one that is marked (05 R122, 25 R390). -/
def markComplete (s : State) : Bool :=
  match s.f.markBehind with
  | none => markReady s
  | some b => (allQueues.all fun q => match getQ s q with | [] => true | e :: _ => b < e.bsn) && s.f.steps.isEmpty &&
      (s.f.sb.all fun p => !isMemFile p.file || b < p.bsn) && s.f.deliver.isEmpty && coreReqsDone s && gateFree s

/-! ### Marks, landings and realigns (05 R122, 07 R140, R147) -/

/-- At a landing, every group of the kernel is told that this member is suspended, or that it has resumed (25 R396). -/
def tellGroups (s : State) (m : GroupId → CMsg) : State :=
  (List.range 4).foldl (fun s g => if s.kn.members.getLsbD g then
    (otherDies s.l.coord (physMask s (group s g).gdim)).foldl (fun s c => sendCord s s.x.subm c (m (groupId s g))) s else s) s
/-- 4 ms in cycles. -/
def fourMs : Nat := 8000000
/-- Whether 4 ms have passed since the request for which this core is landing: it is withdrawn (26 R415). -/
def landLate (s : State) : Bool := s.c.runs.any fun x => x.here && match x.asked with | some t => fourMs ≤ elapsed s t | none => false
def execMarkSet (s : State) : Out :=
  let m := "MARK_SET"
  if commitDue s then
    match s.f.rbFaults with
    | [] => when (commitReady s) m (commit s)
    | i :: _ => when (settledAhead s i || stuck s) m (enterRollback s i)
  else match s.f.fe with
    | .marking =>
      (match drainFault s with
       | some t => .next t
       | none => when (markComplete s && s.f.rbFaults.isEmpty) m (markOn (setMarkHere s) ((s.f.markBehind.map (· + 1)).getD s.f.bsn)))
    | .landing =>
      (match drainFault s with
       | some t => .next t
       | none => when (markReady s && s.f.rbFaults.isEmpty && !landLate s) m (setFe (tellGroups (setMark s) .suspend) .landed))
    | .run => if s.f.ahead.isSome then notEnabled m else (match drainFault s with | some t => .next t | none => notEnabled m)
    | .exiting _ => when (s.f.markBehind.isSome && markComplete s && s.f.rbFaults.isEmpty) m (markOn (setMarkHere s) ((s.f.markBehind.map (· + 1)).getD s.f.bsn))
    | _ => notEnabled m
/-- REALIGN: every queue has reached a realign bundle, and everything before it has landed. -/
def execRealign (s : State) : Out :=
  match s.f.qs.va with
  | [] => notEnabled "REALIGN"
  | v :: _ =>
    when (v.realign && s.f.realigned < v.bsn + 1
        && (allQueues.all fun q => match getQ s q with | [] => false | e :: _ => e.bsn = v.bsn)
        && (s.f.latches.all fun l => v.bsn ≤ l.bsn)
        && (s.f.steps.all fun x => v.bsn ≤ x.bsn) && (s.f.sb.all fun p => v.bsn ≤ p.bsn) && (s.f.deliver.all fun d => v.bsn ≤ d.bsn)
        && (s.m.accs.all fun a => v.bsn ≤ a.bsn)) "REALIGN"
      { s with f := { s.f with realigned := v.bsn + 1, unord := [] } }

/-! ### The end of the kernel on this core (03 R74, 08 R163, R164, 26 R401) -/

/-- Every result in flight lands: the device lets it land where its queues have no issue cycle left (03 R70, R74, 08 R162). -/
def landAll (s : State) : State :=
  let t := (landOrder s.f.latches).foldl landLatch s
  { t with f := { t.f with latches := [] } }
/-- Every step in flight lands: where the front end waits for its latch, the matrix issue cycles go on (03 R70). -/
def landSteps (s : State) : State := if s.f.steps.isEmpty then s else (List.range 44).foldl (fun s _ => mxCycle s) s
/-- The lowest-numbered token with an error that nothing consumed (08 R158, 26 R410). -/
def errToken (s : State) : Option (Nat × TokErr) :=
  s.r.tok.findSome? fun p => (p.2.errs.find? fun e => !e.consumed).map fun e => (p.1, e)
/-- What a core that ended without a fault reports. -/
def exitStatus (s : State) (st : EndStatus) : EndStatus :=
  if st.fault then st
  else match errToken s with
    | none => st
    | some (k, e) => ⟨false, BitVec.ofNat 64 (e.cause * 2 ^ 48 + 0x18), 0, e.addr, some k⟩
def unpinAll (s : State) : State :=
  let t := s.f.pins.foldl (fun s a => match pageAt s a with | some p => unpinPage s p | none => s) s
  { t with f := { t.f with pins := [] } }
/-- The exit mark is set, so that the gate performs; a cancelled kernel's gate is discarded. -/
def endCore (s : State) (st : EndStatus) : State :=
  let s := landAll s
  let s := if cancelledHere s then { s with f := { s.f with gate := [], reserved := 0 } } else s
  let t := unpinAll (setMark { s with f := { s.f with handler := false } })
  { t with f := { t.f with fe := .ended (exitStatus t st), asyncs := [], preempt := false, ahead := none, waits := [], holds := [] } }
/-- Whether nothing of a command can move: it waits for a token, an engine, a port or a stream that does not come. -/
def cmdStays (s : State) (c : Cmd) : Bool :=
  if !c.active then !(startReady s c && (enginesOf c).all fun e => (nextUntimed s e).map Cmd.id = some c.id) && c.time.isNone
  else match c.work with
    | .portFence d _ => !workReady s c && (port s d).dead
    | .flag id _ => s.l.sentFlags.any fun m => m.id = id && homeCut s (homeOf s m.addr)
    | _ => !workReady s c && (actsOf c).all fun a => match runAct s c a with | .next _ => false | _ => true
/-- Whether the watchdog has ended the kernel on this core, or has counted out while the core ends (07 R145, 08 R163). -/
def watchdogOut (s : State) (st : EndStatus) : Bool := st.tcause.toNat % 64 = 0x06 || s.f.asyncs.any fun p => p.1 = 0x06
/-- A core that ends and whose watchdog is out, where no token that it waits for can complete: it ends all the same (10 R201, 08 R163, DEDUCED, log 18). -/
def deadEnd (s : State) (st : EndStatus) : Bool := endsAnyway s st && watchdogOut s st && s.e.cmds.all (cmdStays s)
def exitReady (s : State) (st : EndStatus) : Bool := ((drained s && tokensDone s) || (markReady s && deadEnd s st)) && s.f.ahead.isNone
/-- What a core that ends gives up where its queues cannot drain: everything behind its mark, and of a handler also the accesses that wait at a port. -/
def giveUp (s : State) (st : EndStatus) : State :=
  let t := rollbackCore s
  let cut (r : Req) : Bool := r.src = .core && r.stage != .checked && !departed t r.id && homeCut t (homeOfPage t r.page)
  let u := if watchdogOut s st then takeBack { t with m := { t.m with reqs := t.m.reqs.filter fun r => !cut r } } ((t.m.reqs.filter cut).map Req.id) else t
  setFe { u with f := { u.f with handler := false } } (.exiting st)
def execCoreCompletion (s : State) : Out :=
  let m := "CORE_COMPLETION"
  match s.f.fe with
  | .exiting st =>
    if exitReady s st && s.f.rbFaults.isEmpty then .next (endCore s st)
    else if endsAnyway s st then
      (if settled s || (if watchdogOut s st then stuckOut s else stuck s) then .next (giveUp s st) else notEnabled m)
    else if s.f.ahead.isSome then notEnabled m
    else (match drainFault s with | some t => .next t | none => notEnabled m)
  | _ => notEnabled m

end Sys2Proof.Machine
end

