-- ==== Sys2Proof/Machine/Front.lean ====
section
/-! DEFINITION. The dispatch of one bundle (07 R133 to R135): fetch and decode (01), the scalar slot (03 R62), the captured operands (03
R63), implicit marks (05 R122), run-ahead (25 R390), the rewrite window (19 R325, R326) and the return from a handler (08 R162). -/

namespace Sys2Proof.Machine

/-! ### Fetch and decode -/

/-- The bundle at the program counter; none outside the kernel's code (01 R23). -/
def fetch (s : State) : Option (BitVec 512) :=
  let off := s.f.pc.toNat - s.kn.codeBase.toNat
  if s.f.pc < s.kn.codeBase || s.kn.code.length < off + 64 then none
  else some (BitVec.ofNat 512 (leNat ((s.kn.code.drop off).take 64)))
/-- The fields that an FMT enables, in FMTR (09 R190). -/
def mergeFmt (en : BitVec 5) (val : BitVec 20) (f : BitVec 32) : BitVec 32 :=
  (List.range 5).foldl (fun f j => if en.getLsbD j then
    merge f ((val.zeroExtend 32)) (0xF#32 <<< (4 * j)) else f) f
/-- FMTR with the FMTs that have come into force, and those that are still pending (07 R143, R144). An FMT whose shadow has run out is merged at once, and a
frame that an entry writes holds none of REM 0: DESIGN CHOICE (log 26). -/
def settleFmt (f : BitVec 32) (ps : List PendFmt) : BitVec 32 × List PendFmt :=
  ((ps.filter fun p => p.left = 0).foldl (fun f p => mergeFmt p.en p.val f) f, ps.filter fun p => p.left != 0)
/-- FMTR as it is in force for the next bundle, and the FMTs that are still pending (07 R143). -/
def inForce (s : State) : BitVec 32 × List PendFmt := settleFmt s.x.fmtr s.x.pend
/-- The lowest reason for which a slot word is refused, with the FMTR in force (01 R31, R32). -/
def slotEncd (ver : Nat) (fmtr : BitVec 32) (k : Nat) (w : BitVec 64) : Option Nat :=
  match decodeSlot ver k w with
  | .ok x => formatEncd ver fmtr x.instr
  | .error e =>
    if e.encd < 2 then some e.encd
    else match findRow ver k (fieldN w 55 48) with
      | none => some e.encd
      | some r => match formatEncd ver fmtr (r.build (w.extractLsb' 0 48)) with
        | none => some e.encd
        | some f => some (min e.encd f)
/-- What a slot word names, its qualifying predicate included; NOP reads none (01 R18, R28). The encoding alone decides: a drain of EF 0xF names the
registers of the format that takes most (02 R55, 16 R302, 20 R343). -/
def wordOps (ver : Nat) (x : SlotWord) : List Opd :=
  if x.instr = .nop then [] else ⟨.p, x.qp.toNat, .rd⟩ :: (form ver x.instr).ops
def writesUse (u : Use) : Bool := match u with | .wr => true | .comb _ => true | _ => false
def sameConst (u v : Use) : Bool := match u, v with | .comb a, .comb b => a = b | _, _ => false
/-- A dependence of two slots of one group (01 R26, R28). -/
def depends (a b : Opd) : Bool :=
  a.file = b.file && a.n = b.n && !(a.n = 0 && (a.file = .s || a.file = .p)) && a.use != .none && b.use != .none &&
    (writesUse a.use || writesUse b.use) && !sameConst a.use b.use
/-- The slots of a bundle from number k on, with what the open group has named: the decoded slots, or the slot and the ENCD of the first error. -/
def scanSlots (ver : Nat) (fmtr : BitVec 32) : Nat → List Opd → List (BitVec 64) → Except (Nat × Nat) (List SlotWord × List Opd)
  | _, g, [] => .ok ([], g)
  | k, g, w :: ws =>
    match slotEncd ver fmtr k w, decodeSlot ver k w with
    | none, .ok x =>
      let ops := wordOps ver x
      if ops.any fun a => g.any (depends a) then .error (k, 4)
      else match scanSlots ver fmtr (k + 1) (if x.stop || (ver = 1 && k = 7) then [] else g ++ ops) ws with
        | .ok (xs, g) => .ok (x :: xs, g)
        | .error e => .error e
    | some e, _ => .error (k, e)
    | none, .error e => .error (k, e.encd)
/-- The eight slots of the bundle at the program counter. -/
def decodeAt (s : State) (fmtr : BitVec 32) (b : BitVec 512) : Except (Nat × Nat) (List SlotWord × List Opd) :=
  scanSlots s.kn.ver fmtr 0 s.f.grp ((List.range 8).map (slotWord b))

/-! ### The realign check (07 R141, 08 R155) -/

/-- The issue cycles after which a vector result lands (04 R87, 23 R368). -/
def latencyOf (fmtr : BitVec 32) (i : Instr) : Nat :=
  let fp (o : RRR) : Nat := if efIn o.ef (vfmt fmtr) = 8 then 2 else 4
  match i with
  | .vAdd o => fp o | .vSub o => fp o | .vMul o => fp o | .vMin o => fp o | .vMax o => fp o
  | .fma _ => 4 | .fms _ => 4 | .fnma _ => 4
  | .rcp _ => 8 | .rsq _ => 8 | .exp2 _ => 8 | .log2 _ => 8 | .gnorm _ => 8
  | .cvt _ => 3 | .perm _ => 3 | .rsum _ => 6 | .rmax _ => 6 | .rmin _ => 6 | .part _ => 6
  | _ => 2
/-- The vector or mask register that a compute slot writes. -/
def computeDst (i : Instr) : Option Nat :=
  (form 3 i).ops.findSome? fun o => if (o.file = .v || o.file = .mk) && o.use = .wr then some o.n else none
/-- The destination of a result that would land at or after the next bundle: in flight, or still to issue. Of several, the first in record order, then of queue
VA, then of VB: DESIGN CHOICE (log 29). -/
def lateLatch (s : State) : Option Nat :=
  let fly := (recOrder s.f.latches).findSome? fun l =>
    if s.f.bsn ≤ l.due then some (match l.dst with | .v n => n | .mk n => n) else none
  fly.or ((s.f.qs.va ++ s.f.qs.vb).findSome? fun e => e.slots.findSome? fun x =>
    if x.q && s.f.bsn ≤ e.bsn + latencyOf e.fmtr x.instr then computeDst x.instr else none)

/-! ### Holds of dispatch (03 R63, R70 to R72, 07 R135) -/

/-- The front end holds dispatch; the window closes (19 R326). -/
def holdFront (s : State) : Out := if s.f.window.isEmpty then notEnabled "BUNDLE_DISPATCH" else .next (flushWindow s)
/-- The bundle is refused with a cause of way D; during run-ahead dispatch only halts (25 R393). -/
def refuse (s : State) (i : TrapInfo) : Out := if s.f.ahead.isSome then holdFront s else .next (refuseBundle s i)
def infoD (s : State) (cause detail slot : Nat) (faddr : W64) : TrapInfo := ⟨cause, detail, 0, slot, s.f.pc, s.f.bsn, faddr, none⟩
def lagged (s : State) : Bool := allQueues.any fun q => 16 ≤ (getQ s q).length
/-- Whether a queued slot of an earlier bundle, one that has not joined the window, names a register. -/
def queuedSlotNames (s : State) (f : File) (n : Nat) : Bool :=
  allQueues.any fun q => (getQ s q).any fun e => e.slots.any fun x => !x.joined && namesReg s.kn.ver x.instr f n
def namesBobbin (w : Work) (n : Nat) : Bool :=
  match w with | .copy a b .. => a = .bob n || b = .bob n | _ => false
/-- TOPK and GNORM of earlier bundles that have not issued or been delivered (23 R370). -/
def stickyAhead (s : State) : Bool :=
  !s.f.deliver.isEmpty || allQueues.any fun q => (getQ s q).any fun e => e.slots.any fun x => x.q &&
    match x.instr with | .topk _ => true | .gnorm _ => true | _ => false
/-- Whether a result lands before or with a GNORM's of its queue. -/
def beforeSticky (s : State) (l : Latch) : Bool := s.f.latches.any fun m => m.sticky.isSome && m.q = l.q && l.due ≤ m.due
/-- The results of GNORMs land for an MFSR of STKY, behind those of their queue that land before them. -/
def landSticky (s : State) : State :=
  let t := ((landOrder s.f.latches).filter (beforeSticky s)).foldl landLatch s
  { t with f := { t.f with latches := t.f.latches.filter fun l => !beforeSticky s l } }
/-- Whether a GNORM's result still has issue cycles of its queue to land in. -/
def stickyQueued (s : State) : Bool := s.f.latches.any fun l => l.sticky.isSome && !(getQ s (queueOfV l.q)).isEmpty
/-- The state in which an executing scalar slot runs; none while it holds dispatch. An MTSR of an RO register does nothing and holds nothing (log 18). -/
def scalarReady (s : State) (i : Instr) : Option State :=
  if (opsOf s.kn.ver s.x.fmtr i).any fun o => (o.file = .s || o.file = .p) && pendingOn s o.file o.n s.f.bsn then none
  else match i with
    | .mtag o => if queuedSlotNames s .ag o.d.toNat then none else some s
    | .mtbb o => if queuedSlotNames s .bb o.d.toNat || s.e.cmds.any fun c => namesBobbin c.work o.d.toNat then none else some s
    | .mtsr o =>
      let a := srAccess (fieldN o.imm 11 0)
      if a = 0 || ((a = 3 || a = 4) && !s.f.handler) then some s else if queuesEmpty s then some (landSteps (landAll s)) else none
    | .mfsr o => if fieldN o.imm 11 0 != 0x00A then some s else if stickyAhead s || stickyQueued s then none else some (landSticky s)
    | _ => some s

/-! ### What a bundle asks of the front end -/

/-- A decoded slot with its qualifying value. -/
structure Exe where
  k : Nat
  instr : Instr
  q : Bool
  deriving DecidableEq, Repr
/-- q of 01 R16; a NOP does nothing. -/
def qualify (s : State) (x : SlotWord) : Bool := x.instr != .nop && (preg s x.qp.toNat != x.qn)
/-- The slots 1 to 7, in the state behind the scalar slot. -/
def trailing (s : State) (xs : List SlotWord) : List Exe := (xs.zipIdx.drop 1).map fun (x, k) => ⟨k, x.instr, qualify s x⟩
def anyExe (xs : List Exe) (p : Instr → Bool) : Bool := xs.any fun x => x.q && p x.instr
/-- EVWAIT on a counter of another tenant (26 R411). -/
def evDenied (s : State) (i : Instr) : Bool :=
  match i with
  | .evwait o => !(match tenantOf s s.kn.owner with | some t => t.ecs.contains (o.f 23 16) | none => false)
  | _ => false
/-- The gate bytes that a bundle reserves: those of local stores; during run-ahead, of every store. -/
def reserveOf (s : State) (xs : List Exe) : Nat :=
  (xs.map fun x => match storeInfo x.instr with
    | some (g, n) => if x.q && (!g || s.f.ahead.isSome) && n ≤ gateBytes s then n else 0
    | none => 0).sum
/-- The vector registers that some slots write. -/
def vecWrites (ver : Nat) (fmtr : BitVec 32) (i : Instr) : List Nat :=
  (opsOf ver fmtr i).filterMap fun o => if o.file = .v && o.use = .wr then some o.n else none
/-- The vector registers that the journal will hold once everything dispatched has landed. -/
def journaled (s : State) : List Nat :=
  let queued := allQueues.flatMap fun q => (getQ s q).flatMap fun e => e.slots.flatMap fun x => if x.q then vecWrites s.kn.ver e.fmtr x.instr else []
  let fly := s.f.latches.filterMap fun l => match l.dst with | .v n => some n | .mk _ => none
  let due := s.f.deliver.filterMap fun d => if d.file = .v then some d.n else none
  (s.f.jr.v.map Prod.fst ++ queued ++ fly ++ due ++ (s.m.accs.filterMap fun a => if a.file = .v then some a.n else none)).eraseDups
def journalFull (s : State) (fmtr : BitVec 32) (xs : List Exe) : Bool :=
  let new := (xs.flatMap fun x => if x.q then vecWrites s.kn.ver fmtr x.instr else []).eraseDups.filter fun n => !(journaled s).contains n
  !new.isEmpty && 32 < (journaled s).length + new.length
def gateHolds (s : State) : Bool := !s.f.gate.isEmpty || s.f.reserved != 0
/-- A global load, LD.v, LDG or XLT. -/
def loadsPastGate (i : Instr) : Bool :=
  match i with
  | .ldB o => o.glb | .ldH o => o.glb | .ldW o => o.glb | .ldD o => o.glb | .ldBs o => o.glb | .ldHs o => o.glb | .ldWs o => o.glb
  | .ldV _ => true | .ldg _ => true | .xlt _ => true | _ => false
def isMarkedSync (i : Instr) : Bool :=
  match i with | .fence _ => true | .drain _ => true | .flag _ => true | .bar _ => true | .launch _ => true | _ => false
/-- Whether a mark is due before the bundle (05 R122). -/
def markBefore (s : State) (fmtr : BitVec 32) (sc : Exe) (xs : List Exe) : Bool :=
  (sc.q && sc.instr = .yield) ||
  (anyExe xs fun i => isFenced i || isCopySlot i || isMarkedSync i || bigStore s i || (match storeInfo i with | some (g, _) => g | none => false)
    || (gateHolds s && (loadsPastGate i || isOtherEngine i))) ||
  gateBytes s < s.f.reserved + reserveOf s xs || journalFull s fmtr (sc :: xs)
/-- Whether a bundle of the run-ahead halts dispatch (25 R390). -/
def aheadHalts (s : State) (fmtr : BitVec 32) (re : Bool) (sc : Exe) (xs : List Exe) : Bool :=
  anyExe (sc :: xs) isHaltKind || (re && allQueues.any fun q => (getQ s q).any (heldEntry s)) || (anyExe xs (overGate s)) ||
    gateBytes s < s.f.reserved + reserveOf s xs || journalFull s fmtr (sc :: xs)

/-! ### Queue entries -/

/-- The capture of a scalar operand (03 R63): its value, or the last earlier producer that is pending. -/
def captureS (s : State) (n : Nat) : Capt :=
  match (s.f.sb.filter fun p => p.file = .s && p.n = n).foldl (fun r p => match r with | none => some p.bsn | some b => some (max b p.bsn)) none with
  | some b => .wait b
  | none => .known (sreg s n)
def capturesOf (s : State) (fmtr : BitVec 32) (x : Exe) : List (Nat × Capt) :=
  if !x.q then []
  else ((opsOf s.kn.ver fmtr x.instr).filterMap fun o =>
    if o.file = .s && o.use = .rd && o.n != 0 then some o.n else none).eraseDups.map fun n => (n, captureS s n)
/-- The slots claimed by every OCLM and OREL dispatched so far (09 R175). -/
def claimsNow (s : State) : BitVec 32 :=
  s.f.qs.mx.foldl (fun c e => e.slots.foldl (fun c x =>
    if !x.q then c else match x.instr with
      | .oclm o => c ||| (1#32 <<< o.d.toNat)
      | .orel o => c &&& ~~~(1#32 <<< o.d.toNat)
      | _ => c) c) s.r.claims
/-- The registers on which a dispatched slot places a pending write (07 R138): of GREF every destination slot that its grid may have, those that it does not write until it
issues (log 18). -/
def pendsOf (ver : Nat) (fmtr : BitVec 32) (x : Exe) : List (File × Nat) :=
  let wr (fs : List File) : List (File × Nat) :=
    (opsOf ver fmtr x.instr).filterMap fun o => if fs.contains o.file && o.use = .wr && !(o.file = .s && o.n = 0) then some (o.file, o.n) else none
  if !x.q then []
  else match x.instr with
    | .accrdV _ => wr [.v]
    | .fdrn _ => wr [.v]
    | .cpyo _ => wr [.o]
    | .cbld _ => wr [.cb]
    | .knld _ => wr [.kn]
    | .gref o => (((List.range 15).map fun j => o.f 20 16 + j).filter (· < 32)).map (fun n => (.o, n)) ++ wr [.kn]
    | _ => if x.k = 4 then wr [.s, .v] else []
/-- The slot's holds on every later bundle (09 R185 to R189, R194). -/
def holdsLater (i : Instr) : Bool :=
  match i with | .twait _ => true | .fence _ => true | .drain _ => true | .bar _ => true | .evwait _ => true | _ => false
/-- Slots 1 to 7 enter their queues. -/
def enqueueBundle (s : State) (e : QEntry) (xs : List Exe) : State :=
  let claims := claimsNow s
  let slot (x : Exe) : QSlot := ⟨x.k, x.instr, x.q, capturesOf s e.fmtr x, [], none, claims, none, false⟩
  let t := allQueues.foldl (fun t q => setQ t q (getQ t q ++
    [{ e with slots := (xs.filter fun x => queueOf x.k = q).map slot }])) s
  let t := (xs.flatMap (pendsOf s.kn.ver e.fmtr)).foldl (fun t p => placePending t p.1 p.2 e.bsn) t
  if anyExe xs holdsLater then { t with f := { t.f with holds := t.f.holds ++ [e.bsn] } } else t

/-! ### The window (19 R324 to R326) -/

/-- Whether a bundle holds a flush point; a MARK of a handler sets no mark (08 R160). -/
def flushPoint (s : State) (re jump : Bool) (sc : Exe) (xs : List Exe) : Bool :=
  re || jump || anyExe (sc :: xs) (fun i => match i with
    | .mark => !s.f.handler | .chb _ => true | .che _ => true | .fchb _ => true | .rwfl => true | .prkld _ => true | .fmt _ => true
    | .yield => true | .trap _ => true | .eret => true | .cbr _ => true | i => meetsMember s i)
/-- A scalar instruction of more than one dispatch cycle (03 R62, R65, R67): the front end holds behind it. -/
def slowScalar (i : Instr) : Bool :=
  match i with
  | .mul _ => true | .mulh _ => true | .muli _ => true | .div _ => true | .divu _ => true | .rem _ => true | .remu _ => true | _ => false
/-- The executing tile instructions of a bundle join the window, in slot order. An access of the bundle that steps a generator before one of
them takes its addresses first (19 R325). -/
def joinTiles (s : State) (bsn : Nat) (xs : List Exe) : State :=
  if s.kn.ver < 2 then s
  else (xs.filter Exe.q).foldl (fun s x =>
    match memberAt s (bsn, x.k) with
    | none => s
    | some (e, y) =>
      if isTile x.instr then let r := joinWindow s e y; putSlot r.2 bsn r.1
      else match memWalk x.instr with
        | none => s
        | some (n, k) =>
          if xs.any fun z => z.q && x.k < z.k && isTile z.instr && namesReg s.kn.ver z.instr .ag n then
            let r := genTake s n k
            putSlot r.2 bsn { y with gens := [(n, r.1)] }
          else s) s

/-! ### The bundle behind its scalar slot -/

/-- The new pending FMTs: those of before are one bundle nearer, and an executing FMT joins them (07 R143). -/
def pendAfter (pend : List PendFmt) (xs : List Exe) : List PendFmt :=
  pend.map (fun p => { p with left := p.left - 1 }) ++ xs.filterMap fun x =>
    match x.instr with
    | .fmt o => if x.q then some ⟨BitVec.ofNat 5 (o.f 24 20), BitVec.ofNat 20 (o.f 19 0), 3⟩ else none
    | _ => none
/-- Whether an end check has taken a back-edge: a level has advanced, where an exit only pops (03 R77). -/
def backEdge (ls ls' : List Loop) : Bool := ls' != ls.drop (ls.length - ls'.length)
/-- Whether a requested pre-emption lands behind this bundle (07 R146, R148). -/
def lands (s : State) (yields backEdge : Bool) : Bool :=
  s.f.preempt && !s.f.handler && s.f.ahead.isNone && s.f.asyncs.isEmpty && (yields || (backEdge && s.kn.preemptOk && !s.kn.persist))
/-- What the front end does behind the bundle. -/
def feAfter (s : State) (act : ScAct) (after landing : Bool) (i : TrapInfo) : Fe :=
  match act with
  | .exit => .exiting .ok
  | .eret => .returning
  | .softTrap _ => .draining (some i)
  | _ => if landing then .landing else if after then .marking else s.f.fe
/-- The bundle is dispatched: s is the state behind its scalar slot. -/
def dispatched (s : State) (fmtr : BitVec 32) (pend : List PendFmt) (idx : List W64) (re : Bool) (grp : List Opd) (sc : Exe) (xs : List Exe) : State :=
  let pc := s.f.pc
  let bsn := s.f.bsn
  let act := s.f.cur.act
  let jumped := match act with | .goto t => some t | _ => none
  let chk := match act with | .goto _ => (s.r.loops, none) | .exit => (s.r.loops, none) | .eret => (s.r.loops, none) | _ => endCheck pc s.r.loops
  let next := (jumped.or chk.2).getD (pc + 64)
  let taken := (jumped.or chk.2).isSome
  let back := chk.2.isSome && backEdge s.r.loops chk.1
  let s := if chk.2.isSome then setLoops s chk.1 else s
  let isCbr := match sc.instr with | .cbr _ => true | _ => false
  let s := if flushPoint s re (taken || act = .exit) sc xs then flushWindow s else s
  let t := enqueueBundle s ⟨bsn, pc, re, idx, fmtr, []⟩ xs
  let t := joinTiles t bsn xs
  let kernel := !s.f.handler
  let after := kernel && t.f.ahead.isNone && anyExe xs (marksAfter s)
  let landing := lands t (sc.q && sc.instr = .yield) back
  let code := match act with | .softTrap c => c | _ => 0
  let soft := match act with | .softTrap _ => true | _ => false
  let fe := feAfter t act after landing ⟨0x03, code, 0, 0, pc, bsn, 0, none⟩
  let fmt := settleFmt fmtr (pendAfter pend xs)
  { t with
    x := { t.x with fmtr := fmt.1, pend := fmt.2 }
    f := { t.f with
      pc := next, bsn := bsn + 1, grp := if taken || isCbr then [] else grp
      reserved := if kernel then t.f.reserved + reserveOf t xs else t.f.reserved
      atMark := if kernel then false else t.f.atMark
      wcount := if sc.q && sc.instr = .yield then t.tick else t.f.wcount
      markDue := soft && after
      fe := fe, window := if fe = .run && !(sc.q && slowScalar sc.instr) then t.f.window else [] } }
/-- The mark of a CBR is being set: its contribution is owed (23 R376, 25 R394). -/
def markForCbr (s : State) (o : BRN) : State :=
  let x := group s o.cg
  setFe (flushWindow (setGroup s o.cg { x with any := o.any, owed := !x.contributed })) .marking
/-- Whether a CBR still needs its mark. -/
def cbrUnmarked (s : State) (i : Instr) : Option BRN :=
  match i with
  | .cbr o => if s.f.handler || s.f.ahead.isSome || s.f.atMark then none else some o
  | _ => none
/-- The scalar slot runs, the marks are judged, and the bundle enters its queues. The loop indices of its slots are taken before its scalar slot runs:
DESIGN CHOICE (log 26). Of several D causes of one bundle, that of the realign latch (0x05) is judged before those of the scalar slot, and EVWAIT's 0x02 last: 08
R155 gives no order, DESIGN CHOICE (log 29). -/
def dispatchDecoded (s : State) (fmtr : BitVec 32) (pend : List PendFmt) (grp : List Opd) (xs : List SlotWord) : Out :=
  let scw := xs.headD ⟨false, 0, false, false, .nop⟩
  let sc : Exe := ⟨0, scw.instr, qualify s scw⟩
  let re := xs.any SlotWord.realign || (sc.q && sc.instr = .yield)
  let idx := (List.range 6).map fun j => match levelAt s.r.loops j with | some l => l.index | none => 0
  match (if re then lateLatch s else none) with
  | some d => refuse s (infoD s 0x05 d 0 0)
  | none =>
    match cbrUnmarked s sc.instr with
    | some o => .next (markForCbr s o)
    | none =>
      match (if sc.q then scalarReady s sc.instr else some s) with
      | none => holdFront s
      | some s1 =>
        match runScalar sc.instr (setCur s1 { Cur.zero with bsn := s.f.bsn, pc := s.f.pc, q := sc.q, idx := idx, fmtr := fmtr }) with
        | .next t =>
          if t.f.cur.ctl = .trapped then .next t
          else if t.f.cur.ctl != .done then holdFront s
          else
            let ts := trailing t xs
            if anyExe ts (evDenied s) then refuse s (infoD s 0x02 0 7 0)
            else if s.f.ahead.isSome && aheadHalts s fmtr re sc ts then holdFront s
            else if !s.f.handler && s.f.ahead.isNone && !s.f.atMark && markBefore s fmtr sc ts then .next (setFe (flushWindow s) .marking)
            else if 2 ≤ s.kn.ver && ts.any fun x => x.q && isTile x.instr && joinHeld s s.f.bsn fmtr x.instr then holdFront s
            else .next (dispatched t fmtr pend idx re grp sc ts)
        | r => r
/-- A bundle dispatches. A lag of 16 (07 R135) holds it also where joined tile instructions stand in the queues: in the program of 17 R312 that flushes window W0 before 0x880,
where the table has it closed by the mark before 0xA80 (DEDUCED, log 18). -/
def dispatch (s : State) : Out :=
  if asyncDue s then notEnabled "BUNDLE_DISPATCH"
  else if commitDue s || !s.f.rbFaults.isEmpty || lagged s then holdFront s
  else match fetch s with
    | none => refuse s (infoD s 0x10 0 0 s.f.pc)
    | some b =>
      let (fmtr, pend) := inForce s
      match decodeAt s fmtr b with
      | .error (k, e) => refuse s (infoD s 0x01 e k 0)
      | .ok (xs, grp) => dispatchDecoded s fmtr pend grp xs

/-! ### ERET (08 R162) -/

def frameNat (s : State) (off n : Nat) : Nat := leNat (readBytes s.m.cells (trapBase + off) n)
/-- A latch record of the frame: none where its descriptor is refused. -/
def frameRec (s : State) (k : Nat) : Option LatchRec :=
  let d := frameNat s (0x140 + 8 * k) 8
  let rem := d / 2 ^ 12 % 16
  let kind := d / 2 ^ 10 % 4
  let q := d / 2 ^ 8 % 4
  let n := d % 256
  let val := frameNat s (0x1000 + 2048 * k) 2048
  let m := frameNat s (0x9000 + 512 * k) 512
  let file : File := if kind = 0 then .v else .mk
  if 1 < q || 1 < kind || rem = 0 || 8 < rem || !File.has s.kn.ver file n then none
  else some ⟨if q = 0 then .va else .vb, if kind = 0 then .v n else .mk n,
    BitVec.ofNat 16384 (if kind = 0 then val else val % 2 ^ 512),
    if kind = 0 then vecOf 4 (fun j => if m.testBit j then 15 else 0) else BitVec.ofNat 16384 (m % 2 ^ 512), rem, s.f.recSticky.getD k none⟩
/-- A pending FMT of the frame: none where the entry is refused. -/
def framePend (s : State) (k : Nat) : Option PendFmt :=
  let w := frameNat s (0x200 + 4 * k) 4
  let en := w / 2 ^ 20 % 32
  let bad := (List.range 5).any fun j => en.testBit j && 9 < w / 2 ^ (4 * j) % 16
  if w / 2 ^ 31 = 0 || w / 2 ^ 27 % 16 != 0 || bad then none
  else some ⟨BitVec.ofNat 5 en, BitVec.ofNat 20 (w % 2 ^ 20), w / 2 ^ 25 % 4⟩
def frameLoop (s : State) (j : Nat) : Loop :=
  let w (i : Nat) : W64 := BitVec.ofNat 64 (frameNat s (0x080 + 32 * j + 8 * i) 8)
  ⟨w 0, w 1, w 2, w 3, (frameNat s 0x024 1).testBit j⟩
/-- The loop stack of the frame: the levels up to the highest that LSACT marks. -/
def frameLoops (s : State) : List Loop :=
  let act := frameNat s 0x024 1 % 64
  (List.range (if act = 0 then 0 else Nat.log2 act + 1)).map (frameLoop s)
/-- The records and pending FMTs of the frame, if none is refused. A set reserved bit of NPFMT counts as an NPFMT above 4: DESIGN CHOICE (log 29). -/
def frameReturn (s : State) : Option (List LatchRec × List PendFmt) :=
  let n := frameNat s 0x025 1
  let p := frameNat s 0x02C 4
  if 16 < n || 4 < p then none
  else
    let rs := (List.range n).map (frameRec s)
    let ps := (List.range p).map (framePend s)
    if rs.any Option.isNone || ps.any Option.isNone then none else some (rs.filterMap id, ps.filterMap id)
/-- The return: the frame as it stands is restored; a return to the wait behind a RET goes on waiting (log 18). After 0x38 the kernel ends instead (08 R165), and
its gate performs as at any end of a kernel. The 0x39 of a bad frame reports itself as the inner cause. Both are DESIGN CHOICES (log 29). A format field of
the frame's FMTR that a handler has edited is taken with any code, and bits 31:20 are dropped: R162 names no check of them, DESIGN CHOICE (log 29). -/
def doReturn (s : State) : State :=
  if s.x.tcause.toNat % 64 = 0x38 then endKernel s ⟨true, s.x.tcause, 0, 0, none⟩
  else match frameReturn s with
    | none => doubleTrap s { infoD s 0x39 0 0 0 with fbundle := s.f.pc - 64, fbsn := s.f.bsn - 1 }
    | some (rs, ps) =>
      let pc := bundleOf (BitVec.ofNat 64 (frameNat s 0x008 8))
      let s := landAll s
      let fmt := settleFmt (BitVec.ofNat 32 (frameNat s 0x028 4 % 2 ^ 20)) ps
      let t := { s with
        r := { s.r with loops := frameLoops s }
        x := { s.x with fmtr := fmt.1, pend := fmt.2 } }
      let t := if t.f.atMark then requeueHeld t else t
      reinject { t with f := { t.f with pc := pc, handler := false, grp := [], latches := []
                                        fe := if t.f.retAt = some pc || (t.f.atMark && t.f.mark.exit && pc = t.f.mark.pc) then .exiting .ok
                                              else if (nextMarked t 0).isSome then .marking else .run
                                        retAt := none
                                        markBehind := nextMarked t 0
                                        atMark := t.f.atMark && pc = t.f.mark.pc } } rs
/-- BUNDLE_DISPATCH: the next bundle, the end of a drain for a cause of way D, or the return behind an ERET. -/
def execBundleDispatch (s : State) : Out :=
  let m := "BUNDLE_DISPATCH"
  match s.f.fe with
  | .run => dispatch s
  | .draining (some i) => if i.queue = 7 then notEnabled m else finishDrain m s i
  | .returning => when (markReady s) m (doReturn s)
  | _ => notEnabled m

end Sys2Proof.Machine
end

