-- ==== Sys2Proof/Machine/Links.lean ====
section
/-! DEFINITION. Links: their states, bring-up and keys (12 R228 to R233), replay (R230), the traffic of a port (26 R419, 11 R212 to R218),
circuit changes (12 R226, R227) and parking (R234). -/

namespace Sys2Proof.Machine

/-! ### Traffic that must take another way (11 R215 to R217) -/

def requesterOf (s : State) (f : Flit) : Requester :=
  if f.orig != s.l.coord then .relay
  else match f.body with
    | .stream c .. => .core c | .mcast c .. => .core c | .streamAck c .. => .core c | .credit c .. => .core c
    | _ => .memory
/-- Whether traffic at port p with these hops before it is stuck there: its link is dead, or a later link of the detour that it begins. -/
def stuckAt (s : State) (p : Nat) (via : List Nat) : Bool :=
  match via with
  | [] => mapDead s s.l.coord p
  | [d, e, _] => e = p && (mapDead s s.l.coord p || mapDead s (partner s.l.coord p) d || mapDead s (partner (partner s.l.coord p) d) e)
  | _ => false
/-- The way that traffic takes now which cannot stay where it waits: it is stuck, or its detour goes by another dimension now (11 R216). What is stuck on a detour with no
other way waits at the port of the hop, where later traffic of its pair waits behind it (R212, R217). -/
def wayOut (s : State) (p : Nat) (mask : BitVec 15) (dest : Coord) (via : List Nat) : Option (Nat × List Nat) :=
  if stuckAt s p via then
    match nextHop s mask dest, via with
    | some h, _ => some h
    | none, d :: _ => some (d, [])
    | none, [] => none
  else match via with
    | [d, e, _] => if e = p && mapDead s s.l.coord d then (detourDim s mask d).bind fun h => if h = e then none else some (h, detourVia d h) else none
    | _ => none
/-- Traffic of the engines with no way left stops (11 R217). -/
def stopsHere (s : State) (p : Nat) (f : Flit) : Bool :=
  stuckAt s p f.via && f.orig = s.l.coord && !f.numbered &&
    match f.body with | .stream .. => true | .mcast .. => true | _ => false
/-- Whether traffic has a way to go on from a port where it is stuck. -/
def hasWay (s : State) (f : Flit) : Bool := (nextHop s f.dims f.dest).isSome
def requeue (s : State) (p : Nat) (x : Requester × Flit) : State :=
  if stopsHere s p x.2 && !hasWay s x.2 then s
  else match wayOut s p x.2.dims x.2.dest x.2.via with
    | some (h, via) => pushOut s h x.1 { x.2 with via := via }
    | none => pushOut s p x.1 x.2
/-- A message of a port takes its way: one that stays stays on its side of the port's fence. -/
def requeueCord (s : State) (p : Nat) (back : Bool) (m : CordMsg) : State :=
  match wayOut s p m.dims m.dest m.via with
  | some (h, via) => pushCord s h { m with via := via }
  | none => if back then pushCord s p m else setPort s p (addCord s.tick (port s p) [m])
/-- The flits that this die has sent over a detour by port p which goes by another way now: they are sent again (11 R216). -/
def sentAgain (s : State) (p : Nat) : List Flit := s.l.detoured.filter fun f => f.via.getD 1 15 = p && (wayOut s p f.dims f.dest f.via).isSome
/-- The messages that this die has sent over a detour by port p which go by another way now. -/
def cordAgain (s : State) (p : Nat) : List CordMsg := s.l.cordDetoured.filter fun m => m.via.getD 1 15 = p && (wayOut s p m.dims m.dest m.via).isSome
/-- A flit as it is sent again. -/
def resend (s : State) (f : Flit) : Requester × Flit := (requesterOf s f, { f with ch := 0, cord := 0, ride := none })
/-- Everything that waits at a port takes the way that this die's map gives it, behind what it sent over a detour that has been cut or goes by another dimension now. A
fence keeps what is left of the flits ahead of it. -/
def reroutePort (s : State) (p : Nat) : State :=
  let q := port s p
  let again := sentAgain s p
  let msgs := cordAgain s p
  let t := setPort { s with l := { s.l with detoured := s.l.detoured.filter fun f => !again.contains f, cordDetoured := s.l.cordDetoured.filter fun m => !msgs.contains m } } p
    { q with outq := [], cord := [], cordBack := [], halfSent := false }
  let upTo (n : Nat) : State := (again.map (resend s) ++ q.outq.take n).foldl (fun s x => requeue s p x) t
  let ahead (k : Option Nat) : Option Nat := k.map fun n => (port (upTo n) p).outq.length
  let t := (msgs ++ q.cord).foldl (fun s m => requeueCord s p false m) (upTo q.outq.length)
  let t := q.cordBack.foldl (fun s m => requeueCord s p true m) t
  setPort t p (markLow t.tick q { port t p with portFence := ahead q.portFence, circFence := ahead q.circFence })
/-- Every port's traffic takes the way that the map gives it; a stream that is cut off with no detour ends its command (11 R217). -/
def reroute (s : State) : State :=
  let t := (List.range 15).foldl reroutePort s
  (t.e.cmds.map Cmd.id).foldl (fun t id => match t.e.cmds.find? fun c => c.id = id with
    | some c => if c.active then stopCut t c else t
    | none => t) t
/-- What a link sent and was not acknowledged waits at the port again, in order, before what waits there (11 R216), and ahead of its fences. A flit or a message of a
detour that has been sent again by another way is no more this port's. -/
def waitAgain (s : State) (d : Nat) : State :=
  let p := port s d
  let own (f : Flit) : Bool := f.ftype = 0 && (f.via.length != 3 || s.l.detoured.any fun g => g.orig = f.orig && g.dest = f.dest && g.pseq = f.pseq && g.via = f.via)
  let back := (p.replay.filter own).map (resend s)
  let msgs := (p.replay.flatMap carried).filter fun m => m.via.length != 3 || isAckMsg m.msg || s.l.cordDetoured.contains m
  let k := back.length
  let t := setPort s d { p with outq := back ++ p.outq, cord := msgs ++ p.cord, halfSent := false
                                portFence := p.portFence.map (· + k), circFence := p.circFence.map (· + k) }
  { t with l := { t.l with detoured := t.l.detoured.filter fun g => !back.any fun x => x.2.orig = g.orig && x.2.dest = g.dest && x.2.pseq = g.pseq
                           cordDetoured := t.l.cordDetoured.filter fun m => !msgs.contains m } }
/-- A link has gone down: what it has not delivered waits again, and its replay is at an end. -/
def recallFlits (s : State) (d : Nat) : State :=
  let t := waitAgain s d
  setPort t d { port t d with replay := [], half := false, fails := 0, rxFails := 0, nakDue := false }

/-! ### Notices (11 R214) -/

/-- The other dies of every allotment that contains this one, each with the dimensions of the first allotment that it shares. -/
def allotDies (s : State) : List (Coord × BitVec 15) :=
  (s.c.tenants.filter fun t => (s.l.coord ^^^ t.base) &&& ~~~t.mask = 0).foldl (fun l t =>
    l ++ ((otherDies s.l.coord t.mask).filter fun c => !l.any fun x => x.1 = c).map fun c => (c, t.mask)) []
/-- Notice of the state of a link of this die goes to every die of its allotments. -/
def notify (s : State) (d : Nat) : State :=
  (allotDies s).foldl (fun s (c, m) => sendCord s m c (.linkState (linkEnd s.l.coord d) d (ownLink s d))) s
/-- A link is declared dead: its circuit changes end, its traffic takes the detour, and notice goes out. -/
def declareDead (s : State) (d : Nat) : State :=
  if (port s d).dead then s
  else
    let t := recallFlits (setPort s d { port s d with dead := true }) d
    notify (reroute (setPort t d { port t d with circFence := none })) d
/-- A link comes up, or back. -/
def bringUp (s : State) (d : Nat) : State :=
  let p := port s d
  let old := ownLink s d
  let s := setLinkMap s s.l.coord d .up
  let t := restripe (setPort s d { p with stage := .up, dead := false, since := s.tick, fails := 0, rxFails := 0, nakDue := false, fastFailed := none }) d
  let t := reroute t
  if ownLink t d = old then t else notify t d
/-- Three failures take a link down: it is dead at once, and full training begins (12 R230). A link of dimensions 0 to 2, for which the spec gives no training, stays
down: DESIGN CHOICE (log 29). -/
def linkDown (s : State) (d : Nat) : State :=
  let t := declareDead s d
  setPort t d { port t d with stage := if d < 3 then .down else .training, since := s.tick }
/-- A link-state notice changes this die's map. Where a link of this die is dead by it, whose traffic goes by a detour now, what it has sent there and has seen no
acknowledgement of is sent again, before later traffic (11 R216). -/
def noticeLink (s : State) (coord : Coord) (d : Nat) (st : LinkState) : State :=
  let t := setLinkMap s coord d st
  reroute (if linkEnd coord d = linkEnd s.l.coord d && st = .dead && !mapDead s s.l.coord d then waitAgain t d else t)
def execLinkStateNotice (coord : Coord) (d : Nat) (st : LinkState) (s : State) : Out :=
  when (d < 15) "LINK_STATE_NOTICE" (noticeLink s coord d st)

/-! ### Replay (12 R230) -/

/-- A flit of one link. It bears the number that the next data flit of its pair gets: its own order is the link's, and no detour carries it (log 15). -/
def newLinkFlit (s : State) (d : Nat) (ftype : BitVec 4) (b : Body) : Flit :=
  { newFlit s ftype (partner s.l.coord d) b [] 0 with pseq := BitVec.ofNat 22 (lookupSeq s.l.txSeq (partner s.l.coord d)) }
def linkFlit (s : State) (d : Nat) (ftype : BitVec 4) (b : Body) : State := transmit s d (newLinkFlit s d ftype b)
/-- The receiver's cumulative acknowledgement, or its NAK, names the counter that it expects. It waits while the direction back takes no flit: a NAK until there is
room again. What
came under an old key is acknowledged with it, and the key is freed (12 R229). -/
def sendLinkAck (s : State) (d : Nat) (nak : Bool) : State :=
  if !linkRoom s d then setPort s d { port s d with nakDue := (port s d).nakDue || nak }
  else
    let p := port s d
    let t := linkFlit s d 2 (.linkAck p.rxEpoch p.rxCtr nak)
    setPort t d { port t d with nakDue := false, rxSince := 0, rxAckSince := s.tick, rxOldSlot := none }
def execAcknowledgementInterval (d : Dim) (s : State) : Out :=
  let p := port s d
  when (d < 15 && p.stage = .up && !p.dead && 0 < p.rxSince && linkRoom s d && 2000 ≤ elapsed s p.rxAckSince) "ACKNOWLEDGEMENT_INTERVAL" (sendLinkAck s d false)
/-- Whether a flit was sent before an epoch and counter. -/
def sentBefore (epoch counter : Nat) (f : Flit) : Bool := f.epoch < epoch || (f.epoch = epoch && f.counter < counter)
/-- An epoch and counter that this port can have sent, or sends next. -/
def sentUpTo (p : Port) (epoch counter : Nat) : Bool := epoch < p.txEpoch || (epoch = p.txEpoch && counter ≤ p.txCtr)
/-- Everything before an epoch and counter is acknowledged: its entries are freed, and the old key once it is drained. From an acknowledgement that frees a flit on, the
20 µs of a missing one count anew for those that are left: DESIGN CHOICE (log 29). -/
def freeReplay (s : State) (d epoch counter : Nat) : State :=
  let p := port s d
  let left := p.replay.filter fun f => !sentBefore epoch counter f
  let old := match p.oldSlot with | some n => if left.any (fun f => f.epoch = n) then some n else none | none => none
  setPort s d { p with replay := left, oldSlot := old, fails := if left.length < p.replay.length then 0 else p.fails
                       ackSince := if left.length < p.replay.length then s.tick else p.ackSince }
/-- An acknowledgement makes room, in which a NAK that waited goes out. -/
def acknowledge (s : State) (d epoch counter : Nat) : State :=
  let t := freeReplay s d epoch counter
  if (port t d).nakDue then sendLinkAck t d true else t
/-- One failure at the sender: it replays from its oldest unacknowledged flit, or the link goes down at the third. -/
def failure (s : State) (d : Nat) : State :=
  let p := port s d
  if 3 ≤ p.fails + 1 then linkDown s d else setPort s d { p with fails := p.fails + 1, ackSince := s.tick }
/-- A NAK names the flit from which the sender replays, each byte for byte. -/
def takeNak (s : State) (d epoch counter : Nat) : State := failure (acknowledge s d epoch counter) d
def execNakReplay (d : Dim) (epoch counter : Nat) (s : State) : Out :=
  let p := port s d
  when (d < 15 && p.stage = .up && !p.dead && p.replay.any fun f => f.epoch = epoch && f.counter = counter) "NAK_REPLAY" (takeNak s d epoch counter)
def execAckReceived (d : Dim) (epoch counter : Nat) (s : State) : Out :=
  let p := port s d
  when (d < 15 && p.stage = .up && !p.dead && sentUpTo p epoch counter) "ACK_RECEIVED" (acknowledge s d epoch counter)
def execAckTimeout (d : Dim) (s : State) : Out :=
  let p := port s d
  when (d < 15 && p.stage = .up && !p.dead && !p.replay.isEmpty && 40000 ≤ elapsed s p.ackSince) "ACK_TIMEOUT" (failure s d)

/-! ### Keys (12 R228, R229) -/

def switchAt : Nat := 2 ^ 39
/-- No key has this epoch: the link authenticates again. -/
def lastEpoch : Nat := 2 ^ 32 - 1
/-- The counter has reached 2^39: a marker goes out under the old key, and the next flits are sent under the new one. Where the epochs end,
the link authenticates again. -/
def execKeySwitch (d : Dim) (s : State) : Out :=
  let p := port s d
  when (3 ≤ d && d < 15 && p.stage = .up && !p.dead && switchAt ≤ p.txCtr && p.oldSlot.isNone && linkRoom s d) "KEY_SWITCH"
    (if p.txEpoch + 1 = lastEpoch then setPort s d { p with stage := .aligned, since := s.tick, prk := none }
     else
       let t := linkFlit s d 3 (.marker (p.txEpoch + 1))
       setPort t d { port t d with txEpoch := p.txEpoch + 1, txCtr := 0, oldSlot := some p.txEpoch })

/-! ### Authentication (12 R232) -/

/-- What one end puts into the transcript. -/
def transcriptPart (key : BitVec 768) (chain : List Byte) : List Byte := bytesLE key.toNat 96 ++ chain
/-- The transcript, the lower coordinate's part first. -/
def transcript (s : State) (d : Nat) (own : BitVec 768) (m : AuthMsg) : List Byte :=
  let mine := transcriptPart own (Config.ownChain s.h.image.identity)
  let peer := transcriptPart m.key m.chain
  if direction s.l.coord d = 0 then mine ++ peer else peer ++ mine
/-- This end's handshake flit: its ephemeral key, its signature over the transcript, and its chain, under a CRC. -/
def ownAuth (s : State) (d : Nat) (key : BitVec 768) (bytes : List Byte) : Flit :=
  let f := newLinkFlit s d 4 (.auth ⟨key, Config.ecdsaSign s.h.image.identity bytes, Config.ownChain s.h.image.identity⟩)
  { f with tag := integrity s.l.coord d none f }
/-- The handshake: this end sends its own part; with the peer's chain, its certified coordinate and its signature good, epoch 0 of each direction
follows, and the link is up. -/
def authenticate (s : State) (d : Nat) (m : AuthMsg) : State :=
  let own := Config.ephemeral s.fresh
  let bytes := transcript s d own m
  let t := setPort { s with fresh := s.fresh + 1 } d { port s d with auth := some (ownAuth s d own bytes) }
  if Config.chainOk m.chain && Config.chainCoord m.chain = partner s.l.coord d && Config.ecdsaOk (Config.chainKey m.chain) bytes m.signature then
    bringUp (setPort t d { port t d with
      prk := some (Config.hkdfExtract (Config.sha384 bytes) (Config.shared s.fresh m.key))
      txEpoch := 0, txCtr := 0, oldSlot := none, rxEpoch := 0, rxCtr := 0, rxOldSlot := none, rxSince := 0, rxAckSince := s.tick, half := false
      replay := [] }) d
  else t
/-- The handshake starts afresh: what was sent under the old keys and not acknowledged waits again. -/
def execAuthentication (d : Dim) (m : AuthMsg) (s : State) : Out :=
  when (3 ≤ d && d < 15 && (port s d).stage = .aligned) "AUTHENTICATION" (authenticate (recallFlits s d) d m)

/-! ### Bring-up (12 R231, R233) -/

/-- Lock and alignment within the fast bound, or a bring-up that begins: fast where settings are cached; without them it has failed at once. -/
def execLinkBringup (d : Dim) (lanes : Nat) (fast : Bool) (s : State) : Out :=
  let p := port s d
  match p.stage with
  | .down =>
    when (3 ≤ d && d < 15 && p.installed && fast = p.eqCached) "LINK_BRINGUP"
      (setPort s d { p with stage := if fast then .fast else .training, since := s.tick, fastFailed := if fast then none else some s.tick })
  | .fast =>
    when (3 ≤ d && d < 15 && p.installed && fast && 1 ≤ lanes && lanes ≤ fullLanes d && elapsed s p.since ≤ 200000) "LINK_BRINGUP"
      (setPort s d { p with stage := .aligned, since := s.tick, lanes := lanes })
  | _ => notEnabled "LINK_BRINGUP"
def execFastBringupTimeout (d : Dim) (s : State) : Out :=
  let p := port s d
  when (3 ≤ d && d < 15 && p.stage = .fast && 200000 < elapsed s p.since) "FAST_BRINGUP_TIMEOUT"
    (setPort s d { p with stage := .training, since := s.tick, fastFailed := some s.tick })
/-- The bound of full training in cycles (12 R231): 25 ms on board links, 8 ms on optical ones. -/
def trainBound (d : Nat) : Nat := if d < 6 then 50000000 else 16000000
/-- Full training ends within its bound with some lanes aligned, or leaves the link dead until its bring-up is started again. -/
def execFullTrainingComplete (d : Dim) (ok : Bool) (lanes : Nat) (s : State) : Out :=
  let p := port s d
  when (3 ≤ d && d < 15 && p.stage = .training && (!ok || (1 ≤ lanes && lanes ≤ fullLanes d && elapsed s p.since ≤ trainBound d))) "FULL_TRAINING_COMPLETE"
    (if ok then setPort s d { p with stage := .aligned, since := s.tick, lanes := lanes, eqCached := true }
     else
       let t := declareDead s d
       setPort t d { port t d with stage := .down })
/-- Not up 2 ms after the fast bring-up failed, or after alignment: the link is dead, and its bring-up goes on. -/
def execBringupTimeout (d : Dim) (s : State) : Out :=
  let p := port s d
  let late (t : W64) : Bool := 4000000 ≤ elapsed s t
  when (3 ≤ d && d < 15 && (p.stage = .training || p.stage = .aligned) && !p.dead
      && ((match p.fastFailed with | some t => late t | none => false) || (p.stage = .aligned && late p.since))) "BRINGUP_TIMEOUT" (declareDead s d)
/-- A link with no working lane, and on a hoop with no granted shared one, is dead (11 R220). -/
def laneless (s : State) (d : Nat) : Bool := (port s d).lanes = 0 && (grantedLanes s d).isEmpty
/-- A link whose lanes have all gone. -/
def loseLink (s : State) (d : Nat) : State := let u := declareDead s d; setPort u d { port u d with stage := .down }
/-- A lane fails: what it carried is replayed from the oldest flit that is not acknowledged, the stripe goes on without it, and notice of a link that
has become degraded goes out (11 R214, R220). -/
def execLaneFailure (d : Dim) (s : State) : Out :=
  let p := port s d
  let n := p.lanes - 1
  let t := setPort s d { p with lanes := n, ded := if p.lwid then min p.ded n else p.ded, ackSince := if p.replay.isEmpty then p.ackSince else s.tick }
  let t := trimStripe t d (stripeOf s d)
  when (d < 15 && 0 < p.lanes && p.stage = .up && !p.dead) "LANE_FAILURE"
    (if laneless t d then loseLink t d else if ownLink t d = ownLink s d then t else notify t d)

/-! ### Circuit changes (12 R226, R227) -/

/-- The ports whose traffic a granted fibre carries: an MCST's copies leave by any of its group. -/
def grantPorts (g : Grant) : List Nat :=
  match g.purpose with | .widen d => [d] | .detour d => [d] | .mcast _ => [6 + 3 * g.grp, 7 + 3 * g.grp, 8 + 3 * g.grp]
/-- The colour to which a receiver of this die is tuned for a purpose (12 R225): for a widening or a detour hop the partner's, DESIGN CHOICE (log 29). -/
def colourOf (s : State) (grp : Nat) (p : Purpose) : BitVec 3 :=
  match p with
  | .mcast root => root.extractLsb' (6 + 3 * grp) 3
  | .detour d => (partner s.l.coord d).extractLsb' (6 + 3 * grp) 3
  | .widen d => (partner s.l.coord d).extractLsb' (6 + 3 * grp) 3
/-- Whether an MCST, of a root or of any, wants a fibre of a group. An MCST asks from its command's queuing until its token completes, and holds back the grants of lower
priority of its group for as long; how long an MCST takes precedence the rule does not say: DESIGN CHOICE (log 29). -/
def mcastWaits (s : State) (root : Option Coord) (grp : Nat) : Bool :=
  s.e.cmds.any fun c => match c.work with
    | .mcast mask r .. => root.all (· = r) && (mask.extractLsb' (6 + 3 * grp) 3 != 0)
    | _ => false
/-- Whether the purpose of a grant stands: of a detour, that a hop of one over the dimension waits at this die. -/
def purposeStands (s : State) (g : Grant) : Bool :=
  match g.purpose with
  | .mcast root => mcastWaits s (some root) g.grp
  | .detour d => ((port s d).outq.any fun x => x.2.via != []) || ((port s d).cord ++ (port s d).cordBack).any fun m => m.via != []
  | .widen d => parkq (port s d) < (port s d).outq.length
/-- Whether a detour hop over a dimension of a group waits for which no fibre is granted. -/
def detourWaits (s : State) (grp : Nat) : Bool :=
  [6 + 3 * grp, 7 + 3 * grp, 8 + 3 * grp].any fun d =>
    purposeStands s ⟨grp, 0, 0, .detour d⟩ && s.l.grants.all fun g => !(g.grp = grp && g.purpose = .detour d)
/-- Whether a new grant may be made: the purposes in their order of priority. The depth that asks for a widening is that of this die's own queue, and the grant tunes
this die's receiver to its partner and widens this die's stripe, as if the two ends of a link were granted alike; a port whose parking WAKEQ 0 disables asks for none: DESIGN CHOICE (log 29). -/
def purposeWants (s : State) (g : Grant) : Bool :=
  match g.purpose with
  | .widen d => wakeq (port s d) != 0 && wakeq (port s d) ≤ (port s d).outq.length && !mcastWaits s none g.grp && !detourWaits s g.grp
  | .detour d => 6 + 3 * g.grp ≤ d && d < 9 + 3 * g.grp && purposeStands s g && !mcastWaits s none g.grp
  | .mcast _ => purposeStands s g
/-- A circuit change begins: the traffic that the fibre carries is fenced. -/
def fenceFor (s : State) (g : Grant) : State :=
  let t := (grantPorts g).foldl (fun s d => setPort s d { port s d with circFence := some ((port s d).circFence.getD (port s d).outq.length) }) s
  { t with l := { t.l with retuning := t.l.retuning ++ [⟨g.grp, g.fibre, grantPorts g⟩] } }
def execSharedLaneGrant (g : Grant) (s : State) : Out :=
  when (g.grp < 3 && 24 ≤ g.fibre && g.fibre < 32 && (s.l.grants.all fun h => !(h.grp = g.grp && h.fibre = g.fibre))
      && !isRetuning s g.grp g.fibre && g.colour = colourOf s g.grp g.purpose && purposeWants s g
      && (match g.purpose with | .widen d => 6 + 3 * g.grp ≤ d && d < 9 + 3 * g.grp | _ => true)) "SHARED_LANE_GRANT"
    (fenceFor { s with l := { s.l with grants := s.l.grants ++ [g] } } g)
def execSharedLaneRelease (grp fibre : Nat) (s : State) : Out :=
  match s.l.grants.find? fun h => h.grp = grp && h.fibre = fibre with
  | none => notEnabled "SHARED_LANE_RELEASE"
  | some g =>
    when (!purposeStands s g && !isRetuning s grp fibre) "SHARED_LANE_RELEASE"
      (let t := { s with l := { s.l with grants := s.l.grants.filter fun h => h != g } }
       (grantPorts g).foldl (fun t d => if laneless t d && !laneless s d then loseLink t d else trimStripe t d (stripeOf s d)) (fenceFor t g))
/-- Whether a circuit change goes on that fences a port. -/
def changing (s : State) (d : Nat) : Bool := s.l.retuning.any fun x => x.ports.contains d
/-- Everything on the fibre has been acknowledged and the receiver has relocked: its ports' fences are released, but for those of another fibre. -/
def execReceiverRelock (grp fibre : Nat) (s : State) : Out :=
  match s.l.retuning.find? fun x => x.grp = grp && x.fibre = fibre with
  | none => notEnabled "RECEIVER_RELOCK"
  | some r =>
    let t := { s with l := { s.l with retuning := s.l.retuning.filter fun x => x != r } }
    when (r.ports.all fun d => (port s d).circFence.isNone || (port s d).dead || ((port s d).circFence = some 0 && (port s d).replay.isEmpty))
      "RECEIVER_RELOCK"
      (r.ports.foldl (fun t d => trimStripe (if changing t d then t else setPort t d { port t d with circFence := none }) d (stripeOf s d)) t)

/-! ### Parking (12 R234) -/

def execLanePark (d : Dim) (s : State) : Out :=
  let p := port s d
  when (3 ≤ d && d < 15 && p.stage = .up && !p.dead && wakeq p != 0 && p.outq.length ≤ parkq p && 16 * fieldN p.lpctl 31 16 ≤ elapsed s p.lowSince
      && max 1 (fieldN p.lpctl 4 0) < p.striped) "LANE_PARK"
    (setPort s d { p with striped := p.striped - 1, lowSince := s.tick })
/-- Every parked lane rejoins the stripe at a depth of WAKEQ, and where WAKEQ is 0, which disables parking. -/
def execLaneWake (d : Dim) (s : State) : Out :=
  let p := port s d
  when (3 ≤ d && d < 15 && p.stage = .up && !p.dead && wakeq p ≤ p.outq.length && p.striped < stripeOf s d) "LANE_WAKE" (restripe s d)

/-! ### What a port sends (26 R419, 11 R218, 12 R222) -/

/-- The flits ahead of the fences of a port. -/
def openFlits (p : Port) : List (Requester × Flit) :=
  p.outq.take (min (p.portFence.getD p.outq.length) (p.circFence.getD p.outq.length))
def reqIndex (r : Requester) : Nat := match r with | .core c => c.toNat | .memory => 64 | .relay => 65
/-- The distance of a requester behind the one served last. -/
def reqTurn (p : Port) (r : Requester) : Nat := (reqIndex r + 65 - reqIndex p.last) % 66
/-- The requester whose turn it is. -/
def nextRequester (p : Port) : Option Requester :=
  (openFlits p).foldl (fun r x => match r with
    | none => some x.1
    | some y => if reqTurn p x.1 < reqTurn p y then some x.1 else r) none
/-- Half of a message as it stands in CORD. -/
def cordHalf (m : CordMsg) (i : Nat) : BitVec 64 := BitVec.ofNat 64 (leNat (((Config.bodyBytes (.messages [m])).drop (8 * i)).take 8))
/-- The first half of a message has waited 8 cycles for a data flit to take the second: the message goes again, in a control flit (12 R222). -/
def halfLate (s : State) (p : Port) : Bool := p.halfSent && 8 ≤ elapsed s p.cordSince
/-- Whether a message waits of which no half has gone. -/
def wholeWaits (p : Port) : Bool := (if p.halfSent then 1 else 0) < p.cord.length
/-- A data flit takes one half of the oldest message along. -/
def ride (t : W64) (late : Bool) (p : Port) (f : Flit) : Port × Flit :=
  match p.cord with
  | [] => (p, f)
  | m :: ms =>
    if late then (p, f)
    else if p.halfSent then ({ p with cord := ms, halfSent := false, cordSince := t }, { f with ch := 2, cord := cordHalf m 1, ride := some m })
    else ({ p with halfSent := true, cordSince := t }, { f with ch := 1, cord := cordHalf m 0 })
/-- A flit gets the next sequence number of its pair when it first leaves its origin. -/
def number (s : State) (f : Flit) : State × Flit :=
  if f.numbered || f.orig != s.l.coord then (s, f)
  else
    let n := lookupSeq s.l.txSeq f.dest
    ({ s with l := { s.l with txSeq := putSeq s.l.txSeq f.dest ((n + 1) % 2 ^ 22) } }, { f with numbered := true, pseq := BitVec.ofNat 22 n })
/-- The port can send: its link is up, its replay buffer has room, and its key has not come to a switch. Data and control flits wait for the switch from a counter of 2^39
on, while acknowledgements and NAKs may still go under the old key until the marker has: DESIGN CHOICE (log 29). -/
def canSend (s : State) (d : Nat) : Bool :=
  let p := port s d
  d < 15 && p.installed && p.stage = .up && !p.dead && linkRoom s d && (d < 3 || p.txCtr < switchAt)
/-- What the port sends next: what it sends again of this die's own, in the order of its numbers (11 R216), else of the requester whose turn it is. -/
def nextOut (s : State) (p : Port) : Option (Requester × Flit) :=
  match (openFlits p).find? fun x => x.2.numbered && x.2.orig = s.l.coord with
  | some x => some x
  | none => (nextRequester p).bind fun r => p.outq.find? fun x => x.1 = r
/-- The flits of a pair that this die has sent and seen no acknowledgement of: on their links, or on a detour that it began, of its far end. -/
def pairUnacked (s : State) (f : Flit) : Nat :=
  let same (g : Flit) : Bool := g.orig = f.orig && g.dest = f.dest
  s.l.ports.foldl (fun n p => n + (p.2.replay.filter fun g => g.ftype = 0 && g.via.length != 3 && same g).length) (s.l.detoured.filter same).length
/-- The flits of a detour that this die begins are kept until its far end has acknowledged them (11 R216). -/
def keepDetoured (s : State) (f : Flit) : State := if f.via.length = 3 then { s with l := { s.l with detoured := s.l.detoured ++ [f] } } else s
/-- And its messages. -/
def keepMsgs (s : State) (ms : List CordMsg) : State :=
  { s with l := { s.l with cordDetoured := s.l.cordDetoured ++ ms.filter fun m => m.via.length = 3 && !isAckMsg m.msg } }
/-- PORT_SENDS_FLIT: the next data flit, with a half of a waiting message. No pair has more than 2^21 flits unacknowledged (12 R222). Where the cordonnet's slot has come, messages that wait whole, or can ride no more, go ahead of
it (11 R218). -/
def execPortSendsFlit (d : Dim) (s : State) : Out :=
  let p := port s d
  match nextOut s p with
  | none => notEnabled "PORT_SENDS_FLIT"
  | some x =>
      when (canSend s d && pairUnacked s x.2 < 2 ^ 21 && !((halfLate s p || wholeWaits p) && 7 ≤ p.cordGap)) "PORT_SENDS_FLIT"
        (let (s1, f) := number s x.2
         let q := { p with outq := p.outq.erase x, last := x.1, cordGap := p.cordGap + 1, portFence := p.portFence.map (· - 1), circFence := p.circFence.map (· - 1) }
         let (q, f) := ride s.tick (halfLate s p) (markLow s.tick p q) f
         transmit (setPort (keepMsgs (keepDetoured s1 f) f.ride.toList) d q) d f)
/-- Up to 14 whole messages go in a control flit: no data flit has been ready within 8 cycles, or one slot in eight is theirs while data waits (11 R218). -/
def execControlFlitSend (d : Dim) (s : State) : Out :=
  let p := port s d
  when (canSend s d && !p.cord.isEmpty
      && (if (openFlits p).isEmpty then 8 ≤ elapsed s p.cordSince else 7 ≤ p.cordGap)) "CONTROL_FLIT_SEND"
    (linkFlit (setPort (keepMsgs s (p.cord.take 14)) d { p with cord := p.cord.drop 14, halfSent := false, cordGap := 0, cordSince := s.tick }) d 1 (.messages (p.cord.take 14)))

/-! ### What a die receives (11 R212, R213, R216, 12 R222, R230) -/

/-- A message for this die acts. -/
def takeMsg (s : State) (dims : BitVec 15) (m : CMsg) : State :=
  match m with
  | .flag f => { s with l := { s.l with flags := s.l.flags ++ [f] } }
  | .barrier owner ltag scope die core => takeArrival s owner ltag scope die core
  | .contribution c => if c.id.g < 4 then addContribution s c else s
  | .result g n r => if memberHere s g then takeResult s g n r else s
  | .brk id => actOnGroup s breakAct (some (id, dims)) id.g
  | .suspend id => actOnGroup s suspendAct (some (id, dims)) id.g
  | .resume id => actOnGroup s resumeAct (some (id, dims)) id.g
  | .linkState c d st => if d < 15 then noticeLink s c d st else s
  | .ec n v => setEc s n (ec s n + v)
  | .detourAck o t n => { s with l := { s.l with detoured := s.l.detoured.filter fun f => !(f.orig = o && f.dest = t && f.pseq = n) } }
  | .cordAck o t n => { s with l := { s.l with cordDetoured := s.l.cordDetoured.filter fun x => !(x.orig = o && x.dest = t && x.seq = n) } }
/-- The port and remaining hops of traffic that this die passes on. -/
def forward (s : State) (mask : BitVec 15) (dest : Coord) (via : List Nat) : Nat × List Nat :=
  match via with
  | h :: rest => if h < 15 then (h, rest) else waitPort s mask dest
  | [] => waitPort s mask dest
/-- The messages of a die that have come act in their order, up to the first that is still missing (11 R213). -/
def takeHeld : Nat → Coord → State → State
  | 0, _, s => s
  | n + 1, a, s =>
    match takeFirst (fun m => m.orig = a && m.seq = lookupSeq s.l.cordRx a) s.l.cordHeld with
    | none => s
    | some (m, rest) => takeHeld n a (takeMsg { s with l := { s.l with cordRx := putSeq s.l.cordRx a (m.seq + 1), cordHeld := rest } } m.dims m.msg)
/-- The far end of a detour acknowledges a message to the die that sent it around the hop (11 R216, log 15). -/
def endCordDetour (s : State) (m : CordMsg) : State :=
  match m.via with
  | [n] => if 15 ≤ n && !isAckMsg m.msg then sendCord s m.dims (partner s.l.coord (n - 15)) (.cordAck m.orig m.dest m.seq) else s
  | _ => s
/-- A cordonnet message arrives: it goes on, waits for those before it, acts, or is a copy. -/
def takeCord (s : State) (m : CordMsg) : State :=
  let s := endCordDetour s m
  if m.dest != s.l.coord then
    let (h, via) := forward s m.dims m.dest m.via
    pushCord s h { m with via := via }
  else if m.seq < lookupSeq s.l.cordRx m.orig || (s.l.cordHeld.any fun x => x.orig = m.orig && x.seq = m.seq) then s
  else takeHeld (s.l.cordHeld.length + 1) m.orig { s with l := { s.l with cordHeld := s.l.cordHeld ++ [m] } }
/-- A request of another die to a page homed here (14 R265). -/
def takeRequest (s : State) (src : Coord) (r : RemoteReq) : State :=
  let op : ReqOp := match r.atom with
    | some (n, b, old) => .atomic n b old
    | none => if r.write then .store r.bytes else .load
  let runs := r.runs.foldl (fun (x : Nat × List (Nat × Nat × Nat)) p => (x.1 + p.2, x.2 ++ [(x.1, p.1, p.2)])) (0, [])
  { s with m := { s.m with nextReq := s.m.nextReq + 1, reqs := s.m.reqs ++
      [⟨s.m.nextReq, .remote src r.core r.id, 0, 0, 0, op, pageBase s ((r.runs.map Prod.fst).headD 0), runs.2, 0, r.owner, .sent, true, r.count, false, true⟩] } }
/-- Whether traffic for a COREID from a kernel's subcube is for a saved context (26 R416): no running kernel of that subcube bears the COREID here. -/
def isFor (x : Context) (c : BitVec 6) (dims : BitVec 15) : Bool := x.x.coreid = c && x.x.subm = dims
def savedFor (s : State) (c : BitVec 6) (dims : BitVec 15) : Bool :=
  !(running s && c = s.x.coreid && dims = s.x.subm) && s.c.contexts.any fun x => isFor x c dims
/-- A payload of a stream comes for this core, or is held for a context that this core has saved until it resumes (26 R416). -/
def takeFor (s : State) (c : BitVec 6) (dims : BitVec 15) (orig : Coord) (mcast : Option (BitVec 15)) (bs : List Byte) (last : Bool) : State :=
  if savedFor s c dims then
    { s with c := { s.c with contexts := s.c.contexts.map fun x => if isFor x c dims then { x with rx := addPayload x.rx orig mcast bs last s.m.nextReq } else x }
             m := { s.m with nextReq := s.m.nextReq + 1 } }
  else if c = s.x.coreid then takeStream s orig mcast bs last else s
/-- An ingest window of another package pins the pages homed here, or no longer does; its anchor hears of the pins (27 R424). An offload of one of them is cancelled. -/
def takePin (s : State) (anchor : Coord) (n : Nat) (owner : BitVec 16) (ia len : Nat) (on : Bool) : State :=
  let rest := s.h.farPins.filter fun x => !(x.1 = anchor && x.2.1 = n)
  if !on then { s with h := { s.h with farPins := rest } }
  else
    let t := { s with h := { s.h with farPins := rest ++ [(anchor, n, ia, len)] } }
    let off := t.m.pages.filter fun p => (match p.st with | .offloading .. => true | _ => false) && p.ia < ia + len && ia < p.ia + pageSize p
    sendData (off.foldl (fun s p => meetPage s p.ia) t) (7 ||| allotMask s owner) .memory anchor (.pinned n)
/-- What a data flit brings to its destination. What the anchor gets of a page that is offloaded goes to the host, and what the host gives of one that returns it sends on (27
R427). A write of the host goes on from here to its page's home (27 R424). Answers to requests of cores outside this model change nothing here (log 1). -/
def takeBody (s : State) (f : Flit) : State :=
  match f.body with
  | .stream c bs last => takeFor s c f.dims f.orig none bs last
  | .mcast c mask bs last => takeFor s c f.dims f.orig (some mask) bs last
  | .request r =>
    let t := takeRequest s f.orig r
    let home := trueHome s ((r.runs.map Prod.fst).headD 0)
    if f.dims = 7 && home != s.l.coord then sendData t (allotMask s r.owner) .memory home (.request r) else t
  | .streamAck c mc cause => if c = s.x.coreid then feedStreams (takeStreamAck s f.orig mc cause) else s
  | .ack id _ => match execRemoteWriteAck id s with | .next t => t | _ => s
  | .credit c l n =>
    if savedFor s c f.dims then
      { s with c := { s.c with contexts := s.c.contexts.map fun x => if isFor x c f.dims then { x with used := mapPut 0 x.used l (mapGet 0 x.used l - n) } else x } }
    else if c = s.x.coreid then takeCredit s l n else s
  | .directory ia h => recordHome s ia h
  | .reply r => say s r
  | .host h m => { s with h := { s.h with inbox := s.h.inbox ++ [(h, m)] } }
  | .heard qp =>
    (match takeFirst (fun x => x.1 = qp && x.2 = f.orig.extractLsb' 0 3) s.h.relayed with
     | some (_, rest) => { s with h := { s.h with relayed := rest } }
     | none => s)
  | .pin n owner ia len on => takePin s f.orig n owner ia len on
  | .pinned n => { s with h := { s.h with pinsDue := s.h.pinsDue.filter fun x => x != (n, f.orig) } }
  | .tier ia _ out => if out then s else { s with m := { s.m with tier := mapPut 0 s.m.tier ia (mapGet 0 s.m.tier ia + 1) } }
  | .tierRead ia n => tierFlits s f.orig ia n false
  | .home ia h =>
    let page := pageBase s ia
    if outstanding s page then s
    else
      let t := cacheHome s page h
      sendHeld t [] t.m.reqs
  | _ => s
/-- The halves of a message that ride on data flits (12 R222). -/
def takeRide (s : State) (d : Nat) (f : Flit) : State :=
  let p := port s d
  if f.ch = 1 then setPort s d { p with half := true }
  else if f.ch = 2 then
    let t := setPort s d { p with half := false }
    match f.ride with | some m => if p.half then takeCord t m else t | none => t
  else s
/-- How far a data flit's number lies from the one that this die expects of its origin. -/
def seqGap (s : State) (f : Flit) : Nat := (f.pseq.toNat + 2 ^ 22 - lookupSeq s.l.rxSeq f.orig) % 2 ^ 22
/-- The far end of a detour acknowledges a flit to the die that sent it around the hop (11 R216, log 15). -/
def endDetour (s : State) (f : Flit) : State :=
  match f.via with
  | [n] => if 15 ≤ n then sendCord s f.dims (partner s.l.coord (n - 15)) (.detourAck f.orig f.dest f.pseq) else s
  | _ => s
/-- A flit that its link direction has accepted. -/
def takeFlit (s : State) (d : Nat) (f : Flit) : State :=
  match f.ftype.toNat with
  | 0 =>
    let s := endDetour (takeRide s d f) f
    if f.dest != s.l.coord then
      let (h, via) := forward s f.dims f.dest f.via
      pushOut s h .relay { f with via := via, ch := 0, cord := 0, ride := none }
    else if seqGap s f = 0 then
      takeBody { s with l := { s.l with rxSeq := putSeq s.l.rxSeq f.orig ((f.pseq.toNat + 1) % 2 ^ 22) } } f
    else s
  | 1 =>
    let t := setPort s d { port s d with half := false }
    (match f.body with | .messages ms => ms.foldl takeCord t | _ => t)
  | 2 =>
    (match f.body with
     | .linkAck e c nak => if !sentUpTo (port s d) e c then s else if nak then takeNak s d e c else acknowledge s d e c
     | _ => s)
  | 3 => (match f.body with | .marker n => setPort s d { port s d with rxEpoch := n, rxCtr := 0, rxOldSlot := some (port s d).rxEpoch } | _ => s)
  | _ => s
/-- The integrity of a flit, its reserved values among it (12 R222, R223). -/
def flitGood (s : State) (d : Nat) (f : Flit) : Bool :=
  f.ftype.toNat ≤ 4 && f.ch != 3 && f.tag = integrity (partner s.l.coord d) d (portKey s d f) f
/-- One failure at the receiver: the third with no flit accepted between takes the link down. -/
def rxFailure (s : State) (d : Nat) : State :=
  let t := sendLinkAck s d true
  let p := port t d
  if 3 ≤ p.rxFails + 1 then linkDown t d else setPort t d { p with rxFails := p.rxFails + 1 }
/-- A flit is accepted: its counter was the one expected, and a NAK that waited for room names a flit that has come now. -/
def acceptFlit (s : State) (d : Nat) (f : Flit) : State :=
  let p := port s d
  let t := takeFlit (setPort s d { p with rxCtr := p.rxCtr + 1, rxSince := p.rxSince + 1, rxFails := 0, nakDue := false }) d f
  if 16 ≤ (port t d).rxSince && (port t d).stage = .up then sendLinkAck t d false else t
/-- FLIT_RECEIVED. A flit that is not the one expected is discarded; one that fails its check draws a NAK. An authentication flit that fails its CRC is ignored:
DESIGN CHOICE (log 29). -/
def execFlitReceived (d : Dim) (f : Flit) (s : State) : Out :=
  let m := "FLIT_RECEIVED"
  let p := port s d
  if f.ftype = 4 then
    when (3 ≤ d && d < 15 && (p.stage = .aligned || (p.stage = .up && p.rxEpoch + 1 = lastEpoch))) m
      (match f.body with
       | .auth a =>
         if flitGood s d f then
           authenticate (recallFlits (setPort s d { p with stage := .aligned, since := if p.stage = .aligned then p.since else s.tick, prk := none }) d) d a
         else s
       | _ => s)
  else if !(d < 15 && p.installed && p.stage = .up && !p.dead) then notEnabled m
  else if !(f.epoch = p.rxEpoch && f.counter = p.rxCtr) then .next s
  else if !flitGood s d f then .next (rxFailure s d)
  else when (!(f.ftype = 0 && f.dest = s.l.coord && 0 < seqGap s f && seqGap s f < 2 ^ 21)) m (acceptFlit s d f)

/-! ### Bring-up of the die (27 R430) -/

/-- A port as the steps of a bring-up leave it: dimensions 0 to 2 up, the others on their way (12 R231), every lane in the stripe. -/
def bootPort (m : ConfigMap) (eq : Bool) (d : Nat) : Port :=
  let installed := m.hasNeighbour.contains d
  let lanes := min ((lookupN m.lanes d).getD (fullLanes d)) (fullLanes d)
  { Port.reset with
    installed := installed, eqCached := eq
    stage := if !installed then .down else if d < 3 then .up else if eq then .fast else .training
    fastFailed := if installed && 3 ≤ d && !eq then some 0 else none
    lanes := if d < 3 then lanes else 0, ded := if d < 3 then 0 else lanes, shr := if d < 6 then 0 else 8, striped := if d < 3 then lanes else 0 }
/-- Steps 2 to 5: the die takes its maps, its links, memory and Ethernet port come up, and TICK starts at 0. Equaliser settings are those of the image and what a port
has kept since (12 R231). An HBM channel that fails its training is missing (27 R430): which do is open, a free value (log 23). -/
def boot (s : State) (m : ConfigMap) : State :=
  let channels := min m.channels (Config.trainedChannels s.fresh)
  { State.reset with
    agenda := s.agenda, fresh := s.fresh + 1
    h := { Pkg.reset with phys := s.h.phys, disabled := m.disabled, channels := channels, image := m }
    l := { State.reset.l with
           coord := m.coord, ports := (List.range 15).map fun d => (d, bootPort m (m.eqCached.contains d || (port s d).eqCached) d) }
    m := { State.reset.m with freeFrames := [(m.coord, 32768 * channels)] } }
/-- A warm reset repeats the steps from the second on. What has been sent to the host has left. Each die of the package does so; that all begin in one cycle no die sees
(log 1). -/
def warmBoot (s : State) : State := let t := boot s s.h.image; { t with c := { t.c with out := s.c.out } }
/-- A queued record is refused (27 R430). -/
def refuseRec (s : State) (q : Nat) (r : Rec) : State :=
  { s with c := { s.c with nextRun := s.c.nextRun + 1, finished := s.c.finished ++ [⟨s.c.nextRun, q, r, none, 1⟩] } }
/-- Every queued record is refused. -/
def refuseQueued (s : State) : State :=
  let t := (List.range 20).foldl (fun s q => (mapGet [] s.c.queues q).foldl (fun s r => refuseRec s q r) s) s
  { t with c := { t.c with queues := [] } }
/-- A warm reset goes on: once every kernel has ended the queued records are refused. -/
def finishWarm (s : State) : State := if s.h.power = .ending && s.c.runs.isEmpty then refuseQueued s else s
/-- Whether this die is done with what a warm reset ends: no kernel runs, and every completion is written. -/
def warmDone (s : State) : Bool := s.h.power = .ending && s.c.runs.isEmpty && s.c.finished.isEmpty && s.c.waiting.isEmpty
/-- Whether nothing is under way on the links within the package: what this die has sent has been taken, and what it has taken it has acknowledged. -/
def matesQuiet (s : State) : Bool :=
  (List.range 3).all fun d => let p := port s d
    !p.installed || p.dead || (p.outq.isEmpty && p.cord.isEmpty && p.rxSince = 0 && !p.replay.any fun f => f.ftype = 0 || f.ftype = 1)

end Sys2Proof.Machine
end

