-- ==== Sys2Proof/Machine/Schedule.lean ====
section
/-! DEFINITION. The command processor (26): records and their selection, acceptance, placement, launch, completion, ageing and pre-emption. The
cores of a kernel beside this one are not shown (log 1, log 22). -/

namespace Sys2Proof.Machine

/-! ### Records (26 R400, R402) -/

def recType (r : Rec) : Nat := recField r.bits 8 3 0
def recArg0 (r : Rec) : W64 := BitVec.ofNat 64 (recField r.bits 0x28 63 0)
def recTag (r : Rec) : Nat := recField r.bits 0x0A 15 0
def recSaddr (r : Rec) : Nat := recField r.bits 0x18 63 0
/-- A counter field: the counter, where the field is valid. -/
def recEc (r : Rec) (byte : Nat) : Option Nat :=
  if recField r.bits byte 15 15 = 1 then some (recField r.bits byte 7 0) else none
/-- CLASS; a record of a device queue never goes above its launching kernel. -/
def recClass (q : Nat) (r : Rec) : Nat := let c := recField r.bits 8 5 4; if 16 ≤ q then max c r.parentCls else c
/-- Reserved bits and types of a record. -/
def recBad (r : Rec) : Bool :=
  recField r.bits 8 15 6 != 0 || recField r.bits 0x0C 14 8 != 0 || recField r.bits 0x0E 14 8 != 0 || 3 < recType r
/-- WAITEC has reached WAITV, or is not valid. -/
def waitMet (s : State) (r : Rec) : Bool :=
  match recEc r 0x0C with | none => true | some e => recField r.bits 0x10 63 0 ≤ (ec s e).toNat
def heads (s : State) : List (Nat × Rec) := (List.range 20).filterMap fun q => (mapGet [] s.c.queues q).head?.map fun r => (q, r)
def setHead (s : State) (q : Nat) (r : Rec) : State :=
  match mapGet [] s.c.queues q with
  | [] => s
  | _ :: rs => { s with c := { s.c with queues := mapPut [] s.c.queues q (r :: rs) } }
/-- The eligibility of a head now: from the cycle on in which it becomes so, and no longer where a SIGNAL has wrapped its counter below WAITV (26 R402). -/
def stampRec (s : State) (r : Rec) : Rec :=
  match r.eligible, waitMet s r with
  | none, true => { r with eligible := some s.tick }
  | some t, false => { r with eligible := none, spent := r.spent + elapsed s t }
  | _, _ => r
def stampHeads (s : State) : State := (heads s).foldl (fun s x => setHead s x.1 (stampRec s x.2)) s
/-- The whole 4 ms for which a record has been eligible, in one stretch or several: DEDUCED (log 29). -/
def ageOf (s : State) (r : Rec) : Nat := (r.spent + match r.eligible with | none => 0 | some t => elapsed s t) / fourMs
/-- The effective class of a head (26 R402). -/
def effClass (s : State) (q : Nat) (r : Rec) : Nat := recClass q r - max r.aged (ageOf s r)
/-- CLASS_AGEING: each head is aged by the whole 4 ms for which it has been eligible. What a head is aged by counts from the time at which it is due. -/
def execClassAgeing (s : State) : Out :=
  when ((heads s).any fun x => x.2.aged < ageOf s x.2) "CLASS_AGEING"
    ((heads s).foldl (fun s x => setHead s x.1 { x.2 with aged := max x.2.aged (ageOf s x.2) }) s)

/-! ### The header (01 R34, R35) -/

/-- A field of the header image. -/
def hdr (h : List Byte) (byte hi lo : Nat) : Nat := leNat ((h.drop byte).take 8) / 2 ^ lo % 2 ^ (hi + 1 - lo)
/-- The bits of a header byte that are not reserved; a version reserves the fields that came after it (01 R38). -/
def hdrMask (ver i : Nat) : Nat :=
  if i = 5 then 7 else if i = 6 || i = 7 || i = 9 then 15
  else if i = 8 then (if ver = 3 then 3 else 0)
  else if i = 0x0A then (if ver = 1 then 0 else 15)
  else if i = 0x1F then 15 else if 0x40 ≤ i && i < 0x48 then (if ver = 1 then 0 else 255)
  else if i = 0x48 then (if ver = 1 then 0 else 127)
  else if i < 0x14 || (0x18 ≤ i && i < 0x40) || 0xF8 ≤ i then 255 else 0
def hdrReserved (h : List Byte) : Bool := h.zipIdx.any fun (b, i) => b.toNat &&& (255 - hdrMask (hdr h 4 7 0) i) != 0
def hEntry (h : List Byte) : Nat := hdr h 0x20 63 0
def hCodeLen (h : List Byte) : Nat := hdr h 0x28 63 0
def hDataOff (h : List Byte) : Nat := hdr h 0x30 63 0
def hDataLen (h : List Byte) : Nat := hdr h 0x38 63 0
def hPrkOff (h : List Byte) : Nat := hdr h 0x40 63 0
def hPrkN (h : List Byte) : Nat := hdr h 0x48 6 0
def hClusters (h : List Byte) : Nat := hdr h 6 3 0
def hCores (h : List Byte) : Nat := hdr h 7 3 0
def hNdim (h : List Byte) : Nat := hdr h 9 3 0
def hTrapen (h : List Byte) : Bool := hdr h 5 1 1 = 1
/-- The physical dimension that DIMREQ asks for, 15 for none. -/
def hDimReq (h : List Byte) (i : Nat) : Nat := hdr h 0x18 59 0 / 2 ^ (4 * i) % 16
def dimReqBad (h : List Byte) : Bool :=
  let named := (List.range 15).filter fun i => hDimReq h i != 15
  named.any (fun i => hNdim h ≤ i) || !(named.map (hDimReq h)).Nodup
/-- The refusals of 01 R35, and those of HOFF (26 R404). -/
def hdrRefused (h : List Byte) (hoff : Nat) : Bool :=
  let spadb := hdr h 0x10 31 0
  let code := hEntry h + hCodeLen h
  hdr h 0 31 0 != 0x4C415247 || crc64 (h.take 248) != BitVec.ofNat 64 (hdr h 0xF8 63 0)
  || hdr h 4 7 0 = 0 || 3 < hdr h 4 7 0 || hdrReserved h
  || hClusters h = 0 || 8 < hClusters h || hCores h = 0 || 8 < hCores h
  || (if hTrapen h then 999424 else 1048576) < spadb || 64 < hdr h 0x0B 7 0 || 64 < hPrkN h
  || hEntry h < 256 || hEntry h % 64 != 0 || hCodeLen h % 64 != 0 || hCodeLen h = 0 || dimReqBad h
  || spadb < hDataLen h || hDataOff h % 64 != 0 || hPrkOff h % 64 != 0
  || (hDataLen h != 0 && hDataOff h < code) || (hPrkN h != 0 && hPrkOff h < code)
  || (hDataLen h != 0 && hPrkN h != 0 && hDataOff h < hPrkOff h + 32 * hPrkN h && hPrkOff h < hDataOff h + hDataLen h)
  || (hTrapen h && (hoff % 64 != 0 || hCodeLen h ≤ hoff))

/-! ### Acceptance (26 R404, R410) -/

/-- Whether some bytes of the intermediate space can be read under an owner tag: page after page. -/
def readable (s : State) (owner : BitVec 16) (a len : Nat) : Nat → Bool
  | 0 => false
  | n + 1 =>
    if len = 0 then true
    else match pageAt s a with
      | none => false
      | some p =>
        (homeFault s owner false a).isNone && (p.ia + pageSize p - a ≥ len || readable s owner (p.ia + pageSize p) (len - (p.ia + pageSize p - a)) n)
def canRead (s : State) (owner : BitVec 16) (a len : Nat) : Bool := readable s owner a len (s.m.pages.length + 1)
/-- Some bytes of an image are read at their homes, page after page: the accesses count (14 R267), and meet what is being offloaded (R269). -/
def readImage (s : State) (a len : Nat) : Nat → State
  | 0 => s
  | n + 1 =>
    if len = 0 then s
    else match pageAt s a with
      | none => s
      | some p =>
        let m := min len (p.ia + pageSize p - a)
        readImage (countAccess (meetPage s a) p.ia s.l.coord (lines64 [(0, a, m)])) (a + m) (len - m) n
/-- Whether a page of some bytes is on its way to another home: a read of them waits (14 R269). -/
def imageMoves (s : State) (a len : Nat) : Bool := s.m.pages.any fun p => moving s p.ia && p.ia < a + len && a < p.ia + pageSize p
def kaddr (r : Rec) : Nat := recField r.bits 0 63 0
def headerOf (s : State) (r : Rec) : List Byte := readBytes s.m.cells (iaBase + kaddr r) 256
/-- The working cores of a cluster of this die, ascending. -/
def workingCores (s : State) (c : Nat) : List Nat := ((List.range 8).map fun j => 8 * c + j).filter fun p => !s.h.disabled.contains p
/-- The clusters of this die with so many working cores. -/
def goodClusters (s : State) (cores : Nat) : List Nat := (List.range 8).filter fun c => cores ≤ (workingCores s c).length
def ownsEc (t : Tenant) (o : Option Nat) : Bool := match o with | none => true | some e => t.ecs.contains e
def dimsMask (ds : List Nat) : BitVec 15 := ds.foldl (fun (m : BitVec 15) d => m ||| (1#15 <<< d)) 0
/-- Whether the partner of a die over a dimension is installed (11 R203): a link of this die, or one of another (log 22). -/
def linkInstalled (s : State) (a : Coord) (d : Nat) : Bool :=
  if linkEnd a d = linkEnd s.l.coord d then (port s d).installed else Config.linkInstalled (linkEnd a d) d
/-- Whether every die of a subcube is installed. -/
def cubeInstalled (s : State) (base : Coord) (ds : List Nat) : Bool :=
  (base :: otherDies base (dimsMask ds)).all fun a => ds.all fun d => linkInstalled s a d
/-- The ways to choose n of some dimensions. -/
def subsets : List Nat → Nat → List (List Nat)
  | _, 0 => [[]]
  | [], _ + 1 => []
  | d :: ds, n + 1 => (subsets ds n).map (d :: ·) ++ subsets ds (n + 1)
def tenantDies (t : Tenant) : List Coord := t.base :: otherDies t.base t.mask
/-- Whether an allotment holds an aligned subcube of 2^n installed dies. -/
def hasSubcube (s : State) (t : Tenant) (n : Nat) : Bool :=
  (subsets ((List.range 15).filter fun d => t.mask.getLsbD d) n).any fun ds => (tenantDies t).any fun b => cubeInstalled s b ds
/-- The clusters of a die with so many working cores: of this one, or of another (log 22). -/
def clustersAt (s : State) (a : Coord) (cores : Nat) : Nat :=
  if a = s.l.coord then (goodClusters s cores).length else min 8 (Config.dieClusters a cores)
/-- The tenancy checks of a LAUNCH record (26 R404). -/
def launchDenied (s : State) (t : Tenant) (r : Rec) : Bool :=
  let h := headerOf s r
  let a := kaddr r
  !canRead s r.owner a 256 || !canRead s r.owner (a + hEntry h) (hCodeLen h) || !canRead s r.owner (a + hDataOff h) (hDataLen h)
  || !canRead s r.owner (a + hPrkOff h) (32 * hPrkN h)
  || !hasSubcube s t (hNdim h) || (tenantDies t).all fun a => clustersAt s a (hCores h) < hClusters h
/-- The parts of the image of a LAUNCH record that this die reads: the header where its home gives it, and the rest once the kernel is placed. -/
def imageParts (s : State) (r : Rec) (all : Bool) : List (Nat × Nat) :=
  let h := headerOf s r
  let a := kaddr r
  if recType r != 0 || !canRead s r.owner a 256 then []
  else (a, 256) :: if all then [(a + hEntry h, hCodeLen h), (a + hDataOff h, hDataLen h), (a + hPrkOff h, 32 * hPrkN h)] else []
def readParts (s : State) (r : Rec) (all : Bool) : State :=
  (imageParts s r all).foldl (fun s x => readImage s x.1 x.2 (s.m.pages.length + 1)) s
/-- Whether the selection of a record waits for a page of its image that is on its way to another home. -/
def imageHeld (s : State) (r : Rec) : Bool := (imageParts s r true).any fun x => imageMoves s x.1 x.2
/-- The code with which a record fails acceptance, if it does: 1 REFUSED, 2 DENIED. A header that is not 256-byte aligned (01 R34) is refused like a bad
one: DESIGN CHOICE (log 26). -/
def acceptCode (s : State) (r : Rec) : Option Nat :=
  if recBad r then some 1
  else match tenantOf s r.owner with
    | none => some 2
    | some t =>
      if !ownsEc t (recEc r 0x0C) || !ownsEc t (recEc r 0x0E) then some 2
      else if recType r != 0 then none
      else if launchDenied s t r then some 2
      else if kaddr r % 256 != 0 || hdrRefused (headerOf s r) (recField r.bits 0x20 63 0) then some 1
      else none

/-! ### Placement (26 R406, R407, R433) -/

/-- The clusters of this die that no running kernel occupies. -/
def freeClusters (s : State) : List Nat := (List.range 8).filter fun c => !s.c.runs.any fun r => !r.suspended && r.clusters.contains c
/-- Whether this die belongs to a placement. -/
def onThisDie (s : State) (p : Placement) : Bool := (s.l.coord ^^^ p.base) &&& ~~~dimsMask p.dims = 0
def ascending : List Nat → Bool
  | a :: b :: l => a < b && ascending (b :: l)
  | _ => true
/-- Whether a placement satisfies R406, R407 and the requests of a header. -/
def placementOk (s : State) (owner : BitVec 16) (h : List Byte) (p : Placement) : Bool :=
  match tenantOf s owner with
  | none => false
  | some t =>
    p.dims.length = hNdim h && p.dims.Nodup && p.dims.all (fun d => d < 15 && t.mask.getLsbD d) && cubeInstalled s p.base p.dims
    && (List.range (hNdim h)).all (fun i => hDimReq h i = 15 || hDimReq h i = p.dims.getD i 15)
    && (p.base ^^^ t.base) &&& ~~~t.mask = 0
    && (if onThisDie s p then
          p.clusters.length = hClusters h && ascending p.clusters
          && p.clusters.all (fun c => (freeClusters s).contains c && (goodClusters s (hCores h)).contains c) && (p.others || hNdim h = 0)
        else p.clusters.isEmpty && p.others)
/-- A single-die kernel of a tenant that this die can hold. -/
def fitsHere (s : State) (owner : BitVec 16) (h : List Byte) : Bool :=
  hNdim h = 0 && (match tenantOf s owner with | some t => (s.l.coord ^^^ t.base) &&& ~~~t.mask = 0 | none => false) && hClusters h ≤ ((freeClusters s).filter fun c => (goodClusters s (hCores h)).contains c).length
/-- The COREID of this core in a placement, if it is occupied (26 R406). -/
def placedAs (s : State) (h : List Byte) (p : Placement) : Option (BitVec 6) :=
  if !onThisDie s p then none
  else match p.clusters.idxOf? (s.h.phys / 8), ((workingCores s (s.h.phys / 8)).take (hCores h)).idxOf? s.h.phys with
    | some i, some j => some (BitVec.ofNat 6 (8 * i + j))
    | _, _ => none
/-- DIMMAP of a placement (11 R206). -/
def mapOf (ds : List Nat) : BitVec 60 := BitVec.ofNat 60 (packN 4 (fun i => ds.getD i 15) 15)
def occupied (h : List Byte) : W64 :=
  (List.range 64).foldl (fun (m : W64) c => if c / 8 < hClusters h && c % 8 < hCores h then m ||| (1#64 <<< c) else m) 0
/-- The kernel of an image. -/
def kernelOf (s : State) (q : Nat) (r : Rec) : Kernel :=
  let h := headerOf s r
  let b := kaddr r + hEntry h
  { ver := hdr h 4 7 0, preemptOk := hdr h 5 0 0 = 1, trapen := hTrapen h, persist := hdr h 5 2 2 = 1
    permRound := hdr h 8 0 0 = 1, permAssoc := hdr h 8 1 1 = 1, members := BitVec.ofNat 4 (hdr h 0x0A 3 0), gateKb := hdr h 0x0B 7 0
    codeBase := BitVec.ofNat 64 b, code := readBytes s.m.cells (iaBase + b) (hCodeLen h), owner := r.owner, coreids := occupied h
    cls := recClass q r, ltag := BitVec.ofNat 64 (recTag r), queue := q }

/-! ### Launch (26 R408) -/

def rangesOf (t : Option Tenant) : Map Range :=
  match t with
  | none => []
  | some t => (t.ranges.zipIdx.map fun (g, j) => (j, g)).foldr (fun x m => mapPut .none m x.1 x.2) []
/-- The scratchpads of the kernel's cores on this die, this core's own and those that it reaches through their windows: zero, with the data image at byte 0
and every line full, with no error left (08 R165). The register images of the windows are zero too. -/
def freshSpads (s : State) (cores : W64) (own : BitVec 6) (data : List Byte) : State :=
  let bases := (coreList cores).map fun c => if c = own then 0 else windowBase + 2 ^ 24 * c.toNat
  let c := zeroBytes (zeroBytes s.m.cells 0 spadSize) windowBase (2 ^ 30)
  setCells { s with m := { s.m with empties := s.m.empties.filter fun l => (windowBase + 2 ^ 30) / 128 ≤ l, bad := s.m.bad.filter fun k => windowBase + 2 ^ 30 ≤ k } }
    (bases.foldl (fun c b => writeBytes c b data) c)
def launchRegs (r : Rec) (prk : Map Rule) : Regs :=
  let arg (i : Nat) : W64 := BitVec.ofNat 64 (recField r.bits (0x28 + 8 * i) 63 0)
  { Regs.reset with s := [48, 49, 50].foldl (fun m n => mapPut 0 m n (arg (n - 48))) [], pricking := prk }
def launchSpec (s : State) (h : List Byte) (k : Kernel) (r : Rec) (p : Placement) (id : BitVec 6) : Spec :=
  let w := hdr h 0x0C 31 0
  { Spec.reset with
    coreid := id, kndim := hNdim h, wdog := if w = 0 then s.c.wdogDefault else BitVec.ofNat 64 (1024 * w), cbto := s.c.cbtoDefault
    subm := dimsMask p.dims, dimmap := mapOf p.dims, tvec := k.codeBase + BitVec.ofNat 64 (recField r.bits 0x20 63 0)
    ranges := rangesOf (tenantOf s r.owner) }
def launchGroup (h : List Byte) (k : Kernel) : Group :=
  { Group.zero with gdim := BitVec.ofNat 15 (2 ^ hNdim h - 1), gcore := k.coreids }
/-- The contributions that came before the kernel ran here meet its groups (25 R388). -/
def replayAll (s : State) : State := (List.range 4).foldl replayEarly s
/-- This core starts the kernel. The pricking is loaded as if by PRKLD. -/
def startCore (s : State) (h : List Byte) (k : Kernel) (r : Rec) (p : Placement) (id : BitVec 6) : State :=
  let at' (off len : Nat) : List Byte := readBytes s.m.cells (iaBase + kaddr r + off) len
  let prk := (prickingOf k.ver ((List.range (hPrkN h)).map fun i => leNat (at' (hPrkOff h + 32 * i) 32))).getD []
  let t := freshSpads s k.coreids id (at' (hDataOff h) (hDataLen h))
  replayAll { t with
    r := launchRegs r prk, x := launchSpec s h k r p id, kn := k
    e := { t.e with cmds := [], sent := [], used := [] }
    m := { t.m with accs := [], gone := 0, reqs := t.m.reqs.filter fun q => !(q.src = .core) }
    l := { t.l with barArrived := [] }
    f := { Seq.reset with pc := k.codeBase, fe := .run, groups := .all (launchGroup h k), wcount := t.tick, mark := { Mark.zero with pc := k.codeBase } } }
/-- A LAUNCH record is placed. -/
def place (s : State) (q : Nat) (r : Rec) (p : Placement) : State :=
  let h := headerOf s r
  let k := kernelOf s q r
  let id := placedAs s h p
  let run : Run := ⟨s.c.nextRun, q, r, h, k, hNdim h, p.clusters, dimsMask p.dims, p.base, id.isSome, false, false, none, s.c.nextRun, [], []⟩
  let t := { s with c := { s.c with nextRun := s.c.nextRun + 1, runs := s.c.runs ++ [run] } }
  match id with | some c => startCore t h k r p c | none => t

/-! ### Selection (26 R401 to R403) -/

/-- A completion status with a code and nothing else. -/
def plainStatus (code : Nat) : BitVec 256 := BitVec.ofNat 256 code
def finish (s : State) (q : Nat) (r : Rec) (code : Nat) : State :=
  { s with c := { s.c with nextRun := s.c.nextRun + 1, finished := s.c.finished ++ [⟨s.c.nextRun, q, r, none, plainStatus code⟩] } }
def await (s : State) (q : Nat) (r : Rec) (target : Option Nat) : State :=
  { s with c := { s.c with nextRun := s.c.nextRun + 1, waiting := s.c.waiting ++ [⟨s.c.nextRun, q, r, target, plainStatus 0⟩] } }
/-- The running kernel with a launch tag and tenant. -/
def runOf (s : State) (r : Rec) : Option Run := s.c.runs.find? fun x => recTag x.rcd = recTag r && x.rcd.owner = r.owner
def setRun (s : State) (x : Run) : State :=
  { s with c := { s.c with runs := s.c.runs.map fun y => if y.id = x.id then x else y } }
/-- The frames of 64 KiB that one context image takes: 08 R166 gives it 4 MiB, in two frames of 2 MiB (log 18). -/
def ctxFrames : Nat := 64
/-- The frames that the images of a kernel's cores on this die take. -/
def ctxCost (x : Run) : Nat := if x.clusters.isEmpty then 0 else ctxFrames * (coreList x.kernel.coreids).length
def ctxOf (s : State) (x : Run) : Option Context := s.c.contexts.find? fun c => c.run = x.id
def dropCtx (s : State) (x : Run) : State := { s with c := { s.c with contexts := s.c.contexts.filter fun c => c.run != x.id } }
/-- The frames that images of a kernel take now: all of a suspended one's, or this core's. -/
def ctxHeld (s : State) (x : Run) : Nat := if x.suspended then ctxCost x else if (ctxOf s x).isSome then ctxFrames else 0
/-- The frames of a kernel's images are free again; those of one that has been cancelled are. -/
def freeCtx (s : State) (x : Run) : State := if x.killed || ctxHeld s x = 0 then s else setFree s s.l.coord (freeOf s s.l.coord + ctxHeld s x)
def unpinPages (s : State) (l : List Nat) : State := l.foldl (fun s a => match pageAt s a with | some p => unpinPage s p | none => s) s
/-- NOTIFY: 0x31 on this core, or in the context that waits for it. -/
def notifyRun (s : State) (x : Run) (detail : Nat) : State :=
  if !x.kernel.trapen then s
  else if (ctxOf s x).isSome then
    { s with c := { s.c with contexts := s.c.contexts.map fun c =>
        if c.run = x.id && c.f.asyncs.all (fun a => a.1 != 0x31) then { c with f := { c.f with asyncs := c.f.asyncs ++ [(0x31, detail)] } } else c } }
  else if x.here && running s then raiseA s 0x31 detail else s
/-- The writes from this core of a kernel whose context leaves it: their acknowledgements are still waited for (09 R194). -/
def leaveUnacked (x : Run) (c : Context) : Run := { x with unacked := x.unacked ++ c.f.unacked.map Unacked.id }
/-- The kernel ends on this core as CANCEL gives: dispatch stops, and what a run-ahead has done is discarded. -/
def cancelRun (s : State) (x : Run) : State :=
  let y := { x with killed := true, asked := none }
  let t := setRun (freeCtx s x) y
  match ctxOf s x with
  | some c => setRun (dropCtx (unpinPages t c.f.pins) x) (leaveUnacked y c)
  | none =>
  if !x.here then t
  else if running t then endKernel (if t.f.ahead.isSome then rollbackCore t else t) .ok
  else t
/-- A head acts: it needs no placement, or takes this one. -/
def actOn (s : State) (q : Nat) (r : Rec) (p : Placement) : State :=
  match acceptCode s r with
  | some c => finish (readParts s r false) q r c
  | none =>
    match recType r with
    | 0 => place (readParts s r true) q r p
    | 1 => await s q r none
    | 2 => (match runOf s r with | none => finish s q r 6 | some x => finish (notifyRun s x (recField r.bits 0x28 15 0)) q r 0)
    | _ => (match runOf s r with | none => finish s q r 6 | some x => await (cancelRun s x) q r (some x.id))
def needsPlace (s : State) (r : Rec) : Bool := recType r = 0 && (acceptCode s r).isNone
/-- What may be taken next: a suspended kernel, or the head of a queue. -/
inductive Pick where
  | resume (x : Run)
  | head (q : Nat) (r : Rec)
  deriving DecidableEq, Repr
def pickHeader (s : State) (c : Pick) : List Byte := match c with | .resume x => x.header | .head _ r => headerOf s r
def pickOwner (c : Pick) : BitVec 16 := match c with | .resume x => x.rcd.owner | .head _ r => r.owner
/-- Whether a pick can be taken with the placement offered. -/
def pickOk (s : State) (p : Placement) (c : Pick) : Bool :=
  match c with
  | .head _ r => !needsPlace s r || placementOk s (pickOwner c) (pickHeader s c) p
  | .resume _ => placementOk s (pickOwner c) (pickHeader s c) p
/-- Whether a pick must be taken before those behind it: it needs no placement, or this die alone can hold it. -/
def pickMust (s : State) (c : Pick) : Bool :=
  match c with
  | .head _ r => !needsPlace s r || fitsHere s (pickOwner c) (pickHeader s c)
  | .resume _ => fitsHere s (pickOwner c) (pickHeader s c)
/-- What stands in one class: suspended kernels first, then the eligible heads from the queue after the last one served. -/
def picksOf (s : State) (cl : Nat) : List Pick :=
  (s.c.runs.filter fun x => x.suspended && !x.killed && x.kernel.cls = cl).map Pick.resume ++
  ((List.range 20).filterMap fun i =>
    let q := (s.c.lastServed + 1 + i) % 20
    match (mapGet [] s.c.queues q).head? with
    | some r => if r.eligible.isSome && waitMet s r && effClass s q r = cl then some (.head q r) else none
    | none => none)
/-- The first that can be taken; none is passed over that must be taken. -/
def firstPick (s : State) (p : Placement) : List Pick → Option Pick
  | [] => none
  | c :: cs => if pickOk s p c then some c else if pickMust s c then none else firstPick s p cs
/-- The pick of the selection: no class is served below one that has an eligible head, or a suspended kernel that this die can hold. -/
def choose (s : State) (p : Placement) : List Nat → Option Pick
  | [] => none
  | cl :: cls => match picksOf s cl with
    | [] => choose s p cls
    | cs => match firstPick s p cs with
      | some c => some c
      | none => if cs.any (fun c => pickMust s c || match c with | .head .. => true | .resume _ => false) then none else choose s p cls

/-! ### Suspension and resumption (26 R414 to R416, 08 R166) -/

def ownCells (s : State) : List Host.Cell := s.m.cells.filter fun c => c.1 < spadSize
/-- The writes of a context that are still on their way to their homes are this core's again: a FLAG and a fence wait for them (08 R166). -/
def ownReqs (s : State) (f : Seq) : State :=
  let back (r : Req) : Bool := r.src = .past && f.unacked.any fun u => u.id = r.id
  { s with m := { s.m with reqs := s.m.reqs.map fun r => if back r then { r with src := .core } else r }
           f := { f with unacked := f.unacked.filter fun u => !(s.m.reqs.any fun r => back r && r.id = u.id) } }
/-- The context comes back on this core. -/
def restoreCtx (s : State) (x : Run) (c : Context) (p : Placement) : State :=
  let s := ownReqs s c.f
  let t := { s with
    r := c.r, x := { c.x with subm := dimsMask p.dims, dimmap := mapOf p.dims }, kn := x.kernel
    e := { s.e with cmds := [], rx := c.rx ++ s.e.rx, sent := [], used := c.used }
    l := { s.l with barArrived := c.arrived }
    m := { s.m with
      gone := 0
      cells := c.spad ++ s.m.cells.filter fun a => spadSize ≤ a.1
      empties := c.empties ++ s.m.empties.filter fun l => spadSize / 128 ≤ l
      bad := s.m.bad.filter fun k => spadSize ≤ k }
    f := { s.f with fe := .run, wcount := s.tick, preempt := false }
    c := { s.c with contexts := s.c.contexts.filter fun d => d.run != x.id } }
  replayAll (tellGroups (reinject t t.f.mark.recs) .resume)
/-- The image of another core that this core resumes: what another core has saved is open, a free value (log 22), but for what the placement says. -/
def movedImage (s : State) (x : Run) (id : BitVec 6) : Context :=
  let c := (Config.otherImage s.fresh).getD ⟨0, .reset, .reset, .reset, [], [], [], [], []⟩
  { c with
    run := x.id, r := { c.r with loops := c.r.loops.take 6 }, x := { c.x with coreid := id, kndim := x.ndim }
    f := { Seq.reset with pc := c.f.pc, bsn := c.f.bsn, mark := c.f.mark, groups := c.f.groups, pins := c.f.pins, asyncs := c.f.asyncs, barsReached := c.f.barsReached
                          barsDone := c.f.barsDone, flagCnt := c.f.flagCnt }
    spad := if mapWf 0 c.spad && c.spad.all (fun p => p.1 < spadSize) then c.spad else []
    empties := c.empties.filter fun l => l < spadSize / 128 }
/-- A suspended kernel is placed anew, and its images' frames are free. A core resumes with its own COREID and LCOORD, be it the context that this core saved or that of
another (26 R416). A context that this core saved and another resumes leaves its pins behind, until the kernel ends. -/
def resume (s : State) (x : Run) (p : Placement) : State :=
  let t := freeCtx s x
  let y := { x with clusters := p.clusters, mask := dimsMask p.dims, base := p.base, suspended := false, asked := none, placed := s.c.nextRun }
  let t := { t with fresh := t.fresh + 1, c := { t.c with nextRun := s.c.nextRun + 1 } }
  let placedSpec (c : Context) : Spec := { c.x with subm := dimsMask p.dims, dimmap := mapOf p.dims }
  let own (c : Context) : Bool := placedAs s x.header p = some c.x.coreid && lcoord { s with x := placedSpec c } = lcoord { s with x := c.x }
  match (ctxOf s x).filter own with
  | some c => restoreCtx (setRun t { y with here := true }) x c p
  | none =>
    let y := match ctxOf s x with | none => y | some c => { leaveUnacked y c with pins := x.pins ++ c.f.pins }
    let t := dropCtx (setRun t { y with here := (placedAs s x.header p).isSome }) x
    match placedAs s x.header p with
    | none => t
    | some id => restoreCtx t y (movedImage s x id) p
/-- The queue of the records of other dies: none of this die's. -/
def farQueue : Nat := 20
/-- What another die's command processor arranges with this one for a record of its own (26 R433): a kernel is placed on clusters of this die, is told of a NOTIFY, or
is cancelled. The way in which it asks the spec leaves open (log 13). -/
def selectFar (x : FarRec) (p : Placement) (s : State) : Out :=
  let m := "RECORD_SELECTION"
  let r : Rec := ⟨x.bits, x.owner, x.cls, 0, none, 0, 0⟩
  let kernel := (runOf s r).filter fun y => y.queue = farQueue
  if s.h.power != .ready || (acceptCode s r).isSome then notEnabled m
  else match recType r, kernel with
    | 0, _ => when (onThisDie s p && placementOk s r.owner (headerOf s r) p && !imageHeld s r) m (place (readParts s r true) farQueue r p)
    | 2, some y => .next (notifyRun s y (recField r.bits 0x28 15 0))
    | 3, some y => .next (cancelRun s y)
    | _, _ => notEnabled m
/-- RECORD_SELECTION, with the placement that the device chooses for what it takes. Before a warm reset no record is taken any more (27 R430). -/
def execRecordSelection (p : Placement) (s : State) : Out :=
  match p.far with
  | some x => selectFar x p s
  | none =>
  match (if s.h.power = .ready then choose s p [0, 1, 2, 3] else none) with
  | none => notEnabled "RECORD_SELECTION"
  | some (.resume x) => .next (resume s x p)
  | some (.head q r) =>
    let t := { s with c := { s.c with lastServed := q, queues := mapPut [] s.c.queues q ((mapGet [] s.c.queues q).drop 1) } }
    when (!imageHeld s r) "RECORD_SELECTION" (actOn t q r p)

/-! ### Completion (26 R409, R410) -/

/-- What this core reports. -/
def ownStatus (s : State) (st : EndStatus) : BitVec 256 :=
  let code := if st.fault then 3 else if st.token.isSome then 4 else 0
  if code = 0 then plainStatus 0
  else BitVec.ofNat 256 (code + s.x.coreid.toNat * 2 ^ 8 + lcoord s * 2 ^ 16 + st.token.getD 0 * 2 ^ 32 + st.tcause.toNat * 2 ^ 64
    + st.fbundle.toNat * 2 ^ 128 + st.faddr.toNat * 2 ^ 192)
def codeRank (x : BitVec 256) : Nat := match x.toNat % 256 with | 3 => 0 | 4 => 1 | _ => 2
def alone (x : Run) : Bool := x.ndim = 0 && (coreList x.kernel.coreids).length = 1
/-- The core of a kernel that a free report names: one of its COREIDs, on a die of its subcube. -/
def reportedCore (x : Run) (n : Nat) : Nat :=
  let cs := coreList x.kernel.coreids
  ((cs[n / 2 ^ 8 % 64 % max 1 cs.length]?).getD 0).toNat * 2 ^ 8 + n / 2 ^ 16 % 2 ^ min 15 x.ndim * 2 ^ 16
/-- The causes that a fault status reports (08 R150): with a handler those that end the kernel all the same (R163, R165). -/
def faultCauses (x : Run) : List Nat :=
  if x.kernel.trapen then [0x38, 0x39]
  else [0x01, 0x02, 0x03, 0x04, 0x05, 0x06, 0x07, 0x08, 0x09, 0x0A, 0x0B, 0x0C, 0x0D, 0x10, 0x11, 0x12, 0x13, 0x14, 0x15, 0x16, 0x18, 0x20, 0x22, 0x23, 0x24, 0x25, 0x26,
    0x27, 0x32, 0x33, 0x34, 0x35, 0x36, 0x38]
/-- The causes that an error record bears: those of way K (08 R150). -/
def tokenCauses : List Nat := [0x0E, 0x12, 0x13, 0x14, 0x16, 0x17, 0x21]
/-- One of some causes. -/
def causeOf (l : List Nat) (n : Nat) : Nat := (l[n % max 1 l.length]?).getD 0
/-- FADDR of a cause (08 R153). -/
def faddrOf (c x : Nat) : Nat := if 0x10 ≤ c && c ≤ 0x17 then x % 2 ^ 64 else 0
/-- What another core of a kernel reports, a fault or an errored token: the fields that the rule fixes, and free ones (26 R410, log 22). A cause of way A has neither slot nor
bundle, and a double trap bears its inner cause. -/
def otherReport (x : Run) (y : BitVec 256) : BitVec 256 :=
  let n := y.toNat
  let core := reportedCore x n
  let t := n / 2 ^ 64
  if n % 256 = 3 then
    let c := causeOf (faultCauses x) t
    let wayA := c = 0x06 || c = 0x33 || c = 0x38
    let image := c + (if wayA then 7 * 2 ^ 11 else t / 2 ^ 8 % 2 ^ 8 * 2 ^ 8) + (if wayA then 0 else if c = 0x39 then t / 2 ^ 48 % 2 ^ 6 else t / 2 ^ 48 % 2 ^ 16) * 2 ^ 48
    BitVec.ofNat 256 (3 + core + image * 2 ^ 64 + (if wayA then 0 else n / 2 ^ 134 % 2 ^ 58 * 2 ^ 134) + faddrOf c (n / 2 ^ 192) * 2 ^ 192)
  else
    let c := causeOf tokenCauses (n / 2 ^ 112)
    BitVec.ofNat 256 (4 + core + n / 2 ^ 32 % 64 * 2 ^ 32 + (0x18 + c * 2 ^ 48) * 2 ^ 64 + faddrOf c (n / 2 ^ 192) * 2 ^ 192)
/-- Whether a report names this core. -/
def namesOwn (s : State) (x : Run) (y : BitVec 256) : Bool := x.here && reportedCore x y.toNat = s.x.coreid.toNat * 2 ^ 8 + lcoord s * 2 ^ 16
/-- The status of a kernel that ran: KILLED, or the first of what its cores report. -/
def runStatus (s : State) (x : Run) : BitVec 256 :=
  let own := match s.f.fe with | .ended st => if x.here then ownStatus s st else plainStatus 0 | _ => plainStatus 0
  if x.killed then plainStatus 5
  else if alone x && x.here then own
  else match Config.otherStatus s.fresh with
    | some y => if (y.toNat % 256 = 3 || y.toNat % 256 = 4) && codeRank y ≤ codeRank own && !namesOwn s x y then otherReport x y else own
    | none => own
/-- Whether a kernel has ended, as far as this core shows: its remote writes have been acknowledged (09 R194). -/
def runEnded (s : State) (x : Run) : Bool :=
  x.unacked.isEmpty &&
  if x.suspended then x.killed else if !x.here then true
  else match s.f.fe with | .ended _ => remoteAcked s | .saved => x.killed | _ => false
/-- A record of the same queue that was accepted before. -/
def earlierRec (s : State) (w : Waiting) : Bool :=
  let e (q id : Nat) : Bool := q = w.queue && id < w.id
  (s.c.runs.any fun x => e x.queue x.id) || ((s.c.finished ++ s.c.waiting).any fun x => e x.queue x.id)
def waitOver (s : State) (w : Waiting) : Bool :=
  match w.target with
  | some i => !s.c.runs.any fun x => x.id = i
  | none => !earlierRec s w
/-- The records that can complete now. -/
def completable (s : State) : List Waiting :=
  s.c.finished ++ s.c.waiting.filter (waitOver s) ++
    (s.c.runs.filter (runEnded s)).map fun x => ⟨x.id, x.queue, x.rcd, none, runStatus s x⟩
/-- Bytes written under a tenant's tag in runs within pages, where every home takes them; the accesses count (14 R267). -/
def writeUnder (s : State) (owner : BitVec 16) (a : Nat) (bs : List Byte) (rs : List (Nat × Nat × Nat)) : State :=
  if rs.all fun (_, b, _) => (homeFault s owner true b).isNone then
    putBytes (rs.foldl (fun s x => countAccess (meetPage s x.2.1) (pageBase s x.2.1) s.l.coord (lines64 [x])) s) (iaBase + a) bs
  else s
/-- A status is written under the record's tenant, if the homes take it. -/
def writeStatus (s : State) (owner : BitVec 16) (a : Nat) (bs : List Byte) : State := writeUnder s owner a bs (cutRun 0 a bs.length)
/-- The steps of a completion, in order. Those of a kernel of another die's record are that die's. -/
def completeRec (s : State) (w : Waiting) : State :=
  if w.queue = farQueue then s else
  let r := w.rcd
  let s := if recSaddr r = 0 then s else writeStatus s r.owner (recSaddr r) (bytesLE w.status.toNat 32)
  let own (e : Nat) : Bool := match tenantOf s r.owner with | some t => t.ecs.contains e | none => false
  let s := match recEc r 0x0E with
    | none => s
    | some e =>
      if recType r = 1 then (if w.status.toNat % 256 = 0 && own e then setEc s e (ec s e + recArg0 r) else s)
      else if own e then setEc s e (ec s e + 1) else s
  if w.queue < 16 then say s (.compl r.tag w.queue (recTag r) w.status) else s
/-- What has been contributed for a kernel's groups is gone with it, unless another kernel under the same tags runs here or is saved: the messages tell no two apart
(25 R397, log 29). -/
def dropContributions (s : State) (k : Kernel) : State :=
  let of_ (id : GroupId) : Bool := id.owner = k.owner && id.ltag = k.ltag
  if s.c.runs.any fun x => x.kernel.owner = k.owner && x.kernel.ltag = k.ltag && (x.here || (ctxOf s x).isSome) then s
  else { s with l := { s.l with partials := s.l.partials.filter fun q => !of_ q.id, early := s.l.early.filter fun q => !of_ q.id } }
/-- The record is gone, and with it the kernel, its pins and what was combined for its groups; its clusters are free. -/
def retireRec (s : State) (w : Waiting) : State :=
  let here := s.c.runs.any fun x => x.id = w.id && x.here
  let kernels := (s.c.runs.filter fun x => x.id = w.id).map Run.kernel
  let s := unpinPages s ((s.c.runs.filter fun x => x.id = w.id).flatMap Run.pins)
  let t := { s with c := { s.c with
    finished := s.c.finished.filter fun x => x.id != w.id, waiting := s.c.waiting.filter fun x => x.id != w.id
    runs := s.c.runs.filter fun x => x.id != w.id, contexts := s.c.contexts.filter fun x => x.run != w.id } }
  let t := if here then { t with f := { t.f with fe := .idle }, e := { t.e with rx := [] } } else t
  kernels.foldl dropContributions t
/-- Whether a status is to be written to a page that is on its way to another home: the write waits (14 R269). -/
def statusHeld (s : State) (w : Waiting) : Bool :=
  recSaddr w.rcd != 0 && (cutRun 0 (recSaddr w.rcd) 32).any fun x => moving s x.2.1
/-- KERNEL_COMPLETION of the k-th record that can complete. -/
def execKernelCompletion (k : Nat) (s : State) : Out :=
  match (completable s)[k]? with
  | none => notEnabled "KERNEL_COMPLETION"
  | some w =>
    let t := retireRec (completeRec s w) w
    when (!statusHeld s w) "KERNEL_COMPLETION" (finishWarm { t with fresh := t.fresh + 1 })
def execEcIncrementMessage (n : Nat) (v : W64) (s : State) : Out := when (n < 256) "EC_INCREMENT_MESSAGE" (setEc s n (ec s n + v))

/-! ### Pre-emption (26 R413 to R417) -/

def ctxRoom (s : State) (x : Run) : Bool :=
  ctxCost x ≤ freeOf s s.l.coord
def mayAsk (s : State) (x : Run) : Bool := !x.suspended && !x.killed && x.asked.isNone && ctxRoom s x
/-- Whether x is chosen before y: the lower class first, then the kernel placed last. A persistent kernel is so never chosen while one of a lower class can be
(26 R413, R417). -/
def askBefore (x y : Run) : Bool := y.kernel.cls < x.kernel.cls || (y.kernel.cls = x.kernel.cls && y.placed < x.placed)
/-- Whether a head cannot be placed: not on this die, and where its tenant has others or it needs several, on none of them as the device finds (log 22). -/
def cannotPlace (s : State) (r : Rec) : Bool :=
  let h := headerOf s r
  let alone := hNdim h = 0 && match tenantOf s r.owner with | some t => t.mask = 0 | none => true
  !fitsHere s r.owner h && (alone || Config.unplaceable s.fresh)
/-- An eligible head that cannot be placed, of a class above a kernel's. -/
def headPresses (s : State) (x : Run) : Bool :=
  (heads s).any fun (q, r) => r.eligible.isSome && waitMet s r && needsPlace s r && cannotPlace s r && effClass s q r < x.kernel.cls
/-- A kernel is asked to stop for another. Its other cores on this die may save before this one: from then on their windows refuse (14 R258, log 27). -/
def requestPreempt (s : State) (x : Run) : State :=
  let t := setRun s { x with asked := some s.tick }
  if x.here && running t then
    { t with f := { t.f with preempt := true }, fresh := t.fresh + 1
             m := { t.m with gone := Config.goneCores t.fresh &&& t.kn.coreids &&& ~~~(1#64 <<< t.x.coreid.toNat) } }
  else t
/-- PREEMPTION_REQUEST for the kernel that the command processor chooses for a head; where no head presses, the management path asks (26 R413). -/
def execPreemptionRequest (kernel : Nat) (s : State) : Out :=
  match s.c.runs.find? fun x => x.id = kernel with
  | none => notEnabled "PREEMPTION_REQUEST"
  | some x =>
    let can (y : Run) : Bool := mayAsk s y && headPresses s y
    when (if s.c.runs.any can then can x && s.c.runs.all fun y => y.id = x.id || !can y || askBefore x y else mayAsk s x) "PREEMPTION_REQUEST"
      (requestPreempt s x)
/-- Writes of this core that are on their way to their homes outlive its context here; their acknowledgements belong to the context (13 R236). -/
def leaveReqs (s : State) : State :=
  let mine := s.m.reqs.filter fun r => r.src = .core
  { s with
    m := { s.m with reqs := s.m.reqs.map fun r => if r.src = .core then { r with src := .past } else r }
    f := { s.f with unacked := s.f.unacked ++ (mine.filter fun r => isWrite r.op).map fun r => ⟨r.id, homeOfPage s r.page, r.bsn⟩ } }
/-- Every core of a kernel has saved its context: its clusters are free, and it occupies no core (26 R415). -/
def suspendRun (s : State) (x : Run) : State :=
  setRun (setFree s s.l.coord (freeOf s s.l.coord - (ctxCost x - ctxHeld s x))) { x with suspended := true, here := false, asked := none }
/-- This core saves its context; a kernel of one core is then suspended. -/
def saveOwn (s : State) (x : Run) : State :=
  let s := leaveReqs s
  let c : Context := ⟨x.id, s.r, s.x, s.f, ownCells s, s.m.empties.filter fun l => l < spadSize / 128, s.e.rx, s.e.used, s.l.barArrived⟩
  let t := setFree s s.l.coord (freeOf s s.l.coord - ctxFrames)
  let t := { t with c := { t.c with contexts := t.c.contexts ++ [c] }, f := { t.f with fe := .saved, preempt := false }, e := { t.e with rx := [] } }
  if alone x then suspendRun t x else t
/-- What saving may do next: this core saves after its landing, once every token has completed; or the last of the other cores of a kernel, which are not shown, has
saved. -/
def saves (s : State) : List State :=
  (s.c.runs.filter fun x => x.asked.isSome && !x.suspended && !x.killed).flatMap fun x =>
    if !x.here || (s.f.fe = .saved && (ctxOf s x).isSome) then [suspendRun s x]
    else if s.f.fe = .landed && tokensDone s then [saveOwn s x] else []
/-- CONTEXT_SAVE: one of the things that saving may do (log 22). -/
def execContextSave (s : State) : Out :=
  match saves s with
  | [] => notEnabled "CONTEXT_SAVE"
  | t :: ts => let u := (t :: ts).getD (Config.whichSaves s.fresh % (ts.length + 1)) t; .next { u with fresh := u.fresh + 1 }
/-- The front end goes on after a landing that was withdrawn. A core that has saved its context gets it back in place. -/
def unland (s : State) (x : Run) : State :=
  let t := { s with f := { s.f with preempt := false }, m := { s.m with gone := 0 } }
  match s.f.fe with
  | .landing => setFe t .run
  | .landed => setFe (tellGroups t .resume) .run
  | .saved =>
    (match ctxOf s x with
     | none => t
     | some c =>
       let t := ownReqs { dropCtx (freeCtx t x) x with e := { t.e with rx := c.rx ++ t.e.rx } } c.f
       let t := { t with f := { t.f with wcount := t.tick, preempt := false } }
       replayAll (setFe (tellGroups t .resume) .run))
  | _ => t
/-- PREEMPTION_WITHDRAWAL: 4 ms after the request some core has not landed. A core that has saved resumes in place. -/
def execPreemptionWithdrawal (s : State) : Out :=
  let late (x : Run) : Bool := match x.asked with | some t => fourMs ≤ elapsed s t | none => false
  match s.c.runs.find? fun x => late x && !x.suspended && !(alone x && x.here && s.f.fe = .landed && tokensDone s) with
  | none => notEnabled "PREEMPTION_WITHDRAWAL"
  | some x =>
    let t := setRun s { x with asked := none }
    .next (if x.here then unland t x else t)

end Sys2Proof.Machine
end

