-- ==== Sys2Proof/Machine/Package.lean ====
section
/-! DEFINITION. The package (27): Imoux messages, ingest, NVMe reads, the host tier's regions, attestation, resets and power. -/

namespace Sys2Proof.Machine

/-! ### Imoux (27 R421, R422) -/

def roleOf (s : State) (qp : Nat) : QpRole := (lookupN s.h.qps qp).getD .unbound
def isMgmt (s : State) (qp : Nat) : Bool := roleOf s qp = .management
/-- A queue pair may act for a tenant: its own, or a management one. -/
def actsFor (s : State) (qp : Nat) (owner : BitVec 16) : Bool := roleOf s qp = .management || roleOf s qp = .tenant owner

/-- REFUSE, with a reason code that the spec does not give (log 23). -/
def refuseMsg (s : State) (h : MsgHdr) : State :=
  say { s with fresh := s.fresh + 1 } (.refuse h (Config.openWord s.fresh).toNat)
/-- The header of 16 bytes, little-endian, as it came on a queue pair (27 R422). -/
def hdrOf (qp : Nat) (w : BitVec 128) : MsgHdr :=
  ⟨qp, w.extractLsb' 0 8, w.extractLsb' 16 3, w.extractLsb' 32 32, w.extractLsb' 64 64, w.extractLsb' 19 5 != 0⟩
/-- The queue pairs that the port has (27 R420). -/
def qpCount : Nat := 4096
def turnOf (s : State) (qp : Nat) : Option (BitVec 32) := lookupN s.h.turns qp
def setTurn (s : State) (qp : Nat) (n : BitVec 32) : State :=
  { s with h := { s.h with turns := (qp, n) :: s.h.turns.filter fun p => p.1 != qp } }
/-- Whether a message is the one to act on its queue pair, in the order in which they were sent: the first that comes, and then by their numbers, once the other dies
have acted on those that went to them, and the anchor on one that it keeps until they have (27 R423). -/
def itsTurn (s : State) (h : MsgHdr) : Bool :=
  (match turnOf s h.qp with | none => true | some n => n = h.seq) && !(s.h.relayed.any fun x => x.1 = h.qp) && !(dieNo s = 0 && s.h.inbox.any fun x => x.1.qp = h.qp)
/-- A message leaves those that wait at this die. -/
def leaveInbox (s : State) (h : MsgHdr) : State := { s with h := { s.h with inbox := s.h.inbox.filter fun x => x.1 != h } }
/-- The message has acted: the next one of its queue pair may. A die other than the anchor tells the anchor (log 15). -/
def heard (s : State) (h : MsgHdr) : State :=
  if dieNo s = 0 then setTurn s h.qp (h.seq + 1)
  else sendData { leaveInbox s h with h := { (leaveInbox s h).h with turns := s.h.turns.filter fun p => p.1 != h.qp } } 7 .memory (dieOf s 0) (.heard h.qp)
/-- A message that must wait goes ahead of the later ones of its queue pair. -/
def waitTurn (m : String) (h : MsgHdr) (s : State) : Out :=
  if h.qp < qpCount && (turnOf s h.qp).isNone then .next (setTurn s h.qp h.seq) else notEnabled m
/-- A message of a type, in its turn: dropped where the port has no such queue pair, refused where a reserved bit is set, its type is another or it may not act. A
die other than the anchor acts only on what the anchor has relayed to it (00 R5): what names it, and what changes a table of the package. -/
def imouxAny (m : String) (ty : BitVec 8) (h : MsgHdr) (may : Bool) (f : State → State) (s : State) : Out :=
  if dieNo s != 0 && !s.h.inbox.any (fun x => x.1 = h) then notEnabled m
  else if qpCount ≤ h.qp then .next s
  else when (itsTurn s h) m (if h.reserved || h.mtype != ty || !may then refuseMsg (heard s h) h else f (heard s h))
/-- The same while the package is up. -/
def imoux (m : String) (ty : BitVec 8) (h : MsgHdr) (may : Bool) (f : State → State) (s : State) : Out :=
  if s.h.power = .held then notEnabled m else imouxAny m ty h may f s
/-- The anchor relays a message to another die over dimensions 0 to 2 (00 R5). -/
def relayTo (h : MsgHdr) (m : HostMsg) (s : State) (n : BitVec 3) : State :=
  sendData { s with h := { s.h with relayed := s.h.relayed ++ [(h.qp, n)] } } 7 .memory (dieOf s n) (.host h m)
/-- A message acts on the die that it names: the anchor relays it there. -/
def forDie (h : MsgHdr) (m : HostMsg) (f : State → State) (s : State) : State := if h.die = dieNo s then f s else relayTo h m s h.die
/-- A message that changes a table of the package: every die holds the table, and the anchor relays it to all of them. -/
def forAll (h : MsgHdr) (m : HostMsg) (s : State) : State :=
  if dieNo s = 0 then ((List.range 7).map fun i => BitVec.ofNat 3 (i + 1)).foldl (relayTo h m) s else s
/-- Whether the anchor keeps a message until the other dies have acted on it. -/
def keeps (s : State) (h : MsgHdr) : Bool := dieNo s = 0 && s.h.inbox.any fun x => x.1 = h
/-- The anchor relays a message to all others, and keeps it until they have acted. -/
def keepUntil (h : MsgHdr) (m : HostMsg) (s : State) : State :=
  let t := forAll h m s
  { t with h := { t.h with inbox := t.h.inbox ++ [(h, m)] } }
/-- Whether every die has acted on the messages of a queue pair that went to it. -/
def allHeard (s : State) (h : MsgHdr) : Bool := !s.h.relayed.any fun x => x.1 = h.qp
/-- The transition of an SPDM message. -/
def spdmInstr (m : SpdmMsg) : Instr :=
  match m with
  | .getVersion => .getVersion | .getCapabilities => .getCapabilities | .negotiateAlgorithms p q => .negotiateAlgorithms p q | .getDigests => .getDigests
  | .getCertificate o n => .getCertificate o n | .challenge x => .challenge x | .getMeasurements x => .getMeasurements x
/-- The turn in which a die acts on a message that the anchor has relayed to it. -/
def relayedTurn (x : MsgHdr × HostMsg) : Turn :=
  match x.2 with
  | .cqwr cq rcd => .event (.cqwr x.1 cq rcd) | .mgrd r => .event (.mgrd x.1 r) | .mgwr r v => .event (.mgwr x.1 r v)
  | .migcClear v => .event (.migcClear x.1 v) | .pwrctlWrite v => .event (.pwrctlWrite x.1 v) | .warmReset => .event (.warmReset x.1)
  | .qpBind qp role => .event (.qpBind x.1 qp role) | .wopen n w => .event (.wopen x.1 n w) | .wclose n => .event (.wclose x.1 n)
  | .ingev win n inc => .event (.ingev x.1 win n inc) | .nvrd c => .event (.nvrd x.1 c) | .htreg n r => .event (.htreg x.1 n r)
  | .spdm m => .message x.1 (spdmInstr m)

/-- CQWR (27 R399, R423): a full queue refuses. -/
def execCqwr (h : MsgHdr) (cq : Nat) (rcd : BitVec 512) (s : State) : Out :=
  imoux "CQWR" 0x01 h true (forDie h (.cqwr cq rcd) fun s =>
    match mapFind s.c.bind cq with
    | none => refuseMsg s h
    | some o =>
      if 16 ≤ cq || !actsFor s h.qp o || 256 ≤ queueLen s cq || s.h.power != .ready then refuseMsg s h
      else enqueueRec s cq ⟨rcd, o, 0, h.tag, none, 0, 0⟩) s
def bitNat (b : Bool) : Nat := if b then 1 else 0
/-- PWRCTL (27 R431). -/
def pwrctlWord (s : State) : W64 := BitVec.ofNat 64 (s.c.draw.toNat * 2 ^ 32 + s.c.limit.toNat * 2 ^ 16 + bitNat s.c.thr)
/-- What MGRD answers, where the register has a layout. -/
def readMReg (s : State) (r : MReg) : Option W64 :=
  match r with
  | .lpctl d => some (port s d).lpctl
  | .migc => some s.m.migc
  | .pwrctl => some (pwrctlWord s)
  | .wdogDefault => some s.c.wdogDefault
  | .cbtoDefault => some (s.c.cbtoDefault.zeroExtend 64)
  | _ => none
/-- MGRD is answered also while the package is held in reset (27 R429). -/
def execMgrd (h : MsgHdr) (r : MReg) (s : State) : Out :=
  imouxAny "MGRD" 0x02 h (isMgmt s h.qp || s.h.power = .held) (forDie h (.mgrd r) fun s =>
    match readMReg s r with
    | some v => say s (.mgdata h.tag v)
    | none => say { s with fresh := s.fresh + 1 } (.mgdata h.tag (Config.openWord s.fresh))) s
/-- LPCTL with its reserved bits 0 (12 R234). -/
def lpctlOf (v : W64) : W64 := v &&& ~~~0xFFE0#64
/-- A field of MIGC is cleared by any 1 written to it (14 R270). -/
def clearMigc (x v : W64) : W64 :=
  let keep (hi lo : Nat) : W64 := if fieldN v hi lo = 0 then BitVec.ofNat 64 (fieldN x hi lo * 2 ^ lo) else 0
  keep 63 48 ||| keep 47 32 ||| keep 31 0
def setMigc (s : State) (v : W64) : State := { s with m := { s.m with migc := clearMigc s.m.migc v } }
/-- DRAW is taken; a throttling episode starts where it exceeds LIMIT, in which every core that runs a kernel takes 0x37, with TRAPEN 1 (08 R164), and it ends where DRAW
has fallen below LIMIT (27 R431). -/
def draws (s : State) (draw : BitVec 16) : State :=
  let t := { s with c := { s.c with draw := draw, thr := if s.c.thr then !(draw < s.c.limit) else s.c.limit < draw } }
  if !s.c.thr && t.c.thr && running s && s.kn.trapen then raiseA t 0x37 0 else t
/-- LIMIT is clamped to 100 to 600 W (27 R431), and DRAW is judged by it. -/
def setLimit (s : State) (v : W64) : State :=
  let t := { s with c := { s.c with limit := BitVec.ofNat 16 (max 100 (min 600 (fieldN v 31 16))) } }
  draws t t.c.draw
/-- A warm reset begins at this die (27 R430): every kernel is cancelled, and once all have ended what is queued is refused. -/
def startWarm (s : State) : State :=
  let t := s.c.runs.foldl cancelRun s
  finishWarm { t with h := { t.h with power := .ending } }
/-- A warm reset acts on every die of the package, each of which keeps the message until it is done. -/
def warmAll (h : MsgHdr) (s : State) : State := startWarm (keepUntil h .warmReset s)
/-- A warm reset goes on, whose message this die keeps: a die that is done tells the anchor, which, done as well, has all of them go on; and each begins its bring-up
with nothing under way within the package. -/
def warmOn (h : MsgHdr) (s : State) : Out :=
  match s.h.power with
  | .ending =>
    when (warmDone s && (dieNo s != 0 || allHeard s h)) "WARM_RESET"
      (let t := if dieNo s != 0 then heard s h
                else ((List.range 7).map fun i => BitVec.ofNat 3 (7 - i)).foldl (fun s n => sendData s 7 .memory (dieOf s n) (.host h .warmReset)) s
       { t with h := { t.h with power := .ended } })
  | .ended => when (matesQuiet s) "WARM_RESET" (warmBoot s)
  | _ => notEnabled "WARM_RESET"
/-- The free frames of a die, the more or the fewer by those of a page. -/
def takeFrames (s : State) (p : Page) : State := setFree s p.home (freeOf s p.home - frames p)
/-- Whether the command processor can create an entry (14 R256, R264): aligned, over no other page, at a die of the tenant's allotment that has a frame for it. -/
def pageFits (s : State) (p : Page) : Bool :=
  p.ia % pageSize p = 0 && p.ia / 2 ^ 48 < 15 && (s.m.pages.all fun q => q.ia + pageSize q ≤ p.ia || p.ia + pageSize p ≤ q.ia) &&
  frames p ≤ freeOf s p.home && match tenantOf s p.owner with | some t => (t.base ^^^ p.home) &&& ~~~t.mask = 0 | none => false
/-- Whether it can remove one: at rest, pinned by none, and named by no request under way. -/
def pageLeaves (s : State) (p : Page) : Bool :=
  !pinned s p && !awaited s p && !outstanding s p.ia && !(s.m.reqs.any fun r => reqOn s r p.ia) && (p.st = .resident || isOffloaded p)
/-- The management path has the command processor create a page entry, or remove one (14 R264): the way to it is a DESIGN CHOICE (log 25). -/
def setEntry (s : State) (h : MsgHdr) (ia : Nat) (e : Option PageDesc) : State :=
  match e with
  | some d =>
    let p : Page := ⟨ia, d.large, d.owner, d.frame, d.key, d.uncached, d.ro, .resident, [], none, 0, d.home, s.tick⟩
    if pageFits s p then tellDirectory (takeFrames { s with m := { s.m with pages := s.m.pages ++ [p] } } p) p p.home else refuseMsg s h
  | none =>
    match s.m.pages.find? fun p => p.ia = ia with
    | none => refuseMsg s h
    | some p =>
      if !pageLeaves s p then refuseMsg s h
      else
        let t := if p.st = .resident then setFree s p.home (freeOf s p.home + frames p) else s
        { t with m := { t.m with pages := t.m.pages.filter fun q => q.ia != ia, dir := t.m.dir.filter fun x => x.1 != ia
                                 homeCache := t.m.homeCache.filter fun x => x.1 != ia, blocks := dropBlocks t.m.blocks p } }
/-- Whether a tenant has kernels or pages. -/
def tenantUsed (s : State) (o : BitVec 16) : Bool := (s.c.runs.any fun x => x.kernel.owner = o) || s.m.pages.any fun p => p.owner = o
/-- The management path sets a tenant or removes one (26 R404, 14 R432): an aligned subcube, up to sixteen triples, and event counters. A tenant with kernels or pages
keeps its allotment; the triples serve the kernels that start from now on. The way to it is a DESIGN CHOICE (log 25). -/
def setTenant (s : State) (h : MsgHdr) (o : BitVec 16) (e : Option TenantDesc) : State :=
  let rest := s.c.tenants.filter fun t => t.owner != o
  match e with
  | some d =>
    let t : Tenant := ⟨o, d.base, d.mask, d.ranges.map fun r => ⟨r.1, r.2.1, r.2.2⟩, d.ecs⟩
    let same := match tenantOf s o with | some t => t.base = d.base && t.mask = d.mask | none => true
    if d.base &&& d.mask != 0 || 16 < d.ranges.length || !d.ecs.all (· < 256) || (tenantUsed s o && !same) then refuseMsg s h
    else { s with c := { s.c with tenants := rest ++ [t] } }
  | none => if tenantUsed s o then refuseMsg s h else { s with c := { s.c with tenants := rest } }
/-- MGWR to a register of one die, of those that the spec names; the others draw REFUSE. -/
def writeMReg (h : MsgHdr) (r : MReg) (v : W64) (s : State) : State :=
    match r with
    | .lpctl d => if 3 ≤ d && d < 15 then setPort s d (markLow s.tick (port s d) { port s d with lpctl := lpctlOf v }) else refuseMsg s h
    | .migc => setMigc s v
    | .pwrctl => setLimit s v
    | .wdogDefault => { s with c := { s.c with wdogDefault := v } }
    | .cbtoDefault => { s with c := { s.c with cbtoDefault := v.truncate 32 } }
    | .offload => { s with m := { s.m with offloadAsked := true } }
    | .preempt => (match s.c.runs.find? fun x => x.id = v.toNat && mayAsk s x with | some x => requestPreempt s x | none => refuseMsg s h)
    | .warmReset => if s.h.power = .ready then warmAll h s else refuseMsg s h
    | .bind cq => if cq < 16 then { s with c := { s.c with bind := mapIns s.c.bind cq (v.truncate 16) } } else refuseMsg s h
    | .page ia e => setEntry s h ia e
    | .tenant o e => setTenant s h o e
    | .other _ => refuseMsg s h
/-- MGWR acts on the die that it names, a warm reset on all (27 R430). -/
def execMgwr (h : MsgHdr) (r : MReg) (v : W64) (s : State) : Out :=
  imoux "MGWR" 0x03 h (isMgmt s h.qp) (if r = .warmReset && dieNo s = 0 then writeMReg h r v else forDie h (.mgwr r v) (writeMReg h r v)) s
def execMigcClear (h : MsgHdr) (v : W64) (s : State) : Out := imoux "MIGC_CLEAR" 0x03 h (isMgmt s h.qp) (forDie h (.migcClear v) fun s => setMigc s v) s
def execPwrctlWrite (h : MsgHdr) (v : W64) (s : State) : Out := imoux "PWRCTL_WRITE" 0x03 h (isMgmt s h.qp) (forDie h (.pwrctlWrite v) fun s => setLimit s v) s
/-- WARM_RESET: the write of MGWR that begins one, and its going on at a die that keeps the message. A second one meanwhile is refused: DESIGN CHOICE (log 23). -/
def execWarmReset (h : MsgHdr) (s : State) : Out :=
  let kept := s.h.inbox.any fun x => x = (h, .warmReset)
  if kept && (s.h.power = .ending || s.h.power = .ended) then warmOn h s
  else if kept && dieNo s != 0 then when (s.h.power = .ready) "WARM_RESET" (startWarm s)
  else imoux "WARM_RESET" 0x03 h (isMgmt s h.qp && s.h.power = .ready) (warmAll h) s
/-- QP_BIND: by a management queue pair, or while none is bound (log 24). The binding is the package's. -/
def execQpBind (h : MsgHdr) (qp : Nat) (role : QpRole) (s : State) : Out :=
  imoux "QP_BIND" 0x03 h (isMgmt s h.qp || s.h.qps.all fun p => p.2 != .management) (fun s =>
    if 4096 ≤ qp then refuseMsg s h
    else forAll h (.qpBind qp role) { s with h := { s.h with qps := (s.h.qps.filter fun p => p.1 != qp) ++ [(qp, role)] } }) s

/-! ### Ingest (27 R424 to R426) -/

def windowHas (w : Window) (a n : Nat) : Bool := w.iabase ≤ a && a + n ≤ w.iabase + w.len
/-- Every page of some bytes has an entry with this owner. -/
def pagesOwned (s : State) (owner : BitVec 16) (a len : Nat) : Nat → Bool
  | 0 => false
  | n + 1 =>
    if len = 0 then true
    else match pageAt s a with
      | none => false
      | some p => p.owner = owner && (len ≤ p.ia + pageSize p - a || pagesOwned s owner (p.ia + pageSize p) (len - (p.ia + pageSize p - a)) n)
/-- Whether this package holds a die of a tenant's allotment (26 R404). -/
def packageHas (s : State) (owner : BitVec 16) : Bool :=
  match tenantOf s owner with | none => false | some t => (t.base ^^^ s.l.coord) &&& ~~~t.mask &&& ~~~7#15 = 0
def windowPages (s : State) (w : Window) : List Page := s.m.pages.filter fun p => p.ia < w.iabase + w.len && w.iabase < p.ia + pageSize p
/-- What WOPEN asks of its window. -/
def windowGood (s : State) (n : Nat) (w : Window) : Bool :=
  n < 256 && !mapHas s.h.windows n && !(s.h.inbox.any fun x => match x.2 with | .wopen m _ => dieNo s = 0 && m = n | _ => false) && w.iabase % 0x10000 = 0 && w.len % 0x10000 = 0
    && pagesOwned s w.owner w.iabase w.len (s.m.pages.length + 1) && packageHas s w.owner
/-- The dies of a tenant's allotment in other packages (26 R404). -/
def farDies (s : State) (owner : BitVec 16) : List Coord :=
  match tenantOf s owner with
  | none => []
  | some t => (t.base :: otherDies t.base t.mask).filter fun c => (c ^^^ s.l.coord) &&& ~~~7#15 != 0
/-- The dies of other packages pin a window's pages, or no longer do (27 R424). -/
def tellFar (s : State) (n : Nat) (w : Window) (on : Bool) : State :=
  (farDies s w.owner).foldl (fun s c => sendData s (7 ||| allotMask s w.owner) .memory c (.pin n w.owner w.iabase w.len on)) s
/-- A window opens at this die: its pages are pinned, and an offload of one of them is cancelled (14 R269). -/
def openWindow (s : State) (n : Nat) (w : Window) : State :=
  let t := { s with h := { s.h with windows := mapIns s.h.windows n w } }
  (windowPages t w).foldl (fun s p => match p.st with | .offloading .. => meetPage s p.ia | _ => s) t
/-- Whether a page of a window is moving. -/
def windowMoves (s : State) (w : Window) : Bool := (windowPages s w).any fun p => moving s p.ia
/-- WOPEN pins the window's pages at every home: it waits for one that is moving (14 R267, R269). The table of windows is the package's, and every die holds it; at the
anchor the window opens once all others have pinned, the homes in other packages among them. -/
def execWopen (h : MsgHdr) (n : Nat) (w : Window) (s : State) : Out :=
  if keeps s h then
    when (allHeard s h && (s.h.pinsDue.all fun x => x.1 != n) && !windowMoves s w) "WOPEN" (openWindow (leaveInbox s h) n w)
  else if s.h.power != .held && isMgmt s h.qp && windowGood s n w && windowMoves s w then waitTurn "WOPEN" h s
  else imoux "WOPEN" 0x04 h (isMgmt s h.qp) (fun s =>
    if !windowGood s n w then refuseMsg s h
    else if dieNo s != 0 then openWindow s n w
    else
      let t := tellFar s n w true
      keepUntil h (.wopen n w) { t with h := { t.h with pinsDue := t.h.pinsDue ++ (farDies s w.owner).map fun c => (n, c) } }) s
/-- Writes into a window that have not performed. -/
def windowBusy (s : State) (n : Nat) (w : Window) : Bool :=
  (s.m.reqs.any fun r => (match r.src with | .host _ => true | _ => false) && r.runs.any fun x => windowHas w x.2.1 x.2.2)
  || s.h.reads.any fun r => r.cmd.win = n
/-- WCLOSE acts once the window's writes have performed. -/
def execWclose (h : MsgHdr) (n : Nat) (s : State) : Out :=
  match mapFind s.h.windows n with
  | none => imoux "WCLOSE" 0x05 h false id s
  | some w =>
    if actsFor s h.qp w.owner && windowBusy s n w then waitTurn "WCLOSE" h s
    else imoux "WCLOSE" 0x05 h (actsFor s h.qp w.owner) (fun s =>
      let t := forAll h (.wclose n) { s with h := { s.h with windows := mapErase s.h.windows n } }
      if dieNo s = 0 then tellFar t n w false else t) s
/-- Some bytes cut at the boundaries of 64 KiB. -/
def cutLong (img a n : Nat) : Nat → List (Nat × Nat × Nat)
  | 0 => []
  | fuel + 1 =>
    let k := (a / 0x10000 + 1) * 0x10000 - a
    if n ≤ k then [(img, a, n)] else (img, a, k) :: cutLong (img + k) (a + k) (n - k) fuel
def cutAll (a n : Nat) : List (Nat × Nat × Nat) := if n = 0 then [] else cutLong 0 a n (n / 0x10000 + 2)
/-- RDMA_WRITE: carried to the homes of its pages, or NAKed. A page whose home refuses it is not written, and draws a NAK too: DESIGN CHOICE (log 24). -/
def execRdmaWrite (qp : Nat) (rkey : BitVec 32) (ia : Nat) (bytes : List Byte) (s : State) : Out :=
  if s.h.power = .held || dieNo s != 0 then notEnabled "RDMA_WRITE"
  else if qpCount ≤ qp then .next s
  else match s.h.windows.find? fun w => w.2.rkey = rkey && windowHas w.2 ia bytes.length && w.2.qpset.getLsbD qp with
    | none => .next (say s (.nak qp))
    | some (_, w) => .next ((cutAll ia bytes.length).foldl (fun s (i, a, n) =>
        addReq s ⟨0, .host qp, 0, 0, 0, .store ((bytes.drop i).take n), pageBase s a, [(0, a, n)], 0, w.owner, .held, false, false, false, false⟩) s)
/-- INGEV acts once the earlier writes of its queue pair have performed. -/
def execIngev (h : MsgHdr) (win n : Nat) (inc : W64) (s : State) : Out :=
  if s.m.reqs.any fun r => r.src = .host h.qp then waitTurn "INGEV" h s
  else
    let ok := match mapFind s.h.windows win with
      | none => false
      | some w => actsFor s h.qp w.owner && match tenantOf s w.owner with | some t => t.ecs.contains n | none => false
    imoux "INGEV" 0x06 h ok (forDie h (.ingev win n inc) fun s => setEc s n (ec s n + inc)) s
/-- NVRD: at most 256 reads at once in the package. The anchor, at whose port their data comes in, holds them (log 24). -/
def execNvrd (h : MsgHdr) (c : NvRead) (s : State) : Out :=
  let ok := match mapFind s.h.windows c.win with
    | none => false
    | some w => actsFor s h.qp w.owner && c.count ≤ 2048 && c.off + 512 * c.count ≤ w.len &&
        match tenantOf s w.owner with | some t => t.ecs.contains c.ec | none => false
  imoux "NVRD" 0x07 h (ok && s.h.reads.length < 256)
    (fun s => { s with h := { s.h with nextRead := s.h.nextRead + 1, reads := s.h.reads ++ [⟨s.h.nextRead, c, h.die, .reading⟩] } }) s
/-- Some bytes of a read go toward the homes of their pages (27 R424, R426). -/
def nvWrites (s : State) (id : Nat) (owner : BitVec 16) (a : Nat) (bs : List Byte) : State :=
  (cutAll a bs.length).foldl (fun s (i, b, n) =>
    addReq s ⟨0, .nvme id, 0, 0, 0, .store ((bs.drop i).take n), pageBase s b, [(0, b, n)], 0, owner, .held, false, false, false, false⟩) s
/-- Whether bytes of a read are still to perform. -/
def nvBusy (s : State) (id : Nat) : Bool := s.m.reqs.any fun r => r.src = .nvme id
def setPhase (s : State) (id : Nat) (p : NvPhase) : State :=
  { s with h := { s.h with reads := s.h.reads.map fun x => if x.id = id then { x with phase := p } else x } }
/-- NVRD_COMPLETE of the k-th read, in its three stages: its data comes and goes to its homes; once every byte has performed the status does, with an error's
code where a home has refused a part; and then the counter rises, which is that of the die that the message names: the anchor tells another die of it. -/
def execNvrdComplete (k : Nat) (status : W64) (bytes : List Byte) (s : State) : Out :=
  let m := "NVRD_COMPLETE"
  match s.h.reads[k]? with
  | none => notEnabled m
  | some r =>
    match mapFind s.h.windows r.cmd.win with
    | none => notEnabled m
    | some w =>
      match r.phase with
      | .reading =>
        when (if status = 0 then bytes.length = 512 * r.cmd.count else bytes.length ≤ 512 * r.cmd.count) m
          (setPhase (nvWrites s r.id w.owner (w.iabase + r.cmd.off) bytes) r.id (.data status false))
      | .data st refused =>
        when (!nvBusy s r.id && (if refused then status != 0 else status = st)) m
          (setPhase (nvWrites s r.id w.owner r.cmd.status (bytesLE status.toNat 8)) r.id .status)
      | .status =>
        let t := if r.die = dieNo s then setEc s r.cmd.ec (ec s r.cmd.ec + 1) else sendCord s 7 (dieOf s r.die) (.ec r.cmd.ec 1)
        when (!nvBusy s r.id) m { t with h := { t.h with reads := t.h.reads.filter fun x => x.id != r.id } }

/-! ### Host-tier regions (27 R427) -/

def regionUsed (s : State) (n : Nat) : Bool := s.m.pages.any fun p => (inRegion n p).isSome
/-- HTREG: length 0 removes a region; a region that holds pages keeps its tenant and length, and is no longer lost (log 24). -/
def execHtreg (h : MsgHdr) (n : Nat) (r : Region) (s : State) : Out :=
  imoux "HTREG" 0x09 h (isMgmt s h.qp) (fun s =>
    let unlost (s : State) : State := { s with h := { s.h with lost := s.h.lost.filter fun x => x != n } }
    if r.len = 0 then
      if 256 ≤ n || regionUsed s n then refuseMsg s h
      else forAll h (.htreg n r) (unlost { s with h := { s.h with regions := mapErase s.h.regions n } })
    else
      let others := (s.h.regions.filter fun x => x.1 != n && x.2.owner = r.owner).length
      let same := match mapFind s.h.regions n with | some g => g.owner = r.owner && g.len = r.len | none => false
      if 256 ≤ n || r.len % 0x10000 != 0 || 16 ≤ others || !isMgmt s r.qp || (regionUsed s n && !same) then refuseMsg s h
      else forAll h (.htreg n r) (unlost { s with h := { s.h with regions := mapIns s.h.regions n r } })) s

/-! ### Attestation (27 R428) -/

/-- An SPDM message, which the die that it names answers, also while the package is held in reset (27 R429): the kind of the answer and what the spec puts into it.
The form of its content is that of DMTF SPDM (log 14). -/
def spdm (name : String) (m : SpdmMsg) (kind : Nat) (content : List Byte) (s : State) : Out :=
  imouxAny name 0x08 s.h.spdm true (forDie s.h.spdm (.spdm m) fun s => say s (.spdm s.h.spdm.tag kind (Config.spdmBody kind content))) s
/-- The die's certificate chain. -/
def chainOf (s : State) : List Byte := Config.ownChain s.h.image.identity
def digestBytes (x : BitVec 384) : List Byte := bytesLE x.toNat 48
/-- The versions 1.2 and 1.3. -/
def execGetVersion (s : State) : Out := spdm "GET_VERSION" .getVersion 0x04 [0x12, 0x13] s
def execGetCapabilities (s : State) : Out := spdm "GET_CAPABILITIES" .getCapabilities 0x61 [] s
/-- ECDSA P-384 and SHA-384 only; without them the answer is an error. -/
def execNegotiateAlgorithms (p384 sha384 : Bool) (s : State) : Out :=
  spdm "NEGOTIATE_ALGORITHMS" (.negotiateAlgorithms p384 sha384) (if p384 && sha384 then 0x63 else 0x7F) [] s
def execGetDigests (s : State) : Out := spdm "GET_DIGESTS" .getDigests 0x01 (digestBytes (Config.sha384 (chainOf s))) s
def execGetCertificate (off len : Nat) (s : State) : Out := spdm "GET_CERTIFICATE" (.getCertificate off len) 0x02 (((chainOf s).drop off).take len) s
/-- What a signed answer holds: what it tells, and the signature under the identity key over the exchange. -/
def signedBody (s : State) (nonce : BitVec 256) (bs : List Byte) : List Byte :=
  bs ++ bytesLE (Config.ecdsaSign s.h.image.identity (Config.spdmTranscript nonce bs)).toNat 96
def execChallenge (nonce : BitVec 256) (s : State) : Out :=
  spdm "CHALLENGE" (.challenge nonce) 0x03 (signedBody s nonce (digestBytes (Config.sha384 (chainOf s)))) s
/-- The digests of the configuration image, also of one whose signature has failed, and of the command processor's firmware. -/
def measurements (s : State) : List Byte := digestBytes (Config.sha384 (Config.imageBytes s.h.image)) ++ digestBytes Config.firmwareDigest
def execGetMeasurements (nonce : BitVec 256) (s : State) : Out :=
  spdm "GET_MEASUREMENTS" (.getMeasurements nonce) 0x60 (signedBody s nonce (measurements s)) s

/-! ### Cold reset and power (27 R429 to R431) -/

/-- A port of a package that is held in reset: the links within it are up, over which the anchor relays what is answered (00 R5, 27 R429); the spec has no other way to the
other dies: DESIGN CHOICE (log 23). -/
def heldPort (eq : Bool) (d : Nat) : Port :=
  if d < 3 then { Port.reset with installed := true, stage := .up, lanes := fullLanes d, striped := fullLanes d, eqCached := eq } else { Port.reset with eqCached := eq }
/-- COLD_RESET: the image is verified; the package stays in reset if its signature fails. What on-package flash holds stays (12 R231). -/
def execColdReset (img : ConfigImage) (s : State) : Out :=
  if Config.ecdsaOk Config.ebsalKey (Config.imageBytes img.map) img.signature then .next (boot s img.map)
  else .next { State.reset with
    agenda := s.agenda, fresh := s.fresh, h := { Pkg.reset with power := .held, phys := s.h.phys, image := img.map }
    l := { State.reset.l with coord := img.map.coord, ports := (List.range 15).map fun d => (d, heldPort (port s d).eqCached d) } }
/-- THROTTLE_START: DRAW exceeds LIMIT. -/
def execThrottleStart (draw : BitVec 16) (s : State) : Out := when (!s.c.thr && s.c.limit < draw) "THROTTLE_START" (draws s draw)
def execThrottleEnd (draw : BitVec 16) (s : State) : Out := when (s.c.thr && draw < s.c.limit) "THROTTLE_END" (draws s draw)

end Sys2Proof.Machine
end

