-- ==== Sys2Proof/Machine/Dispatch.lean ====
section
/-! DEFINITION. One arm per instruction: each a direct call of its meaning. -/

namespace Sys2Proof.Machine

def exec (i : Instr) (s : State) : Host.Outcome State Fault Refusal :=
  match i with
  | .latchLands q => Sys2Proof.Machine.execLatchLands q s
  | .interlockedWriteLands k => Sys2Proof.Machine.execInterlockedWriteLands k s
  | .throttleStart draw => Sys2Proof.Machine.execThrottleStart draw s
  | .throttleEnd draw => Sys2Proof.Machine.execThrottleEnd draw s
  | .preemptionRequest kernel => Sys2Proof.Machine.execPreemptionRequest kernel s
  | .engineCommandStart e => Sys2Proof.Machine.execEngineCommandStart e s
  | .tokenCompletion k => Sys2Proof.Machine.execTokenCompletion k s
  | .barrierArrival scope die core => Sys2Proof.Machine.execBarrierArrival scope die core s
  | .flitReceived d f => Sys2Proof.Machine.execFlitReceived d f s
  | .nakReplay d epoch counter => Sys2Proof.Machine.execNakReplay d epoch counter s
  | .ackReceived d epoch counter => Sys2Proof.Machine.execAckReceived d epoch counter s
  | .ackTimeout d => Sys2Proof.Machine.execAckTimeout d s
  | .keySwitch d => Sys2Proof.Machine.execKeySwitch d s
  | .controlFlitSend d => Sys2Proof.Machine.execControlFlitSend d s
  | .authentication d m => Sys2Proof.Machine.execAuthentication d m s
  | .linkBringup d lanes fast => Sys2Proof.Machine.execLinkBringup d lanes fast s
  | .fastBringupTimeout d => Sys2Proof.Machine.execFastBringupTimeout d s
  | .bringupTimeout d => Sys2Proof.Machine.execBringupTimeout d s
  | .laneFailure d => Sys2Proof.Machine.execLaneFailure d s
  | .linkStateNotice coord d down => Sys2Proof.Machine.execLinkStateNotice coord d down s
  | .sharedLaneGrant g => Sys2Proof.Machine.execSharedLaneGrant g s
  | .sharedLaneRelease grp fibre => Sys2Proof.Machine.execSharedLaneRelease grp fibre s
  | .lanePark d => Sys2Proof.Machine.execLanePark d s
  | .laneWake d => Sys2Proof.Machine.execLaneWake d s
  | .flagWordArrives m => Sys2Proof.Machine.execFlagWordArrives m s
  | .cbrResultArrives g n r => Sys2Proof.Machine.execCbrResultArrives g n r s
  | .cbrContributionArrives m => Sys2Proof.Machine.execCbrContributionArrives m s
  | .cbrBreak g => Sys2Proof.Machine.execCbrBreak g s
  | .cbrSuspendNotice g => Sys2Proof.Machine.execCbrSuspendNotice g s
  | .cbrResumeNotice g => Sys2Proof.Machine.execCbrResumeNotice g s
  | .ecIncrementMessage ec v => Sys2Proof.Machine.execEcIncrementMessage ec v s
  | .homeAccess k => Sys2Proof.Machine.execHomeAccess k s
  | .remoteWriteAck id => Sys2Proof.Machine.execRemoteWriteAck id s
  | .homeLookup k home => Sys2Proof.Machine.execHomeLookup k home s
  | .pageMoveComplete ia => Sys2Proof.Machine.execPageMoveComplete ia s
  | .offloadStart ia region off => Sys2Proof.Machine.execOffloadStart ia region off s
  | .offloadComplete ia => Sys2Proof.Machine.execOffloadComplete ia s
  | .returnComplete ia ok => Sys2Proof.Machine.execReturnComplete ia ok s
  | .regionLost r => Sys2Proof.Machine.execRegionLost r s
  | .recordSelection p => Sys2Proof.Machine.execRecordSelection p s
  | .kernelCompletion k => Sys2Proof.Machine.execKernelCompletion k s
  | .cqwr h cq rec => Sys2Proof.Machine.execCqwr h cq rec s
  | .mgrd h r => Sys2Proof.Machine.execMgrd h r s
  | .mgwr h r v => Sys2Proof.Machine.execMgwr h r v s
  | .migcClear h v => Sys2Proof.Machine.execMigcClear h v s
  | .pwrctlWrite h v => Sys2Proof.Machine.execPwrctlWrite h v s
  | .warmReset h => Sys2Proof.Machine.execWarmReset h s
  | .qpBind h qp role => Sys2Proof.Machine.execQpBind h qp role s
  | .wopen h n w => Sys2Proof.Machine.execWopen h n w s
  | .wclose h n => Sys2Proof.Machine.execWclose h n s
  | .rdmaWrite qp rkey ia bytes => Sys2Proof.Machine.execRdmaWrite qp rkey ia bytes s
  | .ingev h win ec inc => Sys2Proof.Machine.execIngev h win ec inc s
  | .nvrd h c => Sys2Proof.Machine.execNvrd h c s
  | .nvrdComplete k status bytes => Sys2Proof.Machine.execNvrdComplete k status bytes s
  | .htreg h n r => Sys2Proof.Machine.execHtreg h n r s
  | .negotiateAlgorithms p384 sha384 => Sys2Proof.Machine.execNegotiateAlgorithms p384 sha384 s
  | .getCertificate off len => Sys2Proof.Machine.execGetCertificate off len s
  | .challenge nonce => Sys2Proof.Machine.execChallenge nonce s
  | .getMeasurements nonce => Sys2Proof.Machine.execGetMeasurements nonce s
  | .coldReset img => Sys2Proof.Machine.execColdReset img s
  | .movi o => Sys2Proof.Machine.execMovi o s
  | .movhi o => Sys2Proof.Machine.execMovhi o s
  | .add o => Sys2Proof.Machine.execAdd o s
  | .sub o => Sys2Proof.Machine.execSub o s
  | .mul o => Sys2Proof.Machine.execMul o s
  | .mulh o => Sys2Proof.Machine.execMulh o s
  | .addi o => Sys2Proof.Machine.execAddi o s
  | .muli o => Sys2Proof.Machine.execMuli o s
  | .div o => Sys2Proof.Machine.execDiv o s
  | .divu o => Sys2Proof.Machine.execDivu o s
  | .rem o => Sys2Proof.Machine.execRem o s
  | .remu o => Sys2Proof.Machine.execRemu o s
  | .min o => Sys2Proof.Machine.execMin o s
  | .max o => Sys2Proof.Machine.execMax o s
  | .minu o => Sys2Proof.Machine.execMinu o s
  | .maxu o => Sys2Proof.Machine.execMaxu o s
  | .sel o => Sys2Proof.Machine.execSel o s
  | .abs o => Sys2Proof.Machine.execAbs o s
  | .and o => Sys2Proof.Machine.execAnd o s
  | .or o => Sys2Proof.Machine.execOr o s
  | .xor o => Sys2Proof.Machine.execXor o s
  | .andn o => Sys2Proof.Machine.execAndn o s
  | .andi o => Sys2Proof.Machine.execAndi o s
  | .ori o => Sys2Proof.Machine.execOri o s
  | .xori o => Sys2Proof.Machine.execXori o s
  | .shl o => Sys2Proof.Machine.execShl o s
  | .shr o => Sys2Proof.Machine.execShr o s
  | .sar o => Sys2Proof.Machine.execSar o s
  | .rol o => Sys2Proof.Machine.execRol o s
  | .shli o => Sys2Proof.Machine.execShli o s
  | .shri o => Sys2Proof.Machine.execShri o s
  | .sari o => Sys2Proof.Machine.execSari o s
  | .clz o => Sys2Proof.Machine.execClz o s
  | .ctz o => Sys2Proof.Machine.execCtz o s
  | .popc o => Sys2Proof.Machine.execPopc o s
  | .bswap o => Sys2Proof.Machine.execBswap o s
  | .ext o => Sys2Proof.Machine.execExt o s
  | .dep o => Sys2Proof.Machine.execDep o s
  | .shadd o => Sys2Proof.Machine.execShadd o s
  | .cmp o => Sys2Proof.Machine.execCmp o s
  | .cmpi o => Sys2Proof.Machine.execCmpi o s
  | .cmpu o => Sys2Proof.Machine.execCmpu o s
  | .cmpui o => Sys2Proof.Machine.execCmpui o s
  | .pand o => Sys2Proof.Machine.execPand o s
  | .por o => Sys2Proof.Machine.execPor o s
  | .pxor o => Sys2Proof.Machine.execPxor o s
  | .pandn o => Sys2Proof.Machine.execPandn o s
  | .movsp o => Sys2Proof.Machine.execMovsp o s
  | .movps o => Sys2Proof.Machine.execMovps o s
  | .mfsr o => Sys2Proof.Machine.execMfsr o s
  | .mtsr o => Sys2Proof.Machine.execMtsr o s
  | .rdli o => Sys2Proof.Machine.execRdli o s
  | .mtag o => Sys2Proof.Machine.execMtag o s
  | .mfag o => Sys2Proof.Machine.execMfag o s
  | .mtbb o => Sys2Proof.Machine.execMtbb o s
  | .mfbb o => Sys2Proof.Machine.execMfbb o s
  | .br o => Sys2Proof.Machine.execBr o s
  | .call o => Sys2Proof.Machine.execCall o s
  | .jmpr o => Sys2Proof.Machine.execJmpr o s
  | .ret o => Sys2Proof.Machine.execRet o s
  | .loop o => Sys2Proof.Machine.execLoop o s
  | .brk o => Sys2Proof.Machine.execBrk o s
  | .trap o => Sys2Proof.Machine.execTrap o s
  | .lscale o => Sys2Proof.Machine.execLscale o s
  | .cbr o => Sys2Proof.Machine.execCbr o s
  | .cbrx o => Sys2Proof.Machine.execCbrx o s
  | .membw o => Sys2Proof.Machine.execMembw o s
  | .membr o => Sys2Proof.Machine.execMembr o s
  | .cbst o => Sys2Proof.Machine.execCbst o s
  | .bkt o => Sys2Proof.Machine.execBkt o s
  | .vAdd o => Sys2Proof.Machine.execVAdd o s
  | .vSub o => Sys2Proof.Machine.execVSub o s
  | .vMul o => Sys2Proof.Machine.execVMul o s
  | .vMin o => Sys2Proof.Machine.execVMin o s
  | .vMax o => Sys2Proof.Machine.execVMax o s
  | .vAbs o => Sys2Proof.Machine.execVAbs o s
  | .neg o => Sys2Proof.Machine.execNeg o s
  | .vAnd o => Sys2Proof.Machine.execVAnd o s
  | .vOr o => Sys2Proof.Machine.execVOr o s
  | .vXor o => Sys2Proof.Machine.execVXor o s
  | .vAndn o => Sys2Proof.Machine.execVAndn o s
  | .vShl o => Sys2Proof.Machine.execVShl o s
  | .vShr o => Sys2Proof.Machine.execVShr o s
  | .vSar o => Sys2Proof.Machine.execVSar o s
  | .vMulh o => Sys2Proof.Machine.execVMulh o s
  | .fma o => Sys2Proof.Machine.execFma o s
  | .fms o => Sys2Proof.Machine.execFms o s
  | .fnma o => Sys2Proof.Machine.execFnma o s
  | .rcp o => Sys2Proof.Machine.execRcp o s
  | .rsq o => Sys2Proof.Machine.execRsq o s
  | .exp2 o => Sys2Proof.Machine.execExp2 o s
  | .log2 o => Sys2Proof.Machine.execLog2 o s
  | .vcmp o => Sys2Proof.Machine.execVcmp o s
  | .mkand o => Sys2Proof.Machine.execMkand o s
  | .mkor o => Sys2Proof.Machine.execMkor o s
  | .mkxor o => Sys2Proof.Machine.execMkxor o s
  | .mknot o => Sys2Proof.Machine.execMknot o s
  | .selv o => Sys2Proof.Machine.execSelv o s
  | .cvt o => Sys2Proof.Machine.execCvt o s
  | .bcst o => Sys2Proof.Machine.execBcst o s
  | .perm o => Sys2Proof.Machine.execPerm o s
  | .movv o => Sys2Proof.Machine.execMovv o s
  | .iota o => Sys2Proof.Machine.execIota o s
  | .rsum o => Sys2Proof.Machine.execRsum o s
  | .rmax o => Sys2Proof.Machine.execRmax o s
  | .rmin o => Sys2Proof.Machine.execRmin o s
  | .part o => Sys2Proof.Machine.execPart o s
  | .gnorm o => Sys2Proof.Machine.execGnorm o s
  | .chb o => Sys2Proof.Machine.execChb o s
  | .che o => Sys2Proof.Machine.execChe o s
  | .oclm o => Sys2Proof.Machine.execOclm o s
  | .orel o => Sys2Proof.Machine.execOrel o s
  | .mms o => Sys2Proof.Machine.execMms o s
  | .mmz o => Sys2Proof.Machine.execMmz o s
  | .accrdV o => Sys2Proof.Machine.execAccrdV o s
  | .accrdSp o => Sys2Proof.Machine.execAccrdSp o s
  | .scgb o => Sys2Proof.Machine.execScgb o s
  | .cbld o => Sys2Proof.Machine.execCbld o s
  | .prkld o => Sys2Proof.Machine.execPrkld o s
  | .knld o => Sys2Proof.Machine.execKnld o s
  | .fchb o => Sys2Proof.Machine.execFchb o s
  | .spl o => Sys2Proof.Machine.execSpl o s
  | .spld o => Sys2Proof.Machine.execSpld o s
  | .gref o => Sys2Proof.Machine.execGref o s
  | .fdrn o => Sys2Proof.Machine.execFdrn o s
  | .ldB o => Sys2Proof.Machine.execLdB o s
  | .ldH o => Sys2Proof.Machine.execLdH o s
  | .ldW o => Sys2Proof.Machine.execLdW o s
  | .ldD o => Sys2Proof.Machine.execLdD o s
  | .ldBs o => Sys2Proof.Machine.execLdBs o s
  | .ldHs o => Sys2Proof.Machine.execLdHs o s
  | .ldWs o => Sys2Proof.Machine.execLdWs o s
  | .ldV o => Sys2Proof.Machine.execLdV o s
  | .ldg o => Sys2Proof.Machine.execLdg o s
  | .bbacq o => Sys2Proof.Machine.execBbacq o s
  | .ldb o => Sys2Proof.Machine.execLdb o s
  | .xlt o => Sys2Proof.Machine.execXlt o s
  | .topk o => Sys2Proof.Machine.execTopk o s
  | .popw o => Sys2Proof.Machine.execPopw o s
  | .aadd o => Sys2Proof.Machine.execAadd o s
  | .aand o => Sys2Proof.Machine.execAand o s
  | .aor o => Sys2Proof.Machine.execAor o s
  | .axor o => Sys2Proof.Machine.execAxor o s
  | .amin o => Sys2Proof.Machine.execAmin o s
  | .amax o => Sys2Proof.Machine.execAmax o s
  | .aswp o => Sys2Proof.Machine.execAswp o s
  | .acas o => Sys2Proof.Machine.execAcas o s
  | .afadd o => Sys2Proof.Machine.execAfadd o s
  | .stB o => Sys2Proof.Machine.execStB o s
  | .stH o => Sys2Proof.Machine.execStH o s
  | .stW o => Sys2Proof.Machine.execStW o s
  | .stD o => Sys2Proof.Machine.execStD o s
  | .stV o => Sys2Proof.Machine.execStV o s
  | .sts o => Sys2Proof.Machine.execSts o s
  | .bbrel o => Sys2Proof.Machine.execBbrel o s
  | .clrf o => Sys2Proof.Machine.execClrf o s
  | .cpy o => Sys2Proof.Machine.execCpy o s
  | .cpyt o => Sys2Proof.Machine.execCpyt o s
  | .cpyg o => Sys2Proof.Machine.execCpyg o s
  | .cpys o => Sys2Proof.Machine.execCpys o s
  | .cpyo o => Sys2Proof.Machine.execCpyo o s
  | .trn o => Sys2Proof.Machine.execTrn o s
  | .xch o => Sys2Proof.Machine.execXch o s
  | .xcmb o => Sys2Proof.Machine.execXcmb o s
  | .sib o => Sys2Proof.Machine.execSib o s
  | .gsh o => Sys2Proof.Machine.execGsh o s
  | .mcst o => Sys2Proof.Machine.execMcst o s
  | .splg o => Sys2Proof.Machine.execSplg o s
  | .twait o => Sys2Proof.Machine.execTwait o s
  | .tjoin o => Sys2Proof.Machine.execTjoin o s
  | .fence o => Sys2Proof.Machine.execFence o s
  | .drain o => Sys2Proof.Machine.execDrain o s
  | .flag o => Sys2Proof.Machine.execFlag o s
  | .bar o => Sys2Proof.Machine.execBar o s
  | .fmt o => Sys2Proof.Machine.execFmt o s
  | .pfnc o => Sys2Proof.Machine.execPfnc o s
  | .lwid o => Sys2Proof.Machine.execLwid o s
  | .launch o => Sys2Proof.Machine.execLaunch o s
  | .evwait o => Sys2Proof.Machine.execEvwait o s
  | .portSendsFlit d => Sys2Proof.Machine.execPortSendsFlit d s
  | .acknowledgementInterval d => Sys2Proof.Machine.execAcknowledgementInterval d s
  | .receiverRelock grp fibre => Sys2Proof.Machine.execReceiverRelock grp fibre s
  | .fullTrainingComplete d ok lanes => Sys2Proof.Machine.execFullTrainingComplete d ok lanes s
  | .directoryQuery q => Sys2Proof.Machine.execDirectoryQuery q s
  | .bundleDispatch => Sys2Proof.Machine.execBundleDispatch s
  | .realign => Sys2Proof.Machine.execRealign s
  | .matrixStepLands => Sys2Proof.Machine.execMatrixStepLands s
  | .filetStepLands => Sys2Proof.Machine.execFiletStepLands s
  | .lineFillRelease => Sys2Proof.Machine.execLineFillRelease s
  | .markSet => Sys2Proof.Machine.execMarkSet s
  | .asyncTrapEntry => Sys2Proof.Machine.execAsyncTrapEntry s
  | .timerInterrupt => Sys2Proof.Machine.execTimerInterrupt s
  | .watchdogExpiry => Sys2Proof.Machine.execWatchdogExpiry s
  | .machineCheck => Sys2Proof.Machine.execMachineCheck s
  | .contextSave => Sys2Proof.Machine.execContextSave s
  | .preemptionWithdrawal => Sys2Proof.Machine.execPreemptionWithdrawal s
  | .coreCompletion => Sys2Proof.Machine.execCoreCompletion s
  | .timedCopyStart => Sys2Proof.Machine.execTimedCopyStart s
  | .twaitRelease => Sys2Proof.Machine.execTwaitRelease s
  | .drainCompletion => Sys2Proof.Machine.execDrainCompletion s
  | .drainTimeout => Sys2Proof.Machine.execDrainTimeout s
  | .barrierCompletion => Sys2Proof.Machine.execBarrierCompletion s
  | .evwaitRelease => Sys2Proof.Machine.execEvwaitRelease s
  | .evwaitTimeout => Sys2Proof.Machine.execEvwaitTimeout s
  | .popwTimeout => Sys2Proof.Machine.execPopwTimeout s
  | .bbacqGrant => Sys2Proof.Machine.execBbacqGrant s
  | .flagWordWrite => Sys2Proof.Machine.execFlagWordWrite s
  | .collectiveTimeout => Sys2Proof.Machine.execCollectiveTimeout s
  | .migrationInterval => Sys2Proof.Machine.execMigrationInterval s
  | .classAgeing => Sys2Proof.Machine.execClassAgeing s
  | .getVersion => Sys2Proof.Machine.execGetVersion s
  | .getCapabilities => Sys2Proof.Machine.execGetCapabilities s
  | .getDigests => Sys2Proof.Machine.execGetDigests s
  | .nop => Sys2Proof.Machine.execNop s
  | .yield => Sys2Proof.Machine.execYield s
  | .eret => Sys2Proof.Machine.execEret s
  | .rwfl => Sys2Proof.Machine.execRwfl s
  | .mark => Sys2Proof.Machine.execMark s
  | .realn => Sys2Proof.Machine.execRealn s
  | .stepLastBeat => Sys2Proof.Machine.execStepLastBeat s

end Sys2Proof.Machine
end

