-- ==== Sys2Proof/Machine/Issue.lean ====
section
/-! DEFINITION. The issue of the trailing queues (07 R136 to R142), and the device's own choice of what moves next where the agenda leaves it
open (log 2). -/

namespace Sys2Proof.Machine

/-! ### Issue -/

/-- What an issue cycle comes to: the whole entry, a part of it that waits or traps, or nothing. -/
inductive Issued where
  | all (s : State)
  | part (s : State)
  | none
  deriving DecidableEq, Repr
/-- The fault that a later slot of an atomic's bundle would meet: the atomic performs only where every other slot issues without one (13 R241). The checks that
a home makes of its store are made with it (log 26). -/
def mateFault (e : QEntry) (xs : List QSlot) (s : State) : Option State :=
  xs.findSome? fun x =>
    let u := withSlot s e x
    match exec x.instr u with
    | .next t =>
      if t.f.cur.ctl = .trapped || t.f.rbFaults != s.f.rbFaults then some t
      else ((t.m.reqs.drop s.m.reqs.length).findSome? (reqFault t)).map fun (c, a) => raiseR u c 0 a
    | _ => none
/-- The slots of the head, one after another. `began` says that an earlier one has acted. -/
def issueSlots (e : QEntry) : List QSlot → Bool → State → Issued
  | [], _, s => .all s
  | x :: xs, began, s =>
    match exec x.instr (withSlot s e x) with
    | .next t =>
      match t.f.cur.ctl with
      | .done =>
        (match if x.q && isAtomic x.instr then mateFault e xs s else none with
         | some u => .part u
         | none => issueSlots e xs (began || (x.q && x.instr != .nop)) (retireSlot t x.k))
      | .stall => if began then .part s else .none
      | _ => .part t
    | _ => .none
/-- The requests of a bundle whose atomic has performed in a scratchpad have passed their checks with it: no later one of them can fault (13 R241). -/
def vetNew (s t : State) (e : QEntry) : State :=
  let new := t.m.reqs.drop s.m.reqs.length
  if e.slots.any (fun x => x.q && isAtomic x.instr) && !new.isEmpty && !(new.any fun r => match r.op with | .atomic .. => true | _ => false) then
    let u := new.foldl (fun u r => (pagesOf u r.runs).foldl meetPage u) t
    { u with m := { u.m with reqs := u.m.reqs.map fun r => if r.src = .core && r.bsn = e.bsn then { r with vetted := true } else r } }
  else t
/-- The head of a queue in one issue cycle. Results of its vector queue land first (04 R89). -/
def issueHead (s : State) (q : Queue) : Issued :=
  match getQ s q with
  | [] => .none
  | e :: _ =>
    if headStopped s q e then .none
    else
      let t := match q with | .va => landDue s .va e.bsn | .vb => landDue s .vb e.bsn | _ => s
      match issueSlots e e.slots false t with
      | .all u => .all (setQ (vetNew t u e) q ((getQ u q).drop 1))
      | r => r
/-- An attempt that finds its head waiting as before. -/
def stillWaits (s t : State) : Bool := t.f.cur.ctl = .wait && t.f.waits = s.f.waits && t.f.rbFaults = s.f.rbFaults
/-- An attempt of the matrix queue that waits while its array stands still: only the wait is kept, and a fault that it has recorded. -/
def keepWait (s t : State) : State := if t.f.cur.ctl = .wait then { s with f := { s.f with waits := t.f.waits, rbFaults := t.f.rbFaults } } else t
/-- A queue issues its next entry. A cycle of the matrix queue in which something issues, or in which its count runs, is a matrix issue
cycle (16 R288, R289). Every bundle of the queue takes a cycle of its own (07 R135): in the program of 17 R313 K6 issues no earlier than matrix cycle m + 75, where the
table says m + 73 (DEDUCED, log 18). -/
def issueQueue (s : State) (q : Queue) : Out :=
  let mxOnly (s : State) : Out := when (q = .mx && mxCounts s && !s.f.steps.isEmpty) "BUNDLE_DISPATCH" (mxCycle s)
  match issueHead (if q = .mx then mxCycle s else s) q with
  | .all t => .next t
  | .part t => if stillWaits s t then mxOnly s else .next (if q = .mx && !mxCounts s then keepWait s t else t)
  | .none => mxOnly s

/-! ### Turns (log 2) -/

/-- What a package held in reset still answers (27 R429), and the reset that ends it. -/
def heldInstr (i : Instr) : Bool :=
  match i with
  | .mgrd .. => true | .getVersion => true | .getCapabilities => true | .getDigests => true
  | .negotiateAlgorithms .. => true | .getCertificate .. => true | .challenge _ => true | .getMeasurements _ => true | .coldReset _ => true
  | _ => false
/-- Slot instructions act only in a bundle. -/
def isSlotInstr (i : Instr) : Bool := i = .nop || (opcodeOf i).isSome
def runTurn (t : Turn) (s : State) : Out :=
  match t with
  | .front => exec .bundleDispatch s
  | .queue q => issueQueue s q
  | .event i => if isSlotInstr i then notEnabled "NOP" else exec i s
  | .message h i => if heldInstr i then exec i { s with h := { s.h with spdm := h } } else notEnabled "SPDM"
  | .idle => .next s
/-- What the links within a package do, also while it is held: the anchor relays over them (00 R5). -/
def heldLink (i : Instr) : Bool :=
  match i with
  | .portSendsFlit d => d < 3 | .controlFlitSend d => d < 3 | .flitReceived d _ => d < 3 | .acknowledgementInterval d => d < 3
  | .ackReceived d _ _ => d < 3 | .nakReplay d _ _ => d < 3 | .ackTimeout d => d < 3
  | _ => false
def heldAnswers (t : Turn) : Bool :=
  match t with
  | .event i => heldInstr i || heldLink i
  | .message _ i => heldInstr i
  | .idle => true
  | _ => false
/-- Messages that come to a package held in reset and are not answered (27 R429). -/
def unanswered (t : Turn) : Bool :=
  match t with
  | .event (.cqwr ..) => true | .event (.mgwr ..) => true | .event (.migcClear ..) => true | .event (.pwrctlWrite ..) => true | .event (.warmReset _) => true
  | .event (.qpBind ..) => true | .event (.wopen ..) => true | .event (.wclose ..) => true | .event (.rdmaWrite ..) => true | .event (.ingev ..) => true
  | .event (.nvrd ..) => true | .event (.htreg ..) => true
  | _ => false
/-- The transitions that the device tries in order when the agenda is empty: expiries, what is due, and releases; then the engines, memory and
the fabric; the command processor; and the core. -/
def dueTurns : List Instr :=
  [.watchdogExpiry, .collectiveTimeout, .drainTimeout, .evwaitTimeout, .popwTimeout, .migrationInterval,
   .interlockedWriteLands 0, .twaitRelease, .drainCompletion, .evwaitRelease, .barrierCompletion, .lineFillRelease, .bbacqGrant]
def engineTurns (s : State) : List Instr :=
  List.append ((List.range s.e.cmds.length).map .tokenCompletion) (.timedCopyStart :: s.e.cmds.map fun c => .engineCommandStart c.eng)
def homeTurns (s : State) : List Instr :=
  ((List.range s.m.reqs.length).flatMap fun k => [Instr.homeAccess k, .homeLookup k (trueHome s ((s.m.reqs[k]?.map Req.page).getD 0))]) ++
    (List.range (engActs s).length).map fun j => .homeAccess (s.m.reqs.length + j)
def flagTurns (s : State) : List Instr :=
  List.append (s.l.sentFlags.map .flagWordArrives) (.flagWordWrite ::
    (((s.f :: s.c.contexts.map Context.f).flatMap fun f => f.unacked.map Unacked.id) ++ s.c.runs.flatMap Run.unacked).map .remoteWriteAck)
def selectTurns (s : State) : List Instr :=
  if (heads s).isEmpty && s.c.runs.isEmpty then []
  else (List.range 9).map fun n => .recordSelection ⟨s.l.coord, [], (freeClusters s).take n, true, none⟩
def pageTurn (p : Page) : Option Instr :=
  match p.st with
  | .resident => none
  | .moving .. => some (.pageMoveComplete p.ia)
  | .offloading .. => some (.offloadComplete p.ia)
  | .offloaded .. => none
  | .returning .. => some (.returnComplete p.ia true)
def coreTurns : List Instr :=
  [.asyncTrapEntry, .markSet, .realign, .coreCompletion, .contextSave, .classAgeing, .kernelCompletion 0]
def ownTurns (s : State) : List Turn :=
  List.append ([dueTurns, engineTurns s, homeTurns s, flagTurns s, selectTurns s, s.m.pages.filterMap pageTurn, coreTurns].flatten.map .event)
    (List.append (s.h.inbox.map relayedTurn) [.queue .va, .queue .vb, .queue .mx, .queue .mem, .queue .cp, .queue .sy, .front])
/-- The first of some turns that the state allows; else the cycle passes. -/
def firstTurn (s : State) : List Turn → State
  | [] => s
  | t :: ts => match runTurn t s with | .next u => u | _ => firstTurn s ts
/-- DRAW is taken anew every 10 µs (27 R431): a free value (log 23), by which a throttling episode starts or ends. -/
def meterDraw (s : State) : State := if s.tick.toNat % 20000 != 0 then s else draws s (Config.drawAt s.tick)
/-- The cycle ends: TICK rises, and heads that have become eligible are stamped (26 R402). -/
def endCycle (s : State) : State := stampHeads (meterDraw { s with tick := s.tick + 1 })
/-- A transition, with the end of its cycle. -/
def cycle (o : Out) : Out := match o with | .next t => .next (endCycle t) | r => r

/-! ### A program from outside (log 5) -/

/-- Code is placed as a running kernel of version 3 with every register as it stands, and the next turn is the front end's. -/
def loadProgram (s : State) (code : List Byte) : State :=
  { s with
    kn := { s.kn with ver := 3, code := code, codeBase := s.f.pc }
    f := { s.f with fe := .run }
    h := { s.h with power := .ready }
    agenda := [.front] }

end Sys2Proof.Machine
end

