-- ==== Sys2Proof/Machine/Step.lean ====
section
/-! DEFINITION. One step of the machine: the turn that the agenda names, or the device's own choice (log 2), in one cycle (log 3); and the placing
of one instruction for the next step (log 5). -/

namespace Sys2Proof.Machine

/-- One step. -/
def step (s : State) : Host.Outcome State Fault Refusal :=
  match s.agenda with
  | t :: ts =>
    if s.h.power = .held && !heldAnswers t then (if unanswered t then .next { s with agenda := ts } else .fault .heldInReset)
    else cycle (runTurn t { s with agenda := ts })
  | [] => if s.h.power = .held then .next (firstTurn s (s.h.inbox.map relayedTurn)) else cycle (.next (firstTurn s (ownTurns s)))

/-- A kernel of version 3 that consists of the bundle of these bits runs on the core, and the next step dispatches it. -/
def State.withFetchWord (s : State) (nbits w : Nat) : State :=
  loadProgram s (bytesLE (w % 2 ^ nbits) 64)

end Sys2Proof.Machine
end

