-- ==== Sys2Proof/Safety.lean ====
section
/-! DEFINITION. What the statements speak of: the frames of instructions (what stays as it was), the invariant that every step keeps, and the
results that the spec's tables give, said without the model's own operations. -/

namespace Sys2Proof.Machine

/-! ### Frames -/

/-- Every byte of memory reads as before. -/
def KeepsMemory (s t : State) : Prop := ∀ k, readByte t.m.cells k = readByte s.m.cells k
/-- Every byte of memory outside n bytes from a key reads as before. -/
def KeepsMemoryBut (s t : State) (key n : Nat) : Prop :=
  ∀ k, k < key ∨ key + n ≤ k → readByte t.m.cells k = readByte s.m.cells k
/-- A scalar register has been written, S0 discarding it, and nothing else has changed but the journal of 05 R121. -/
def WroteScalar (s t : State) (d : Nat) (v : W64) : Prop :=
  (∀ n, sreg t n = if n = d ∧ n ≠ 0 then v else sreg s n) ∧
  t = { s with r := { s.r with s := t.r.s }, f := { s.f with jr := t.f.jr } }
/-- Predicates now read as given, and nothing else has changed but the journal. -/
def WrotePreds (s t : State) (v : Nat → Bool) : Prop :=
  (∀ n, n < 64 → preg t n = v n) ∧
  t = { s with r := { s.r with p := t.r.p }, f := { s.f with jr := t.f.jr } }
/-- One predicate has been written, P0 discarding it. -/
def WrotePred (s t : State) (d : Nat) (b : Bool) : Prop :=
  WrotePreds s t fun n => if n = d ∧ n ≠ 0 then b else preg s n
/-- Nothing has changed but what the executing slot asks of the front end or answers to its queue. -/
def OnlyCur (s t : State) : Prop := t = { s with f := { s.f with cur := t.f.cur } }

/-! ### The invariant -/

/-- A scratchpad image in its canonical form. -/
def SpadWf (c : List Host.Cell) : Prop := mapWf (0 : Byte) c = true ∧ ∀ p ∈ c, p.1 < spadSize
/-- At most six levels stand in the loop stack, and in what a rollback puts in its place (03 R75). -/
def LoopsOk (r : Regs) (f : Seq) : Prop := r.loops.length ≤ 6 ∧ ∀ l, f.jr.loops = some l → l.length ≤ 6
/-- Memory, and the scratchpad of every saved context, are in their one canonical form, and no loop stack holds more than six levels. -/
def Inv (s : State) : Prop :=
  s.m.wf = true ∧ LoopsOk s.r s.f ∧ ∀ c ∈ s.c.contexts, SpadWf c.spad ∧ LoopsOk c.r c.f

/-! ### Scalar results (03 R65 to R68) -/

/-- A result of exact integer arithmetic on the sources as signed numbers: 64 bits, or under `.i32` 32 bits, sign-extended. -/
def signedWord (o : RRR) (f : Nat → Int → Int → Int) (a b : W64) : W64 :=
  if o.ef = 8 then (BitVec.ofInt 32 (f 32 (a.truncate 32).toInt (b.truncate 32).toInt)).signExtend 64
  else BitVec.ofInt 64 (f 64 a.toInt b.toInt)
/-- The same on the sources as unsigned numbers. -/
def unsignedWord (o : RRR) (f : Nat → Nat → Nat → Nat) (a b : W64) : W64 :=
  if o.ef = 8 then (BitVec.ofNat 32 (f 32 (a.truncate 32).toNat (b.truncate 32).toNat)).signExtend 64
  else BitVec.ofNat 64 (f 64 a.toNat b.toNat)
/-- The operating width of an ALU instruction. -/
def aluWidth (o : RRR) : Nat := if o.ef = 8 then 32 else 64
/-- Bit i of a result of the operating width: above it, its sign. -/
def aluBit (o : RRR) (f : Nat → Bool) (i : Nat) : Bool := f (min i (aluWidth o - 1))

/-- The effects that 03 R65 gives on signed numbers. -/
def signedOps : List ((RRR → Instr) × (RRR → Nat → Int → Int → Int)) := [
  (.add, fun _ _ a b => a + b), (.sub, fun _ _ a b => a - b), (.mul, fun _ _ a b => a * b),
  (.mulh, fun _ w a b => a * b / 2 ^ w), (.min, fun _ _ a b => min a b), (.max, fun _ _ a b => max a b),
  (.abs, fun _ _ a _ => |a|), (.shadd, fun o _ a b => a * 2 ^ o.xop + b)]
/-- The effects that 03 R65 gives on unsigned numbers. -/
def unsignedOps : List ((RRR → Instr) × (Nat → Nat → Nat → Nat)) := [
  (.minu, fun _ a b => min a b), (.maxu, fun _ a b => max a b),
  (.popc, fun w a _ => (List.range w).countP a.testBit),
  (.clz, fun w a _ => w - a.size), (.ctz, fun w a _ => if a = 0 then w else padicValNat 2 a)]
/-- Division with the special cases of 03 R66. -/
def divisionOps : List ((RRR → Instr) × (Nat → Int → Int → Int)) := [
  (.div, fun _ a b => if b = 0 then -1 else a.tdiv b), (.rem, fun _ a b => if b = 0 then a else a - b * a.tdiv b)]
def udivisionOps : List ((RRR → Instr) × (Nat → Nat → Nat → Nat)) := [
  (.divu, fun w a b => if b = 0 then 2 ^ w - 1 else a / b), (.remu, fun _ a b => if b = 0 then a else a - b * (a / b))]
/-- The bitwise instructions, bit by bit. -/
def logicOps : List ((RRR → Instr) × (Bool → Bool → Bool)) := [
  (.and, fun a b => a && b), (.or, fun a b => a || b), (.xor, fun a b => a != b), (.andn, fun a b => a && !b)]
/-- The shifts of a w-bit source by n, bit by bit. -/
def shiftOps : List ((RRR → Instr) × (Nat → (Nat → Bool) → Nat → Nat → Bool)) := [
  (.shl, fun _ a n i => decide (n ≤ i) && a (i - n)),
  (.shr, fun w a n i => decide (i + n < w) && a (i + n)),
  (.sar, fun w a n i => if i + n < w then a (i + n) else a (w - 1)),
  (.rol, fun w a n i => a ((i + w - n) % w))]
/-- The immediate forms on 64-bit words (03 R67). -/
def immediateOps : List ((RRI → Instr) × (W64 → BitVec 32 → W64)) := [
  (.movhi, fun a i => (a &&& 0xFFFFFFFF#64) ||| BitVec.ofNat 64 (i.toNat * 2 ^ 32)),
  (.addi, fun a i => BitVec.ofInt 64 (a.toInt + i.toInt)), (.muli, fun a i => BitVec.ofInt 64 (a.toInt * i.toInt)),
  (.andi, fun a i => a &&& BitVec.ofNat 64 i.toNat), (.ori, fun a i => a ||| BitVec.ofNat 64 i.toNat),
  (.xori, fun a i => a ^^^ BitVec.ofNat 64 i.toNat),
  (.shli, fun a i => BitVec.ofNat 64 (a.toNat * 2 ^ (i.toNat % 64))), (.shri, fun a i => BitVec.ofNat 64 (a.toNat / 2 ^ (i.toNat % 64))),
  (.sari, fun a i => BitVec.ofInt 64 (a.toInt / 2 ^ (i.toNat % 64)))]
/-- The condition codes of 03 R68 on the sources as numbers; bits are tested in the two word orders alike. -/
def condHolds (cond : Nat) (signed : Bool) (a b : W64) : Prop :=
  let x : Int := if signed then a.toInt else a.toNat
  let y : Int := if signed then b.toInt else b.toNat
  match cond with
  | 0 => x = y | 1 => x ≠ y | 2 => x < y | 3 => x ≤ y | 4 => x > y | 5 => x ≥ y
  | 6 => a.getLsbD (b.toNat % 64) = false | _ => a.getLsbD (b.toNat % 64) = true
/-- What a compare leaves in PD1 and PD2, from what they held, q and e (01 R25). -/
def compareResult (mode : Nat) (q e : Bool) (old : Bool × Bool) : Bool × Bool :=
  match mode with
  | 0 => if q then (e, !e) else old
  | 1 => (q && e, q && !e)
  | 2 => if q && !e then (false, true) else old
  | _ => if q && e then (true, false) else old
/-- The predicate logic of 03 R69. -/
def predicateOps : List ((RRR → Instr) × (Bool → Bool → Bool)) := [
  (.pand, fun a b => a && b), (.por, fun a b => a || b), (.pxor, fun a b => a != b), (.pandn, fun a b => a && !b)]

/-! ### Registers of the scalar slot -/

/-- The special registers of 02 R42 as MFSR reads them; LCOORD and the range registers aside. -/
def srRead : List (Nat × (State → Nat)) := [
  (0x000, fun s => s.tick.toNat), (0x001, fun s => s.x.coreid.toNat), (0x003, fun s => s.x.kndim), (0x008, fun s => s.x.fmtr.toNat),
  (0x009, fun s => s.x.perm.toNat), (0x00A, fun s => s.x.stky.toNat), (0x010, fun s => s.x.lsscl.toNat),
  (0x011, fun s => s.x.lscnt.toNat), (0x012, fun s => s.x.lscfg.toNat), (0x018, fun s => s.x.wdog.toNat), (0x019, fun s => s.x.cbto.toNat),
  (0x020, fun s => s.x.subm.toNat), (0x021, fun s => s.x.dimmap.toNat), (0x028, fun s => s.x.tcause.toNat),
  (0x029, fun s => if s.kn.trapen then leNat (readBytes s.m.cells 0xF4008 8) else 0), (0x02A, fun s => s.x.tvec.toNat), (0x02B, fun s => s.x.tfb.toNat)]
/-- What a writable special register keeps of a value, from what it held (02 R42, 03 R70); TEPC aside, which the trap area holds. -/
def srKeeps : List (Nat × (Nat → Nat → Nat)) := [
  (0x009, fun _ v => v % 4), (0x00A, fun old v => old &&& (15 - v % 16)), (0x010, fun _ v => min v 254), (0x011, fun _ v => v % 2 ^ 32),
  (0x012, fun _ v => v % 2 ^ 32 + min (v / 2 ^ 32 % 256) 254 * 2 ^ 32 + min (v / 2 ^ 40 % 256) 254 * 2 ^ 40), (0x018, fun _ v => v),
  (0x019, fun _ v => v % 2 ^ 32), (0x020, fun _ v => v % 2 ^ 15), (0x021, fun _ v => v % 2 ^ 60), (0x02A, fun _ v => v)]
  ++ (List.range 16).flatMap fun j => [(0x040 + j, fun _ v => v), (0x050 + j, fun _ v => v), (0x060 + j, fun _ v => v % 2 ^ 52)]
/-- The registers that kernel mode may not read (RO-P), may not write (RW-P), and those whose writes are ignored (RO). -/
def srHidden : List Nat := [0x028, 0x02B]
def srPrivileged : List Nat := [0x009, 0x018, 0x019, 0x020, 0x021, 0x028, 0x029, 0x02A, 0x02B] ++ (List.range 48).map (0x040 + ·)
def srReadOnly : List Nat := [0x000, 0x001, 0x002, 0x003, 0x008]
/-- Every special register. -/
def srAll : List Nat := srReadOnly ++ srPrivileged ++ [0x00A, 0x010, 0x011, 0x012]
/-- The loop stack has been written, and nothing else has changed but the journal. -/
def WroteLoops (s t : State) (l : List Loop) : Prop :=
  t = { s with r := { s.r with loops := l }, f := { s.f with jr := t.f.jr } }
/-- A generator has been written, and nothing else has changed but the journal. -/
def WroteGen (s t : State) (d : Nat) (g : Gen) : Prop :=
  (∀ n, gen t n = if n = d then g else gen s n) ∧ t = { s with r := { s.r with ag := t.r.ag }, f := { s.f with jr := t.f.jr } }
/-- A bobbin has been written, and nothing else has changed. -/
def WroteBobbin (s t : State) (d : Nat) (b : Bobbin) : Prop :=
  (∀ n, bobbin t n = if n = d then b else bobbin s n) ∧ t = { s with r := { s.r with bb := t.r.bb } }
/-- An address with its six low bits cleared. -/
def bundleAt (x : W64) : W64 := BitVec.ofNat 64 (x.toNat / 64 * 64)
/-- The place of a bundle some bundles away. -/
def bundleOff (pc : W64) (n : Int) : W64 := BitVec.ofInt 64 (pc.toNat + 64 * n)
/-- The end check of 03 R77 at a bundle: the loop stack before and after it, and the next bundle. -/
inductive EndCheck (pc : W64) : List Loop → List Loop → W64 → Prop
  | straight (ls) : (∀ l, ls.head? = some l → l.active = false ∨ l.stop ≠ pc) → EndCheck pc ls ls (pc + 64)
  | back (l ls) : l.active = true → l.stop = pc → l.index.toNat + 1 < l.count.toNat →
      EndCheck pc (l :: ls) ({ l with index := l.index + 1 } :: ls) (bundleAt l.start)
  | leave (l ls ls' n) : l.active = true → l.stop = pc → l.count.toNat ≤ l.index.toNat + 1 → EndCheck pc ls ls' n → EndCheck pc (l :: ls) ls' n
/-- The exponent, the count, LSMIN and the skip flag that LSCALE leaves (03 R84). -/
def lscaleResult (emax emin n e0 cnt : Nat) (ov : Bool) : Nat × Nat × Bool :=
  let lo := emin
  let hi := max emax lo
  let e := min (max e0 lo) hi
  if ov then (if lo < e then e - 1 else e, 0, decide (e ≤ lo))
  else if n = 0 then (e, min (cnt + 1) (2 ^ 32 - 1), false)
  else if min (cnt + 1) n = n ∧ e < hi then (e + 1, 0, false)
  else (e, min (cnt + 1) n, false)

/-! ### The slot instructions by layout (01 R20) -/

/-- Layout RRR. -/
def rrrForms : List (RRR → Instr) := [.add, .sub, .mul, .mulh, .div, .divu, .rem, .remu, .min, .max, .minu, .maxu, .sel, .abs, .and, .or, .xor,
  .andn, .shl, .shr, .sar, .rol, .clz, .ctz, .popc, .bswap, .ext, .dep, .shadd, .pand, .por, .pxor, .pandn, .movsp, .movps, .rdli, .mtag, .mfag,
  .mtbb, .mfbb, .jmpr, .ret, .lscale, .cbrx, .membw, .membr, .cbst, .bkt, .vAdd, .vSub, .vMul, .vMin, .vMax, .vAbs, .neg, .vAnd, .vOr, .vXor,
  .vAndn, .vShl, .vShr, .vSar, .vMulh, .fma, .fms, .fnma, .rcp, .rsq, .exp2, .log2, .vcmp, .mkand, .mkor, .mkxor, .mknot, .selv, .cvt, .bcst,
  .perm, .movv, .iota, .rsum, .rmax, .rmin, .part, .gnorm, .chb, .che, .oclm, .orel, .mms, .mmz, .accrdV, .scgb, .fchb, .spl, .spld, .fdrn]
/-- Layout RRI. -/
def rriForms : List (RRI → Instr) := [.movhi, .addi, .muli, .andi, .ori, .xori, .shli, .shri, .sari, .mfsr, .mtsr]
/-- Layout RI. -/
def riForms : List (RI → Instr) := [.movi, .brk, .trap]
/-- Layout BRN, CBR aside: its qualifier is always true (23 R375). -/
def brnForms : List (BRN → Instr) := [.br, .call, .loop]
/-- Layout MEM. -/
def memForms : List (MEM → Instr) := [.ldB, .ldH, .ldW, .ldD, .ldBs, .ldHs, .ldWs, .ldV, .ldg, .bbacq, .xlt, .topk, .popw, .aadd, .aand, .aor,
  .axor, .amin, .amax, .aswp, .acas, .afadd, .stB, .stH, .stW, .stD, .stV, .sts, .bbrel, .clrf]
/-- Layout SYN. -/
def synForms : List (SYN → Instr) := [.fence, .bar, .fmt, .lwid, .evwait]
/-- Layout ENG: the engine instructions. -/
def engForms : List (ENG → Instr) := [.accrdSp, .cbld, .prkld, .knld, .gref, .ldb, .cpy, .cpyt, .cpyg, .cpys, .cpyo, .trn, .xch, .xcmb, .sib,
  .gsh, .mcst, .splg]
/-- Layout SYE: the sync-slot instructions with tokens. -/
def syeForms : List (SYE → Instr) := [.twait, .tjoin, .drain, .flag, .pfnc, .launch]
/-- A token's error records once a production of it has issued: later consumers see them no more (09 R167). -/
def clearedBy (es : List TokErr) (prod : Nat) : List TokErr := es.map fun e => if e.next = none then { e with next := some prod } else e
/-- The executing slot has issued a command: its token is pending, under the slot's number, until it completes (09 R167). -/
def IssuedCmd (s t : State) (kp : BitVec 6) (ks : List Nat) (p : Cmd → Prop) : Prop :=
  ∃ c : Cmd, t.e.cmds = s.e.cmds ++ [c] ∧ c.kp = kp.toNat ∧ c.prod = 8 * s.f.cur.bsn + s.f.cur.k ∧ c.bsn = s.f.cur.bsn ∧ c.k = s.f.cur.k ∧
    c.needs = (ks.map fun k => (k, 8 * s.f.cur.bsn)) ∧ p c ∧ t.e.rx = s.e.rx ∧ t.e.sent = s.e.sent ∧
    ∀ n, token t n = if n = kp.toNat then ⟨(token s n).pend ++ [c.prod], clearedBy (token s n).errs c.prod⟩ else token s n
/-- Registers, special registers and memory as before, but for tokens. -/
def OnlyTokens (s t : State) : Prop :=
  t = { s with r := { s.r with tok := t.r.tok }, e := { s.e with cmds := t.e.cmds, nextId := t.e.nextId } }

/-! ### Collective groups (23, 25) -/

/-- A reduction that this core's contribution does not complete: another core of this die's part of the group has not contributed; and every
contribution for the number so far names the same operation (25 R388). GCORE names this core, as MEMBW leaves it. -/
def StillWaits (s : State) (g : Nat) (any : Bool) : Prop :=
  let x := s.f.groups.get g
  x.gcore.getLsbD s.x.coreid.toNat = true ∧ (∃ c, c < 64 ∧ x.gcore.getLsbD c = true ∧ c ≠ s.x.coreid.toNat ∧ ∀ p ∈ s.l.partials, p.id = groupId s g → p.n = x.seq →
    ∀ q ∈ p.cores, q.1.toNat ≠ c) ∧
  ∀ p ∈ s.l.partials, p.id = groupId s g → p.n = x.seq → p.any = any
/-- This core has contributed v for its group's present number, and nothing else has changed. -/
def HasContributed (s t : State) (g : Nat) (any v : Bool) : Prop :=
  let x := s.f.groups.get g
  t.f.groups.get g = { x with any := any, owed := false, pred := v, wait := true, contributed := true, since := if x.stopped = 0 then s.tick else 0 } ∧
    (∀ h, h < 4 → h ≠ g → t.f.groups.get h = s.f.groups.get h) ∧
    (∃ p ∈ t.l.partials, p.id = groupId s g ∧ p.n = x.seq ∧ p.any = any ∧ (s.x.coreid, v) ∈ p.cores) ∧
    t = { s with f := { s.f with groups := t.f.groups }, l := { s.l with partials := t.l.partials } }

/-! ### The trap frame (08 R153, R154) -/

/-- A field of the frame of n bytes. -/
def fieldAt (s : State) (off n : Nat) : Nat := leNat (readBytes s.m.cells (0xF4000 + off) n)
/-- The k-th latch record of the frame is r. -/
def FrameHolds (s : State) (k : Nat) (r : LatchRec) : Prop :=
  let d := fieldAt s (0x140 + 8 * k) 8
  d / 2 ^ 12 = r.left % 16 ∧ d / 2 ^ 8 % 4 = (match r.q with | .va => 0 | .vb => 1) ∧
  (match r.dst with
   | .v n => d / 2 ^ 10 % 4 = 0 ∧ d % 2 ^ 8 = n % 256 ∧ fieldAt s (0x1000 + 2048 * k) 2048 = r.val.toNat ∧
      ∀ j, j < 4096 → (fieldAt s (0x9000 + 512 * k) 512).testBit j = r.wm.getLsbD (4 * j)
   | .mk n => d / 2 ^ 10 % 4 = 1 ∧ d % 2 ^ 8 = n % 256 ∧ fieldAt s (0x1000 + 2048 * k) 64 = r.val.toNat % 2 ^ 512 ∧
      ∀ j, j < 4096 → (fieldAt s (0x9000 + 512 * k) 512).testBit j = (decide (j < 512) && r.wm.getLsbD j))
/-- What trap entry writes for a cause (08 R153, 25 R395), from the state s as it stands at the entry; nothing else in memory changes. -/
def FrameOf (s t : State) (i : TrapInfo) (rbk : Bool) (tepc : W64) (recs : List LatchRec) : Prop :=
  fieldAt t 0x00 8 = i.detail % 2 ^ 16 * 2 ^ 48 + (if rbk then 2 ^ 15 else 0) + (if i.rw.isSome then 2 ^ 14 else 0) + i.queue % 8 * 2 ^ 11 +
    i.slot % 8 * 2 ^ 8 + i.cause % 64 ∧
  t.x.tcause.toNat = fieldAt t 0x00 8 ∧ fieldAt t 0x08 8 = tepc.toNat ∧ fieldAt t 0x10 8 = i.faddr.toNat ∧ fieldAt t 0x18 8 = i.fbundle.toNat ∧
  fieldAt t 0x20 4 = frameBsn i % 2 ^ 32 ∧ fieldAt t 0x25 1 = recs.length % 256 ∧
  (∀ j, j < 8 → ((fieldAt t 0x24 1).testBit j = true ↔ j < 6 ∧ ∃ l, s.r.loops[j]? = some l ∧ l.active = true)) ∧
  fieldAt t 0x28 4 = s.x.fmtr.toNat ∧ fieldAt t 0x2C 4 = s.x.pend.length % 2 ^ 32 ∧ fieldAt t 0x30 8 = s.f.mark.pc.toNat ∧
  (∀ j l, j < 6 → s.r.loops[j]? = some l → l.active = true → fieldAt t (0x80 + 32 * j) 8 = l.count.toNat ∧
    fieldAt t (0x88 + 32 * j) 8 = l.index.toNat ∧ fieldAt t (0x90 + 32 * j) 8 = l.start.toNat ∧ fieldAt t (0x98 + 32 * j) 8 = l.stop.toNat) ∧
  (∀ j, j < 6 → (∀ l, s.r.loops[j]? = some l → l.active = false) → fieldAt t (0x80 + 32 * j) 32 = 0) ∧
  (∀ k r, k < 16 → recs[k]? = some r → FrameHolds t k r) ∧
  (∀ k, k < 16 → recs.length ≤ k → fieldAt t (0x140 + 8 * k) 8 = 0 ∧ fieldAt t (0x1000 + 2048 * k) 2048 = 0 ∧ fieldAt t (0x9000 + 512 * k) 512 = 0) ∧
  (∀ g, g < 4 → fieldAt t (0x1C0 + 16 * g) 8 = (if s.kn.members.getLsbD g
      then groupFlags (s.f.groups.get g) + (s.f.groups.get g).gdim.toNat * 2 ^ 8 + (s.f.groups.get g).seq.toNat * 2 ^ 32 else 0) ∧
    fieldAt t (0x1C8 + 16 * g) 8 = (if s.kn.members.getLsbD g then (s.f.groups.get g).gcore.toNat else 0)) ∧
  (∀ k p, k < 4 → s.x.pend[k]? = some p →
    fieldAt t (0x200 + 4 * k) 4 = 2 ^ 31 + p.left % 4 * 2 ^ 25 + p.en.toNat * 2 ^ 20 + p.val.toNat) ∧
  (∀ k, s.x.pend.length ≤ k → k < 4 → fieldAt t (0x200 + 4 * k) 4 = 0) ∧ (∀ k, 0xF4210 ≤ k ∧ k < 0xF5000 ∨ 0xFF000 ≤ k ∧ k < 0x100000 → readByte t.m.cells k = 0) ∧
  ∀ k, k < 0xF4000 ∨ 0x100000 ≤ k → readByte t.m.cells k = readByte s.m.cells k
/-- Handler mode, at TVEC, with nothing under way. -/
def AtHandler (s t : State) : Prop :=
  t.f.handler = true ∧ t.f.pc = bundleAt s.x.tvec ∧ t.f.fe = .run ∧ t.f.grp = [] ∧ t.f.latches = [] ∧ t.x.pend = []

/-! ### The vector slots (04) -/

/-- The i-th w bits of a wide register. -/
def laneAt {n : Nat} (v : BitVec n) (w i : Nat) : BitVec w := v.extractLsb' (w * i) w
/-- The format of a vector instruction: EF, or FMTR's vector format for EF 0xF (01 R21). -/
def vecFormat (o : RRR) (s : State) : Nat := if o.ef = 15 then s.f.cur.fmtr.toNat % 16 else o.ef
/-- No write since the last realign can mix with what this slot reads: of its own queue, or interlocked and of a bundle that is not behind it (07 R138,
R139). -/
def NoMix (s : State) : Prop := ∀ u ∈ s.f.unord, u.q = queueOf s.f.cur.k ∨ (u.q = .mem ∨ u.q = .mx) ∧ u.bsn ≤ s.f.cur.bsn
/-- The instruction puts one result in flight, of which the rest is said of. -/
def PutsInFlight (i : Instr) (s : State) (p : Latch → Prop) : Prop := ∃ t l, exec i s = .next t ∧ t.f.latches = s.f.latches ++ [l] ∧ p l
/-- An instruction under an element mask writes the elements that the mask governs (04 R86). -/
def WritesGoverned (o : RRR) (s : State) (wm : Vec) : Prop :=
  ∀ j, j < 16384 → wm.getLsbD j = (!o.me || (mreg s o.mkn).getLsbD (j / 32))
/-- The vector instructions, with the latency for their format and whether they write a mask register (04 R87, 23 R368). -/
def vectorOps : List ((RRR → Instr) × (Nat → Nat) × Bool) :=
  ([.vAdd, .vSub, .vMul, .vMin, .vMax] : List (RRR → Instr)).map (·, fun f => if f = 8 then 2 else 4, false) ++
  ([.vAbs, .neg, .vAnd, .vOr, .vXor, .vAndn, .vShl, .vShr, .vSar, .vMulh, .selv, .bcst, .movv, .iota] : List (RRR → Instr)).map (·, fun _ => 2, false) ++
  ([.fma, .fms, .fnma] : List (RRR → Instr)).map (·, fun _ => 4, false) ++
  ([.rcp, .rsq, .exp2, .log2, .gnorm] : List (RRR → Instr)).map (·, fun _ => 8, false) ++
  ([.cvt, .perm] : List (RRR → Instr)).map (·, fun _ => 3, false) ++
  ([.rsum, .rmax, .rmin, .part] : List (RRR → Instr)).map (·, fun _ => 6, false) ++
  ([.vcmp, .mkand, .mkor, .mkxor, .mknot] : List (RRR → Instr)).map (·, fun _ => 2, true)
/-- The INT32 results of 04 R95, element by element. -/
def vectorIntOps : List ((RRR → Instr) × (RRR → BitVec 32 → BitVec 32 → BitVec 32)) :=
  let sat (o : RRR) (x : Int) : BitVec 32 := BitVec.ofInt 32 (if o.sat then max (-2 ^ 31) (min (2 ^ 31 - 1) x) else x)
  [(.vAdd, fun o a b => sat o (a.toInt + b.toInt)), (.vSub, fun o a b => sat o (a.toInt - b.toInt)),
   (.vMin, fun o a b => if o.xop = 1 then (if a.toNat ≤ b.toNat then a else b) else if a.toInt ≤ b.toInt then a else b),
   (.vMax, fun o a b => if o.xop = 1 then (if a.toNat ≤ b.toNat then b else a) else if a.toInt ≤ b.toInt then b else a),
   (.vAbs, fun _ a _ => BitVec.ofInt 32 |a.toInt|), (.neg, fun _ a _ => BitVec.ofInt 32 (-a.toInt)),
   (.vAnd, fun _ a b => a &&& b), (.vOr, fun _ a b => a ||| b), (.vXor, fun _ a b => a ^^^ b), (.vAndn, fun _ a b => a &&& ~~~b),
   (.vShl, fun _ a b => BitVec.ofNat 32 (a.toNat * 2 ^ (b.toNat % 32))), (.vShr, fun _ a b => BitVec.ofNat 32 (a.toNat / 2 ^ (b.toNat % 32))),
   (.vSar, fun _ a b => BitVec.ofInt 32 (a.toInt / 2 ^ (b.toNat % 32))),
   (.vMulh, fun o a b => if o.xop = 1 then BitVec.ofNat 32 (a.toNat * b.toNat / 2 ^ 32) else BitVec.ofInt 32 (a.toInt * b.toInt / 2 ^ 32))]
/-- MUL wraps, with or without SAT's refusal (04 R88). -/
def vectorIntAll : List ((RRR → Instr) × (RRR → BitVec 32 → BitVec 32 → BitVec 32)) :=
  vectorIntOps ++ [(.vMul, fun _ a b => a * b)]

/-! ### Floating point, as rational numbers (04 R91 to R93, 15 R277) -/

/-- The value of a code that is neither an infinity nor a NaN. -/
def ratOf (f : Fmt) (x : Nat) : ℚ :=
  let mag := x % 2 ^ (f.w - 1)
  let v : ℚ := if mag / 2 ^ f.m = 0 then (mag : ℚ) * 2 ^ f.sub else ((mag % 2 ^ f.m + 2 ^ f.m : Nat) : ℚ) * 2 ^ (f.sub + (mag / 2 ^ f.m : Nat) - 1)
  if x / 2 ^ (f.w - 1) % 2 = 1 then -v else v
def IsFinite (f : Fmt) (x : Nat) : Prop := x < 2 ^ f.w ∧ x % 2 ^ (f.w - 1) ≤ f.maxCode
def IsNan (f : Fmt) (x : Nat) : Prop := f.maxCode + 1 < x % 2 ^ (f.w - 1)
/-- A code of the infinity of a sign. -/
def infOf (f : Fmt) (neg : Bool) : Nat := f.maxCode + 1 + (if neg then 2 ^ (f.w - 1) else 0)
/-- c is the rounding of x in a mode: 0 to nearest with ties to an even code, 1 toward zero, 2 up, 3 down; an overflow goes by the mode. -/
def RoundsTo (f : Fmt) (rm : Nat) (x : ℚ) (c : Nat) : Prop :=
  let top := ratOf f f.maxCode
  let half := (top - ratOf f (f.maxCode - 1)) / 2
  let fin := IsFinite f c
  let v := ratOf f c
  match rm with
  | 0 => if |x| < top + half then fin ∧ ∀ y, IsFinite f y → |v - x| < |ratOf f y - x| ∨ ratOf f y = v ∨ |v - x| = |ratOf f y - x| ∧ c % 2 = 0
    else c = infOf f (decide (x < 0))
  | 1 => fin ∧ |v| ≤ |x| ∧ 0 ≤ v * x ∧ ∀ y, IsFinite f y → |ratOf f y| ≤ |x| → |ratOf f y| ≤ |v|
  | 2 => if x ≤ top then fin ∧ x ≤ v ∨ fin ∧ x < -top ∧ v = -top else c = infOf f false
  | _ => if -top ≤ x then fin ∧ v ≤ x ∨ fin ∧ top < x ∧ v = top else c = infOf f true
/-- No other code lies between x and its rounding up or down. -/
def RoundsTight (f : Fmt) (rm : Nat) (x : ℚ) (c : Nat) : Prop :=
  (rm = 2 → ∀ y, IsFinite f y → x ≤ ratOf f y → IsFinite f c → ratOf f c ≤ ratOf f y) ∧
  (rm = 3 → ∀ y, IsFinite f y → ratOf f y ≤ x → IsFinite f c → ratOf f y ≤ ratOf f c)
/-- Order of codes that are not NaNs: by value, with −0 below +0. -/
def orderKey (f : Fmt) (x : Nat) : Int :=
  if x / 2 ^ (f.w - 1) % 2 = 1 then -1 - ((x % 2 ^ (f.w - 1) : Nat) : Int) else ((x % 2 ^ (f.w - 1) : Nat) : Int)
/-- The rational number that an exact value stands for; 0 for an infinity or a NaN. -/
def numRat : Num → ℚ
  | .fin s m e => (if s then -1 else 1) * (m : ℚ) * 2 ^ e
  | _ => 0
/-- A code of a format that is an infinity, and one that is a NaN (15 R272, R273). -/
def IsInfinite (f : Fmt) (x : Nat) : Prop := f.infCode = some (x % 2 ^ (f.w - 1))
def NotANumber (f : Fmt) (x : Nat) : Prop := f.maxCode < x % 2 ^ (f.w - 1) ∧ ¬IsInfinite f x
/-- The sign bit of a code. -/
def signBit (f : Fmt) (x : Nat) : Bool := decide (x / 2 ^ (f.w - 1) % 2 = 1)
/-- What a code of an element format stands for: a number with its sign, an infinity or a NaN (15 R272 to R276). -/
def Stands (ef x : Nat) (z : Num) : Prop :=
  if isIntFmt ef then ∃ s m e, z = .fin s m e ∧ numRat z = (intOf (widthOf ef) x : ℚ) ∧ (s = true ↔ intOf (widthOf ef) x < 0)
  else (NotANumber (fmtOf ef) x → z = .nan) ∧ (IsInfinite (fmtOf ef) x → z = .inf (signBit (fmtOf ef) x)) ∧
    (x % 2 ^ ((fmtOf ef).w - 1) ≤ (fmtOf ef).maxCode → ∃ m e, z = .fin (signBit (fmtOf ef) x) m e ∧ numRat z = ratOf (fmtOf ef) x)
/-- z is the exact product of x and y: an infinity times zero is invalid, and the sign is the exclusive-or of the signs (04 R91); a zero product of integers has none (15 R276). -/
def ProductIs (int : Bool) (x y z : Num) : Prop :=
  (x = .nan ∨ y = .nan ∨ (∃ s, x = .inf s) ∧ y.isZero = true ∨ (∃ s, y = .inf s) ∧ x.isZero = true → z = .nan) ∧
  (x ≠ .nan → y ≠ .nan → (∃ s, x = .inf s) ∧ y.isZero = false ∨ (∃ s, y = .inf s) ∧ x.isZero = false → z = .inf (x.isNeg != y.isNeg)) ∧
  ∀ s m e t n g, x = .fin s m e → y = .fin t n g → ∃ k l, numRat z = numRat x * numRat y ∧
    z = .fin (if int && decide (numRat x * numRat y = 0) then false else s != t) k l
/-- z is the exact sum of x and y (04 R91): a zero sum of opposite signs is +0, or −0 where `down`. -/
def SumIs (down : Bool) (x y z : Num) : Prop :=
  (x = .nan ∨ y = .nan ∨ (∃ s, x = .inf s ∧ y = .inf !s) → z = .nan) ∧
  (∀ s, x = .inf s → y ≠ .nan → y ≠ .inf !s → z = .inf s) ∧ (∀ s, y = .inf s → x ≠ .nan → x ≠ .inf !s → z = .inf s) ∧
  ∀ s m e t n g, x = .fin s m e → y = .fin t n g → ∃ r k l, z = .fin r k l ∧ numRat z = numRat x + numRat y ∧
    (numRat x + numRat y = 0 → r = if s = t then s else down)
/-- z is the exact sum of some terms (15 R286): an exact zero is +0 unless every term is −0. -/
def TotalIs (xs : List Num) (z : Num) : Prop :=
  (Num.nan ∈ xs ∨ Num.inf false ∈ xs ∧ Num.inf true ∈ xs → z = .nan) ∧
  (Num.nan ∉ xs → ∀ s, Num.inf s ∈ xs → Num.inf (!s) ∉ xs → z = .inf s) ∧
  ((∀ x ∈ xs, ∃ s m e, x = .fin s m e) → ∃ r k l, z = .fin r k l ∧ numRat z = (xs.map numRat).sum ∧
    ((xs.map numRat).sum = 0 → (r = true ↔ xs ≠ [] ∧ ∀ x ∈ xs, x.isNeg = true)))
/-- An exact value rounded once to a format with infinities (04 R91). -/
def RoundedIs (f : Fmt) (rm : Nat) (z : Num) (c : Nat) : Prop :=
  match z with
  | .nan => c = f.nanCode
  | .inf s => c = infOf f s
  | .fin s _ _ => RoundsTo f rm (numRat z) c ∧ RoundsTight f rm (numRat z) c ∧ signBit f c = s
/-- The exact results of the arithmetic instructions, special values among them (04 R91, R92). -/
def floatForms : List ((RRR → Instr) × (Bool → Num → Num → Num → Num → Prop)) := [
  (.vAdd, fun d a b _ z => SumIs d a b z), (.vSub, fun d a b _ z => SumIs d a b.neg z), (.vMul, fun _ a b _ z => ProductIs false a b z),
  (.fma, fun d a b c z => ∃ p, ProductIs false a b p ∧ SumIs d p c z), (.fms, fun d a b c z => ∃ p, ProductIs false a b p ∧ SumIs d p c.neg z),
  (.fnma, fun d a b c z => ∃ p, ProductIs false a b p ∧ SumIs d p.neg c z)]
/-- One addition of FP32 codes (04 R101). -/
def AddIs (rm x y c : Nat) : Prop := ∃ a b z, Stands 0 x a ∧ Stands 0 y b ∧ SumIs (rm = 3) a b z ∧ RoundedIs fp32 rm z c

/-! ### Conversion (04 R100) -/

/-- c is the rounding of x in a mode to a number of the format, the largest magnitudes standing for what lies above them. -/
def RoundsIn (f : Fmt) (rm : Nat) (x : ℚ) (c : Nat) : Prop :=
  let v := ratOf f c
  IsFinite f c ∧
  match rm with
  | 0 => ∀ y, IsFinite f y → |v - x| < |ratOf f y - x| ∨ ratOf f y = v ∨ |v - x| = |ratOf f y - x| ∧ c % 2 = 0
  | 1 => |v| ≤ |x| ∧ 0 ≤ v * x ∧ ∀ y, IsFinite f y → |ratOf f y| ≤ |x| → |ratOf f y| ≤ |v|
  | 2 => x ≤ v ∧ ∀ y, IsFinite f y → x ≤ ratOf f y → v ≤ ratOf f y
  | _ => v ≤ x ∧ ∀ y, IsFinite f y → ratOf f y ≤ x → ratOf f y ≤ v
/-- The magnitude of x after rounding, were the exponents unbounded, exceeds the largest number of the format. -/
def OutOfRange (f : Fmt) (rm : Nat) (x : ℚ) : Prop :=
  let top := ratOf f f.maxCode
  let step := top - ratOf f (f.maxCode - 1)
  match rm with
  | 0 => top + step / 2 < |x| ∨ |x| = top + step / 2 ∧ f.maxCode % 2 = 1
  | 1 => top + step ≤ |x|
  | 2 => if x < 0 then top + step ≤ |x| else top < x
  | _ => if x < 0 then x < -top else top + step ≤ x
/-- An integer that is the rounding of x in a mode. -/
def RoundsToInt (rm : Nat) (x : ℚ) (i : Int) : Prop :=
  match rm with
  | 0 => |x - i| < 1 / 2 ∨ |x - i| = 1 / 2 ∧ i % 2 = 0
  | 1 => i = if x < 0 then ⌈x⌉ else ⌊x⌋
  | 2 => i = ⌈x⌉
  | _ => i = ⌊x⌋
/-- c is the conversion of an exact value to the format df, in the cases of the table of 04 R100. -/
def ConvertsTo (df rm : Nat) (sat srcInt : Bool) (z : Num) (c : Nat) : Prop :=
  let f := fmtOf df
  let signed (s : Bool) (m : Nat) : Nat := m + if s then 2 ^ (f.w - 1) else 0
  let w := widthOf df
  let lo : Int := -2 ^ (w - 1)
  let hi : Int := 2 ^ (w - 1) - 1
  let code (i : Int) : Prop := (c : Int) = i % 2 ^ w
  if isIntFmt df then
    match z with
    | .nan => c = 0
    | .inf s => code (if sat && !s then hi else lo)
    | .fin .. => ∃ i, RoundsToInt rm (numRat z) i ∧
      code (if lo ≤ i ∧ i ≤ hi then i else if sat then max lo (min hi i) else if srcInt then i else lo)
  else
    match z with
    | .nan => c = f.nanCode
    | .inf s => c = signed s (if sat then f.maxCode else f.infCode.getD 0x7F)
    | .fin s _ _ => (¬OutOfRange f rm (numRat z) → RoundsIn f rm (numRat z) c ∧ signBit f c = s) ∧
      (OutOfRange f rm (numRat z) → c = signed s (if sat then f.maxCode else
        match f.infCode with | some k => if rm = 0 ∨ rm = 2 ∧ s = false ∨ rm = 3 ∧ s = true then k else f.maxCode | none => 0x7F))

/-! ### RCP, RSQ, EXP2, LOG2 and GNORM (04 R94, 23 R369) -/

/-- c is exact where x is representable, and else one of the two FP32 numbers next to it. -/
def FaithfulTo (x : ℚ) (c : Nat) : Prop :=
  IsFinite fp32 c ∧ (ratOf fp32 c ≤ x → ∀ y, IsFinite fp32 y → ratOf fp32 y ≤ x → ratOf fp32 y ≤ ratOf fp32 c) ∧
  (x ≤ ratOf fp32 c → ∀ y, IsFinite fp32 y → x ≤ ratOf fp32 y → ratOf fp32 c ≤ ratOf fp32 y)
/-- The same for 1/√x, x positive. -/
def FaithfulRoot (x : ℚ) (c : Nat) : Prop :=
  IsFinite fp32 c ∧ 0 < ratOf fp32 c ∧ (ratOf fp32 c ^ 2 * x ≤ 1 → ∀ y, IsFinite fp32 y → 0 < ratOf fp32 y → ratOf fp32 y ^ 2 * x ≤ 1 → ratOf fp32 y ≤ ratOf fp32 c) ∧
  (1 ≤ ratOf fp32 c ^ 2 * x → ∀ y, IsFinite fp32 y → 0 < ratOf fp32 y → 1 ≤ ratOf fp32 y ^ 2 * x → ratOf fp32 c ≤ ratOf fp32 y)
/-- c lies within 2 ulp of a real number, whose ulp is that of its own binade, and 2^−149 below the normal range (log 8). -/
def WithinTwoUlp (x : ℝ) (c : Nat) : Prop :=
  IsFinite fp32 c ∧ ∀ e : Int, (2 : ℝ) ^ e ≤ |x| → |x| < (2 : ℝ) ^ (e + 1) → |(ratOf fp32 c : ℝ) - x| ≤ 2 * (2 : ℝ) ^ (max (e - 23) (-149))
/-- The four functions on FP32 codes: the special operands of the table, the exact results and the bounds. -/
def rcpRule (x c : Nat) : Prop :=
  (IsNan fp32 x → c = 0x7FC00000) ∧ (IsInfinite fp32 x → c = if signBit fp32 x then 2 ^ 31 else 0) ∧
  (IsFinite fp32 x → |ratOf fp32 x| ≤ 1 / 2 ^ 128 → c = infOf fp32 (signBit fp32 x)) ∧
  (IsFinite fp32 x → 1 / 2 ^ 128 < |ratOf fp32 x| → FaithfulTo (1 / ratOf fp32 x) c)
def rsqRule (x c : Nat) : Prop :=
  (IsNan fp32 x → c = 0x7FC00000) ∧ (IsInfinite fp32 x → c = if signBit fp32 x then 0x7FC00000 else 0) ∧
  (IsFinite fp32 x → ratOf fp32 x = 0 → c = infOf fp32 (signBit fp32 x)) ∧ (IsFinite fp32 x → ratOf fp32 x < 0 → c = 0x7FC00000) ∧
  (IsFinite fp32 x → 0 < ratOf fp32 x → FaithfulRoot (ratOf fp32 x) c)
def exp2Rule (x c : Nat) : Prop :=
  let v := ratOf fp32 x
  (IsNan fp32 x → c = 0x7FC00000) ∧ (IsInfinite fp32 x → c = if signBit fp32 x then 0 else 0x7F800000) ∧
  (IsFinite fp32 x → (128 ≤ v → c = 0x7F800000) ∧ (v ≤ -150 → c = 0) ∧
    (-150 < v → v < 128 → (∀ i : Int, v = i → IsFinite fp32 c ∧ ratOf fp32 c = 2 ^ i) ∧ WithinTwoUlp ((2 : ℝ) ^ (v : ℝ)) c))
def log2Rule (x c : Nat) : Prop :=
  let v := ratOf fp32 x
  (IsNan fp32 x → c = 0x7FC00000) ∧ (IsInfinite fp32 x → c = if signBit fp32 x then 0x7FC00000 else 0x7F800000) ∧
  (IsFinite fp32 x → (v = 0 → c = 0xFF800000) ∧ (v < 0 → c = 0x7FC00000) ∧ (v = 1 → c = 0) ∧
    (0 < v → (∀ i : Int, v = 2 ^ i → IsFinite fp32 c ∧ ratOf fp32 c = i) ∧
      (1 / 2 ≤ v → v ≤ 2 → IsFinite fp32 c ∧ |(ratOf fp32 c : ℝ) - Real.logb 2 v| ≤ 1 / 2 ^ 22) ∧
      (v < 1 / 2 ∨ 2 < v → WithinTwoUlp (Real.logb 2 v) c)))
def functionOps : List ((RRR → Instr) × (Nat → Nat → Prop)) := [(.rcp, rcpRule), (.rsq, rsqRule), (.exp2, exp2Rule), (.log2, log2Rule)]
/-- The elements r of a group of k with elements x (23 R369), and the sticky bits that it sets: NANSEEN and GZERO. -/
def GroupIs (rm k : Nat) (x r : Nat → Nat) (nan zero : Prop) : Prop :=
  let xs := (List.range k).map x
  let even (i : Nat) : Prop := RoundsTo fp32 rm (1 / k) (r i) ∧ RoundsTight fp32 rm (1 / k) (r i)
  ∃ (zs : List Num) (z : Num) (s : Nat), List.Forall₂ (Stands 0) xs zs ∧ TotalIs zs z ∧ RoundedIs fp32 0 z s ∧
    (nan ↔ ¬IsFinite fp32 s) ∧ (zero ↔ IsFinite fp32 s ∧ |ratOf fp32 s| < 1 / 2 ^ 126) ∧ ∀ i, i < k →
      (¬IsFinite fp32 s ∨ |ratOf fp32 s| < 1 / 2 ^ 126 → even i) ∧
      (IsFinite fp32 s → 1 / 2 ^ 126 ≤ |ratOf fp32 s| → RoundsTo fp32 rm (ratOf fp32 (x i) / ratOf fp32 s) (r i) ∧
        RoundsTight fp32 rm (ratOf fp32 (x i) / ratOf fp32 s) (r i) ∧ signBit fp32 (r i) = (signBit fp32 (x i) != signBit fp32 s))
/-- The rule of MIN and MAX (04 R93): `less` orders the places of two codes, and a NaN yields to the other operand. -/
def PickIs (f : Fmt) (less : Int → Int → Prop) (x y r : Nat) : Prop :=
  (IsNan f x → IsNan f y → r = f.nanCode) ∧ (IsNan f x → ¬IsNan f y → r = y) ∧ (¬IsNan f x → IsNan f y → r = x) ∧
  (¬IsNan f x → ¬IsNan f y → (r = x ∨ r = y) ∧ ¬less (orderKey f x) (orderKey f r) ∧ ¬less (orderKey f y) (orderKey f r))
/-- The two lane formats of vector arithmetic: FP32 and BF16. -/
def vecFmts : List (Nat × Fmt) := [(0, fp32), (1, bf16)]
/-- The node of a pairwise tree over leaves x: n levels up, the i-th (04 R101). -/
def pairTree (op : Nat → Nat → Nat) (x : Nat → Nat) : Nat → Nat → Nat
  | 0, i => x i
  | n + 1, i => op (pairTree op x n (2 * i)) (pairTree op x n (2 * i + 1))
/-- The conditions of VCMP (04 R97) on INT32 elements, and on FP32 elements as numbers. -/
def vcmpInt (xop : Nat) (a b : BitVec 32) : Prop :=
  match xop with
  | 0 => a = b | 1 => a ≠ b | 2 => a.toInt < b.toInt | 3 => a.toInt ≤ b.toInt | 4 => a.toInt > b.toInt | 5 => a.toInt ≥ b.toInt
  | 6 => a.toNat < b.toNat | _ => a.toNat ≥ b.toNat
/-- The place of an FP32 code on the extended line, −0 at +0. -/
def orderKey0 (x : Nat) : Int := if x / 2 ^ 31 % 2 = 1 then -((x % 2 ^ 31 : Nat) : Int) else ((x % 2 ^ 31 : Nat) : Int)
def vcmpFloat (xop : Nat) (a b : Nat) : Prop :=
  let un := IsNan fp32 a ∨ IsNan fp32 b
  let x := orderKey0 a
  let y := orderKey0 b
  match xop with
  | 0 => ¬un ∧ x = y | 1 => un ∨ x ≠ y | 2 => ¬un ∧ x < y | 3 => ¬un ∧ x ≤ y | 4 => ¬un ∧ x > y | 5 => ¬un ∧ x ≥ y
  | 6 => un | _ => ¬un

/-! ### The matrix slot (16, 20) -/

/-- The number that a code of an element format stands for (15 R272 to R276). -/
def elemRat (ef x : Nat) : ℚ := if isIntFmt ef then (intOf (widthOf ef) x : ℚ) else ratOf (fmtOf ef) x
def elemFinite (ef x : Nat) : Prop := isIntFmt ef = true ∨ IsFinite (fmtOf ef) x
/-- Element k of row p of a slot (16 R294). -/
def slotElem (o : OpImg) (ef p k : Nat) : Nat := (o.extractLsb' (1024 * p + widthOf ef * k) (widthOf ef)).toNat
/-- Element (r, c) of an accumulator. -/
def accElem (a : AccImg) (r c : Nat) : Nat := (laneAt a 32 (64 * r + c)).toNat
/-- The operand pairs of 16 R293 without CB2, with the K step. -/
def stepPairs : List (Nat × Nat × Nat) := [(1, 1, 64), (1, 2, 64), (2, 2, 64), (2, 1, 64), (3, 3, 128), (3, 4, 128), (4, 4, 128), (4, 3, 128),
  (6, 6, 128), (5, 5, 256)]
/-- A tensor scale (15 R285): 1.0 for S0, else the rounded product of the two FP32 numbers of the register. -/
def TensorIs (n : Nat) (b : W64) (t : Nat) : Prop :=
  if n = 0 then t = 0x3F800000
  else ∃ x y z, Stands 0 (b.toNat % 2 ^ 32) x ∧ Stands 0 (b.toNat / 2 ^ 32) y ∧ ProductIs false x y z ∧ RoundedIs fp32 0 z t
/-- A drained element (15 R285): the element times the tensor scale, exactly, and converted. -/
def DrainIs (df rm : Nat) (sat : Bool) (el t c : Nat) : Prop :=
  ∃ x y z, Stands 0 el x ∧ Stands 0 t y ∧ ProductIs false x y z ∧ ConvertsTo df rm sat false z c
/-- Element e of row p of a CB2 operand (15 R280, R281). -/
def cb2Num (cb : BitVec 2048) (o : OpImg) (p e : Nat) : Num :=
  let idx := slotElem o 1 p (e / 8)
  let word := (laneAt cb 32 (idx / 4 % 64)).toNat
  .fin (idx.testBit (8 + e % 8)) ((2 * (word / 16 ^ (e % 8) % 8) + idx / 2 % 2) * (1 + idx % 2)) (-1)
/-- A block scale by its format code (15 R279): 1.0, E8M0, UE4M3. -/
def ScaleIs (code x : Nat) (z : Num) : Prop :=
  match code with
  | 0 => ∃ m e, z = .fin false m e ∧ numRat z = 1
  | 1 => (x = 255 → z = .nan) ∧ (x < 255 → ∃ m e, z = .fin false m e ∧ numRat z = 2 ^ ((x : Int) - 127))
  | _ => (127 ≤ x → z = .nan) ∧ (x < 127 → ∃ m e, z = .fin false m e ∧ numRat z = ratOf e4m3 x)
/-- c is one output of a step of k elements in sub-blocks of g (15 R285, R286): every product, scale and sum exact, one rounding. -/
def StepOutIs (int : Bool) (k g : Nat) (a b sa sb : Nat → Num) (c : Nat) : Prop :=
  ∃ (prod tot scl term : Nat → Num) (z : Num), (∀ e, e < k → ProductIs int (a e) (b e) (prod e)) ∧
    (∀ q, q < k / g → TotalIs ((List.range g).map fun e => prod (g * q + e)) (tot q) ∧ ProductIs false (sa (g * q)) (sb (g * q)) (scl q) ∧
      ProductIs false (tot q) (scl q) (term q)) ∧
    TotalIs ((List.range (k / g)).map term) z ∧ RoundedIs fp32 0 z c
/-- The code of element e of row p of an operand: from its slot, or in memory where it is read transposed, a row of it beginning at each address (16 R294, R296). -/
def operandCode (s : State) (t : Bool) (n : BitVec 8) (ef : Nat) (vas : List W64) (p e : Nat) : Nat :=
  if t then leNat (readBytes s.m.cells ((vas.getD e 0).toNat + widthOf ef / 8 * p) (widthOf ef / 8)) else slotElem (oslot s n.toNat) ef p e
/-- The scale byte of element e of row p, in its rectangle (15 R283, 16 R299). -/
def scaleByte (s : State) (b : Binding) (p e : Nat) : Nat :=
  (readByte s.m.cells (b.base + BitVec.ofNat 64 b.n * b.s3.signExtend 64 + BitVec.ofNat 64 (p / b.r) * b.s2.signExtend 64 + BitVec.ofNat 64 (e / b.c)).toNat).toNat

/-! ### Filet cells as rational numbers (20 R339, 22 R356 to R361) -/

/-- The nearest multiple of 2^−26, a tie to the even one. -/
def quant26 (x : ℚ) : ℚ :=
  let n := ⌊x * 2 ^ 26⌋
  let r := x * 2 ^ 26 - n
  (if r < 1 / 2 ∨ r = 1 / 2 ∧ n % 2 = 0 then (n : ℚ) else n + 1) / 2 ^ 26
/-- The four basis values at t, and their derivatives per unit of u. -/
def splineBasis (t : ℚ) (q : Nat) : ℚ :=
  let b0 := quant26 ((1 - t) ^ 3 / 6)
  let b3 := quant26 (t ^ 3 / 6)
  let b2 := if t < 1 / 2 then quant26 ((-3 * t ^ 3 + 3 * t ^ 2 + 3 * t + 1) / 6) else 1 - b0 - quant26 ((3 * t ^ 3 - 6 * t ^ 2 + 4) / 6) - b3
  match q with | 0 => b0 | 1 => 1 - b0 - b2 - b3 | 2 => b2 | _ => b3
def splineSlope (t : ℚ) (q : Nat) : ℚ :=
  let d0 := quant26 (-(1 - t) ^ 2 / 2)
  let d3 := quant26 (t ^ 2 / 2)
  let d2 := if t < 1 / 2 then quant26 ((-3 * t ^ 2 + 2 * t + 1) / 2) else -(d0 + quant26 ((3 * t ^ 2 - 4 * t) / 2) + d3)
  match q with | 0 => d0 | 1 => -(d0 + d2 + d3) | 2 => d2 | _ => d3
/-- The sum over the four coefficients in use at a position y of the grid. -/
def splineAt (basis : ℚ → Nat → ℚ) (g : Nat) (y : ℚ) (c : Nat → ℚ) : ℚ :=
  let m := min ⌊y⌋.toNat (g - 1)
  ((List.range 4).map fun q => c (m + q) * basis (y - m) q).sum
/-- u is the grid position of an input, a code of FP32 after one rounding. -/
def GridIs (k : BitVec 128) (x u : Nat) : Prop :=
  (IsFinite fp32 x → RoundsTo fp32 0 ((ratOf fp32 x - ratOf fp32 (knot0 k)) / ratOf fp32 (knotH k)) u) ∧ (IsInfinite fp32 x → u = x)
/-- v is the value of a cell, or its derivative per unit of u, for an input and finite coefficients, inside the grid or as the knot set clamps. -/
def CellIs (der : Bool) (k : BitVec 128) (x : Nat) (c : Nat → ℚ) (v : ℚ) : Prop :=
  let g := knotG k
  let val (y : ℚ) : ℚ := splineAt splineBasis g y c
  let slope (y : ℚ) : ℚ := splineAt splineSlope g y c
  IsNan fp32 x ∧ knotClamp k = 2 ∧ v = 0 ∨ ¬IsNan fp32 x ∧ ∃ u, GridIs k x u ∧
    let y := ratOf fp32 u
    (IsFinite fp32 u ∧ 0 ≤ y ∧ y ≤ g ∧ (v = if der then slope y else val y) ∨
    ∃ b : ℚ, (b = 0 ∧ (IsFinite fp32 u ∧ y < 0 ∨ u = infOf fp32 true) ∨ b = g ∧ (IsFinite fp32 u ∧ g < y ∨ u = infOf fp32 false)) ∧
      match knotClamp k with
      | 0 => v = if der then 0 else val b
      | 1 => if der then v = slope b else IsFinite fp32 u ∧ v = val b + slope b * (y - b)
      | 2 => v = 0
      | _ => False)

/-! ### What engines make of bytes (09 R180, 20 R345, 22 R362) -/

/-- c is the combination of two lanes by an operation of XCMB. Its maxima and minima follow 04 R93 where an operand is a NaN too (log 18). -/
def LaneIs (op a b c : Nat) : Prop :=
  let add (ef : Nat) (x y z : Nat) : Prop := ∃ p q r, Stands ef x p ∧ Stands ef y q ∧ SumIs false p q r ∧ RoundedIs (fmtOf ef) 0 r z
  let halves (f : Nat → Nat → Nat → Prop) : Prop := f (a % 2 ^ 16) (b % 2 ^ 16) (c % 2 ^ 16) ∧ f (a / 2 ^ 16) (b / 2 ^ 16) (c / 2 ^ 16)
  match op with
  | 0 => add 0 a b c
  | 1 => PickIs fp32 (· > ·) a b c
  | 2 => PickIs fp32 (· < ·) a b c
  | 3 => halves (add 1)
  | 4 => halves (PickIs bf16 (· > ·))
  | 5 => halves (PickIs bf16 (· < ·))
  | _ => c = (a + b) % 2 ^ 32
/-- What a receive writes: the received stream, or for XCMB the local one, combined in each lane that the partner sent. -/
def CombinedIs (op : Option Nat) (loc rem out : List Byte) : Prop :=
  let lane (l : List Byte) (i : Nat) : Nat := leNat ((l.drop (4 * i)).take 4)
  match op with
  | none => out = rem
  | some k => out.length = loc.length ∧ ∀ i, 4 * i + 4 ≤ loc.length →
      if 4 * i + 4 ≤ rem.length then LaneIs k (lane loc i) (lane rem i) (lane out i) else lane out i = lane loc i
/-- d is coefficient r of a refined cell, from the BF16 coefficients of the old one: the exact sum, rounded once. -/
def RefinedIs (c : Nat → Nat) (r d : Nat) : Prop :=
  let q := r / 2
  let terms : List (Nat × ℚ) := if r % 2 = 1 then [(c q, 1 / 8), (c (q + 1), 6 / 8), (c (q + 2), 1 / 8)] else [(c q, 1 / 2), (c (q + 1), 1 / 2)]
  ((∀ x ∈ terms, IsFinite bf16 x.1) → RoundsTo bf16 0 (terms.map fun x => ratOf bf16 x.1 * x.2).sum d) ∧
  ((∃ x ∈ terms, IsNan bf16 x.1) → d = 0x7FC0)

/-! ### The rewrite window (19) -/

/-- The conditions that a template sets on its pair alone, u having joined first (19 R328). -/
def PairFits (s : State) (template : Nat) (u t : Member) : Prop :=
  let rows (m : Member) (j : Nat) : List W64 := (m.2.gens[j]?.map Prod.snd).getD []
  match template with
  | 1 => ∃ (o : ENG) (p : RRR), u.2.instr = .trn o ∧ (t.2.instr = .mms p ∨ t.2.instr = .mmz p) ∧ o.f 10 5 = 63 ∧
      8 * 2 ^ o.f 12 11 = widthOf (stepFmts p t.1.fmtr).1 ∧ (∃ g ∈ t.2.gens, g.2 ≠ [] ∧ ∀ a ∈ g.2, a ∈ rows u 1) ∧
      ∃ e ∈ s.f.qs.sy, u.1.bsn < e.bsn ∧ e.bsn < t.1.bsn ∧ ∃ x ∈ e.slots, x.q = true ∧
        ∃ y : SYE, (x.instr = .twait y ∨ x.instr = .drain y) ∧ o.kp.toNat ∈ y.consumed
  | 2 => ∃ (o : ENG) (b : Nat), u.2.instr = .accrdSp o ∧ (if o.f 7 4 = 15 then u.1.fmtr.toNat / 2 ^ 12 % 16 else o.f 7 4) = 0 ∧
      rows u 0 = ((List.range 64).map fun r => BitVec.ofNat 64 (ownWin s + 0x180000 + 16384 * b + 256 * r)) ∧
      ((∃ p : RRR, t.2.instr = .accrdV p ∧ p.a.toNat = b) ∨ ∃ p : ENG, t.2.instr = .accrdSp p ∧ p.f 20 18 = b ∧ rows t 0 ≠ [])
  | 3 => ∃ o p : ENG, u.2.instr = .trn o ∧ t.2.instr = .trn p ∧ rows u 0 ≠ [] ∧ o.f 12 11 = p.f 12 11 ∧ o.f 10 5 = p.f 10 5 ∧
      rows u 1 = rows t 0 ∧ o.kp.toNat ∈ p.consumed
  | 4 => ∃ o p : RRR, u.2.instr = .mms o ∧ t.2.instr = .mms p ∧ o.d = p.d ∧ chainDispatched s t.1.bsn o.d.toNat = true
  | _ => False
/-- A member between u and t names ACCa or ACCb of the template, an operand slot of t, or bytes that u writes (19 R328). -/
def InTheWay (s : State) (template : Nat) (u t m : Member) : Prop :=
  let names (x : Member) (f : File) (n : Nat) : Prop := ∃ o ∈ (form s.kn.ver x.2.instr).ops, o.file = f ∧ o.n = n
  (∃ n, names m .acc n ∧ ((template = 2 ∨ template = 4) ∧ names u .acc n ∨ template = 2 ∧ names t .acc n)) ∨
  (∃ n, names m .o n ∧ names t .o n) ∨
  ∃ a ∈ memberBytes s u true, ∃ b ∈ memberBytes s m false, a.1 < b.1 + b.2 ∧ b.1 < a.1 + a.2
/-- A rule fires for u, which has not been consumed, and t, over the members between them: one that its class, the header and PERM admit (19 R330, R331). -/
def FiresAt (s : State) (r : Rule) (u t : Member) (between : List Member) : Prop :=
  (r.cls = 0 ∨ r.cls = 1 ∧ s.kn.permRound = true ∧ s.x.perm.getLsbD 0 = true ∨ r.cls = 2 ∧ s.kn.permAssoc = true ∧ s.x.perm.getLsbD 1 = true) ∧
  u.2.rw = none ∧ PairFits s r.template u t ∧ ∀ m ∈ between, ¬InTheWay s r.template u t m
def NeverFires (s : State) (r : Rule) (t : Member) (ms : List Member) : Prop := ∀ pre u post, ms = pre ++ u :: post → ¬FiresAt s r u t post

/-- A step has joined the array. -/
def JoinsArray (i : Instr) (s : State) (p : MStep → Prop) : Prop :=
  ∃ (t : State) (x : MStep), exec i s = .next t ∧ t.f.steps = s.f.steps ++ [x] ∧ x.bsn = s.f.cur.bsn ∧ x.shadow = false ∧ p x ∧
    t = { s with r := { s.r with ag := t.r.ag, bindA := t.r.bindA, bindB := t.r.bindB },
                 f := { s.f with steps := t.f.steps, jr := t.f.jr, waits := t.f.waits, cur := t.f.cur } }
/-- Results for n registers from d on are delivered, of which the k-th is said of. -/
def Delivers (i : Instr) (s : State) (d n : Nat) (p : Nat → Delivery → Prop) : Prop :=
  ∃ (t : State) (l : List Delivery), exec i s = .next t ∧ t.f.deliver = s.f.deliver ++ l ∧ l.length = n ∧ t = { s with f := { s.f with deliver := t.f.deliver } } ∧
    ∀ k x, l[k]? = some x → x.file = .v ∧ x.n = d + k ∧ x.bsn = s.f.cur.bsn ∧ x.write = true ∧ p k x
/-- A chain marker has been set, and nothing else has changed but the journal. -/
def WroteChain (s t : State) (d : Nat) (c : Option Chain) : Prop :=
  (∀ n, chain t n = if n = d then c else chain s n) ∧
  t = { s with r := { s.r with chains := t.r.chains }, f := { s.f with jr := t.f.jr } }

/-- An accumulator as a drain finds it: every byte as it holds it, or, while an engine writes a sector over it, as the engine leaves it (13 R246). -/
def FoundAcc (s : State) (n : Nat) (a : AccImg) : Prop :=
  ∀ k, k < 16384 → laneAt a 8 k = laneAt (acc s n) 8 k ∨ (ownWin s + 0x180000 + 16384 * n + k, laneAt a 8 k) ∈ bytesAhead s

/-! ### Turns (log 2) -/

/-- The slots of a queue's head act one after another, each by its own meaning, each done; an atomic only where no later slot meets a fault. -/
inductive RunsSlots (e : QEntry) : List QSlot → State → State → Prop
  | none (s) : RunsSlots e [] s s
  | slot (x xs s t u) : exec x.instr (withSlot s e x) = .next t → t.f.cur.ctl = .done →
      (x.q = true → isAtomic x.instr = true → mateFault e xs s = none) → RunsSlots e xs (retireSlot t x.k) u →
      RunsSlots e (x :: xs) s u
/-- Whether a version assigns an instruction's opcode in a slot, and the word's other fields fit it (01 R13, R15, R18, R37, 23 R375). -/
def Encodable (ver slot : Nat) (x : SlotWord) : Prop :=
  slot < 8 ∧ (x.realign = true → slot = 7 ∧ (ver ≠ 1 ∨ x.instr = .realn)) ∧ (x.instr = .realn → x.realign = true) ∧
  (isCbr x.instr = true → x.qp = 0 ∧ x.qn = false) ∧ (x.instr ≠ .nop → WellFormed ver x.instr ∧
    ∃ tbl opc bits, opcodeOf x.instr = some (tbl, opc, bits) ∧ tbl = tableOf slot ∧
      ∃ r ∈ opRows, r.table = tbl ∧ r.opc = opc ∧ r.lo ≤ ver ∧ ver ≤ r.hi)

/-! ### Engine instructions (09, 11, 16, 20) -/

/-- A command buffer of the copy engine has room: of commands that have not started, it holds fewer than 32, or of timed ones 64 (09 R168, R173). -/
def CopyRoom (s : State) (timed : Bool) : Prop :=
  (s.e.cmds.filter fun c => c.eng = .copy && !c.active && c.time.isSome = timed).length < if timed then 64 else 32
/-- n bytes of the own scratchpad that the executing mode may touch (05 R105). -/
def InSpad (s : State) (va : W64) (n : Nat) : Prop :=
  va.toNat + n ≤ 0x100000 ∧ (s.kn.trapen = true → s.f.handler = false → va.toNat + n ≤ 0xF4000)
/-- The instruction issues one command of an engine, waiting to start, of whose work the rest is said; its token is pending, its generators have moved on, and
registers, special registers, memory and fabric stay as they were. -/
def Issues (i : Instr) (s : State) (kp : BitVec 6) (ks : List Nat) (e : Engine) (time : Option W64) (p : Work → Prop) : Prop :=
  ∃ t : State, exec i s = .next t ∧ (IssuedCmd s t kp ks fun c => c.eng = e ∧ c.time = time ∧ c.active = false ∧ c.err = none ∧ p c.work) ∧
    t = { s with r := { s.r with tok := t.r.tok, ag := t.r.ag }, e := { s.e with cmds := t.e.cmds, nextId := t.e.nextId }, fresh := t.fresh,
                 f := { s.f with jr := t.f.jr, cur := t.f.cur, sb := t.f.sb, kept := t.f.kept } }
/-- A table load from the own scratchpad: n bytes at va, aligned; the causes 0x10 and 0x11 in this order. -/
def IssuesTable (i : Instr) (s : State) (o : ENG) (e : Engine) (va : W64) (n align : Nat) (w : Piece → Work) : Prop :=
  (InSpad s va (max 1 n) → va.toNat % align = 0 → Issues i s o.kp o.consumed e none fun x => x = w ⟨0, 0, va, va.toNat, n⟩) ∧
  (¬InSpad s va (max 1 n) → exec i s = .next (raiseR s 0x10 0 va)) ∧
  (InSpad s va (max 1 n) → va.toNat % align ≠ 0 → exec i s = .next (raiseR s 0x11 0 va))
/-- What one side of a copy takes: a bobbin, or the first runs of a generator's addresses. -/
def SideTaken (s : State) (bob : Bool) (n u count : Nat) (a : List W64) (x : Side) : Prop :=
  if bob then bobOk (bobbin s n) = true ∧ x = .bob n else ∃ l, locsOf s u 1 (a.take count) = .ok l ∧ x = .runs l
/-- The addresses of a generator's whole nest, and the state behind them (05 R108). -/
def nestTaken (s : State) (bob : Bool) (n : Nat) : List W64 × State := if bob then ([], s) else genTake s n (genTotal (gen s n))
/-- A logical dimension of the kernel, mapped, and within the subcube (09 R177). -/
def DimAllowed (s : State) (l : Nat) : Prop :=
  l < s.x.kndim ∧ s.x.dimmap.toNat / 2 ^ (4 * l) % 16 ≤ 14 ∧ s.x.subm.getLsbD (s.x.dimmap.toNat / 2 ^ (4 * l) % 16) = true

/-! ### The memory slots (05, 23 R366) -/

/-- A value delivered by the executing slot: the bits of v that wm marks (07 R138). -/
def deliveryOf (s : State) (f : File) (n : Nat) (v wm : Vec) (sticky : BitVec 4) : Delivery := ⟨f, n, s.f.cur.bsn, v, wm, true, sticky, queueOf s.f.cur.k⟩
/-- The bits of a scalar result. -/
def scalarBits : Vec := BitVec.ofNat 16384 (2 ^ 64 - 1)
/-- The first address of some that fails a test. -/
def FirstFailing (a : List W64) (ok : W64 → Prop) (x : W64) : Prop := ∃ pre post, a = pre ++ x :: post ∧ (∀ y ∈ pre, ok y) ∧ ¬ok x
/-- An access of an earlier bundle to die-local memory, or an atomic of one, still has to perform: a load of a scratchpad comes behind it (05 R120, 13 R239). -/
def LoadHeld (s : State) : Prop :=
  ∃ r ∈ s.m.reqs, r.src = .core ∧ r.bsn < s.f.cur.bsn ∧ (homeOfPage s r.page = s.l.coord ∨ ∃ op b old, r.op = .atomic op b old)
/-- An access of this core that is no plain store, or one to die-local memory, still has to perform: a store that performs in a scratchpad and an atomic come
behind it (13 R239, R240). -/
def StoreHeld (s : State) : Prop := ∃ r ∈ s.m.reqs, r.src = .core ∧ ((∀ d, r.op ≠ .store d) ∨ homeOfPage s r.page = s.l.coord)
/-- A request joins the others, of which some may go on toward their homes (14 R266). -/
def Joins (s t : State) (r : Req) : Prop :=
  ∃ l, t.m.reqs = l ++ [r] ∧ (l.map fun q => { q with stage := .held }) = s.m.reqs.map fun q => { q with stage := .held }
/-- Requests of one kind join the others, in order: they carry n bytes at each of some places, the i-th of which is that of the i-th unit of an access, each request runs of
one page, and neighbours those of different pages (05 R111, 14 R265). -/
def JoinsRuns (s t : State) (ks : List Nat) (n : Nat) (op : ReqOp) (rs : List Req) : Prop :=
  (t.m.reqs.map fun q => { q with stage := .held }) = (s.m.reqs.map fun q => { q with stage := .held }) ++ rs.map (fun q => { q with stage := .held }) ∧
  (rs.flatMap Req.runs = ks.zipIdx.map fun x => (n * x.2, x.1, n)) ∧
  (∀ r ∈ rs, r.src = .core ∧ r.op = op ∧ r.bsn = s.f.cur.bsn ∧ r.k = s.f.cur.k ∧ r.owner = s.kn.owner ∧ r.runs ≠ [] ∧ ∀ x ∈ r.runs, pageBase s x.2.1 = r.page) ∧
  ∀ pre a b post, rs = pre ++ a :: b :: post → a.page ≠ b.page
/-- Units of n bytes of an access, each translated to a place of one page's home, and aligned. -/
def InPages (s : State) (a : List W64) (n align : Nat) (ks : List Nat) : Prop :=
  a ≠ [] ∧ List.Forall₂ (fun x k => unitParts s false x n = some [⟨0, x, .ia k, n⟩] ∧ x.toNat % align = 0 ∧ k % 0x10000 + n ≤ 0x10000) a ks
/-- A unit of an access that the range registers or a window translate by the step that translates its first unit (14 R254). -/
def InStep (s : State) (a : List W64) (n : Nat) (y : W64) : Prop :=
  unitParts s false y n ≠ none ∧ unitStep (unitParts s false y n) = a.head?.bind fun x => unitStep (unitParts s false x n)
/-- The instruction does not act yet. -/
def Stalls (i : Instr) (s : State) : Prop := ∃ t : State, exec i s = .next t ∧ t.f.cur.ctl = .stall ∧ t.m = s.m ∧ t.f.deliver = s.f.deliver ∧ t.f.gate = s.f.gate
/-- What a load does with its units of n bytes at some addresses; u is the state behind the step of its generator, and ext makes the written
value of the bytes read (05 R105 to R107, R109, R110, R112, R113). -/
def LoadRule (i : Instr) (s : State) (o : MEM) (f : File) (a : List W64) (u : State) (n align : Nat) (wm : Vec) (ext : Nat → Nat) : Prop :=
  let waits (k : Nat) : Prop := o.nowait = false ∧ ∃ b, b < n ∧ waitsOn s (k + b) = true
  let delivers (key : W64 → Nat) : Prop := ∃ (t : State) (y : Nat), exec i s = .next t ∧
    t = { s with r := { s.r with ag := t.r.ag }, f := { s.f with jr := t.f.jr, waits := t.f.waits, deliver := t.f.deliver }, fresh := t.fresh } ∧
    t.f.deliver = s.f.deliver ++ [deliveryOf s f o.d.toNat (BitVec.ofNat 16384 (ext y)) wm 0] ∧ y < 2 ^ (8 * n * a.length) ∧
    ∀ k x b, a[k]? = some x → b < n → y / 2 ^ (8 * (n * k + b)) % 2 ^ 8 = (seenByte s (key x + b)).1.toNat
  (a = [] → ∃ t : State, exec i s = .next t ∧ t.f.deliver = s.f.deliver ∧ t.m = s.m ∧ t.r.s = s.r.s ∧ t.r.v = s.r.v ∧ t.r.p = s.r.p) ∧
  (o.glb = false → a ≠ [] →
    (∀ x, FirstFailing a (fun y => InSpad s y n) x → exec i s = .next (raiseR u 0x10 0 x)) ∧
    (∀ x, (∀ y ∈ a, InSpad s y n) → FirstFailing a (fun y => y.toNat % align = 0) x → exec i s = .next (raiseR u 0x11 0 x)) ∧
    ((∀ y ∈ a, InSpad s y n ∧ y.toNat % align = 0) →
      ((∃ y ∈ a, waits y.toNat) → ∃ t : State, exec i s = .next t ∧ t.f.cur.ctl = .wait ∧ t.r = s.r ∧ t.m = s.m ∧ t.f.deliver = s.f.deliver) ∧
      ((∀ y ∈ a, ¬waits y.toNat ∧ badIn s y.toNat n = none) → (LoadHeld s → Stalls i s) ∧ (¬LoadHeld s → delivers fun y => y.toNat)))) ∧
  (o.glb = true → ∀ x, a = [x] → (unitParts s false x n = none → exec i s = .next (raiseR u 0x10 0 x)) ∧
    (unitParts s false x n ≠ none → x.toNat % align ≠ 0 → exec i s = .next (raiseR u 0x11 0 x)) ∧
    (x.toNat % align = 0 → ∀ tg, unitTarget s false x n = some tg → isIa tg = false → ¬waits tg.key → badIn s tg.key n = none →
      (LoadHeld s → Stalls i s) ∧ (¬LoadHeld s → delivers fun _ => tg.key)) ∧
    (x.toNat % align = 0 → ∀ k, unitParts s false x n = some [⟨0, x, .ia k, n⟩] → k % 0x10000 + n ≤ 0x10000 → ¬waits (iaBase + k) →
      ∃ (t : State) (r : Req), exec i s = .next t ∧ Joins s t r ∧ r.src = .core ∧ r.op = .load ∧
      r.page = pageBase s k ∧ r.runs = [(0, k, n)] ∧ r.va = x ∧ r.owner = s.kn.owner ∧ r.bsn = s.f.cur.bsn ∧ r.k = s.f.cur.k ∧
      (∃ c : Access, t.m.accs = s.m.accs ++ [c] ∧ c.bsn = s.f.cur.bsn ∧ c.k = s.f.cur.k ∧ c.file = f ∧ c.n = o.d.toNat ∧ c.val = 0 ∧ c.wm = wm ∧ c.left = 1 ∧
        c.write = true) ∧ t.m.cells = s.m.cells ∧ t.f.deliver = s.f.deliver ∧ t.r.s = s.r.s ∧ t.r.v = s.r.v)) ∧
  (o.glb = true → a ≠ [] →
    (∀ x, FirstFailing a (InStep s a n) x → exec i s = .next (raiseR u 0x10 0 x)) ∧
    (∀ x, (∀ y ∈ a, InStep s a n y) → FirstFailing a (fun y => y.toNat % align = 0) x → exec i s = .next (raiseR u 0x11 0 x)) ∧
    ∀ ks, InPages s a n align ks →
      ((∃ k ∈ ks, waits (iaBase + k)) → ∃ t : State, exec i s = .next t ∧ t.f.cur.ctl = .wait ∧ t.r = s.r ∧ t.m = s.m ∧ t.f.deliver = s.f.deliver) ∧
      ((∀ k ∈ ks, ¬waits (iaBase + k)) → ∃ (t : State) (rs : List Req) (c : Access), exec i s = .next t ∧ JoinsRuns s t ks n .load rs ∧
        t.m.accs = s.m.accs ++ [c] ∧ c.bsn = s.f.cur.bsn ∧ c.k = s.f.cur.k ∧ c.file = f ∧ c.n = o.d.toNat ∧ c.val = 0 ∧ c.wm = wm ∧ c.left = rs.length ∧ c.write = true ∧
        t.m.cells = s.m.cells ∧ t.f.deliver = s.f.deliver ∧ t.r.s = s.r.s ∧ t.r.v = s.r.v))
/-- The executing slot's write toward a die is counted for a later FLAG, and nothing else is (09 R188). -/
def CountsOne (s t : State) (die : Coord) : Prop :=
  ∀ d b, countAt t d b = if d = die ∧ b = s.f.cur.bsn then countAt s d b + 1 else countAt s d b
/-- The pieces in which a store of units of n bytes to scratchpads performs: of at most 32 bytes each, in the order of the units (05 R111, 13 R248). -/
def storePieces (a : List W64) (n : Nat) : List (Nat × Nat × Nat) :=
  a.zipIdx.flatMap fun p => (List.range ((n + 31) / 32)).map fun j => (n * p.2 + 32 * j, p.1.toNat + 32 * j, min 32 n)
/-- What a store does with its units of n bytes at some addresses, of which `data` holds the bytes (05 R105 to R107, R109, R111, R121). -/
def StoreRule (i : Instr) (s : State) (o : MEM) (a : List W64) (u : State) (n align reserve : Nat) (data : List Byte) : Prop :=
  (o.glb = false →
    (∀ x, FirstFailing a (fun y => InSpad s y n) x → exec i s = .next (raiseR u 0x10 0 x)) ∧
    (∀ x, (∀ y ∈ a, InSpad s y n) → FirstFailing a (fun y => y.toNat % align = 0) x → exec i s = .next (raiseR u 0x11 0 x)) ∧
    ((∀ y ∈ a, InSpad s y n ∧ y.toNat % align = 0) →
      (s.f.handler = false → reserve ≤ 1024 * s.kn.gateKb → ∃ t : State, exec i s = .next t ∧
        t = { s with r := { s.r with ag := t.r.ag }, f := { s.f with jr := t.f.jr, gate := t.f.gate }, fresh := t.fresh } ∧
        t.f.gate = s.f.gate ++ a.zipIdx.map fun p => GateStore.mk p.1.toNat ((data.drop (n * p.2)).take n) s.f.cur.bsn) ∧
      (s.f.handler = true ∨ 1024 * s.kn.gateKb < reserve → a ≠ [] → (s.f.handler = false ∧ othersIssued s = false) ∨ StoreHeld s ∨ (∃ x ∈ a, flagAhead s s.f.cur.bsn x.toNat n = true) → Stalls i s) ∧
      (s.f.handler = true ∨ 1024 * s.kn.gateKb < reserve → s.f.handler = true ∨ othersIssued s = true → ¬StoreHeld s → (∀ x ∈ a, flagAhead s s.f.cur.bsn x.toNat n = false) →
        (∀ x, a = [x] → n ≤ 32 → n ≤ data.length → s.m.empties.Nodup → ∃ t : State, exec i s = .next t ∧
          t = { s with r := { s.r with ag := t.r.ag }, f := { s.f with jr := t.f.jr, flagCnt := t.f.flagCnt }, fresh := t.fresh,
                       m := { s.m with cells := t.m.cells, empties := t.m.empties, bad := t.m.bad } } ∧ CountsOne s t s.l.coord ∧
          (∀ b, b < n → isEmptyLine t (x.toNat + b) = false ∧ readByte t.m.cells (x.toNat + b) = data.getD b 0) ∧
          ∀ key, key < x.toNat ∨ x.toNat + n ≤ key → readByte t.m.cells key = readByte s.m.cells key) ∧
        (a = [] → ∃ t : State, exec i s = .next t ∧ t = { s with r := { s.r with ag := t.r.ag }, f := { s.f with jr := t.f.jr }, fresh := t.fresh }) ∧
        (2 ≤ (storePieces a n).length → ∃ (t : State) (r : Req), exec i s = .next t ∧
          t = { s with r := { s.r with ag := t.r.ag }, f := { s.f with jr := t.f.jr, flagCnt := t.f.flagCnt }, fresh := t.fresh,
                       m := { s.m with reqs := s.m.reqs ++ [r], nextReq := s.m.nextReq + 1 } } ∧ CountsOne s t s.l.coord ∧
          r.id = s.m.nextReq ∧ r.src = .core ∧ r.bsn = s.f.cur.bsn ∧ r.op = .pads data ∧ r.runs = storePieces a n ∧ r.page = noPage ∧ r.firm = true)))) ∧
  (o.glb = true → ∀ x k, a = [x] → unitParts s false x n = some [⟨0, x, .ia k, n⟩] → x.toNat % align = 0 → k % 0x10000 + n ≤ 0x10000 → s.f.ahead = none →
    (othersIssued s = false → Stalls i s) ∧
    (othersIssued s = true → ∃ (t : State) (r : Req), exec i s = .next t ∧ Joins s t r ∧ r.src = .core ∧ r.op = .store data ∧
      r.page = pageBase s k ∧ r.runs = [(0, k, n)] ∧ r.va = x ∧ r.owner = s.kn.owner ∧ r.bsn = s.f.cur.bsn ∧ t.m.cells = s.m.cells ∧
      t.f.gate = s.f.gate ∧ t.r.s = s.r.s ∧ t.r.v = s.r.v ∧ CountsOne s t (homeOfPage s (pageBase s k)))) ∧
  (o.glb = true → a ≠ [] →
    (∀ x, FirstFailing a (InStep s a n) x → exec i s = .next (raiseR u 0x10 0 x)) ∧
    (∀ x, (∀ y ∈ a, InStep s a n y) → FirstFailing a (fun y => y.toNat % align = 0) x → exec i s = .next (raiseR u 0x11 0 x)) ∧
    ∀ ks, InPages s a n align ks → s.f.ahead = none →
      (othersIssued s = false → Stalls i s) ∧
      (othersIssued s = true → ∃ (t : State) (rs : List Req), exec i s = .next t ∧ JoinsRuns s t ks n (.store data) rs ∧ t.m.cells = s.m.cells ∧
        t.f.gate = s.f.gate ∧ t.r.s = s.r.s ∧ t.r.v = s.r.v ∧
        ∀ d b, countAt t d b = if b = s.f.cur.bsn ∧ (rs.any fun r => homeOfPage s r.page = d) then countAt s d b + 1 else countAt s d b))
/-- The scalar loads: bytes, and whether they extend the sign. -/
def scalarLoads : List ((MEM → Instr) × Nat × Bool) :=
  [(.ldB, 1, false), (.ldH, 2, false), (.ldW, 4, false), (.ldD, 8, false), (.ldBs, 1, true), (.ldHs, 2, true), (.ldWs, 4, true)]
def scalarStores : List ((MEM → Instr) × Nat) := [(.stB, 1), (.stH, 2), (.stW, 4), (.stD, 8)]
/-- The new value of each atomic on 8 bytes, from the value in memory, S[b] and S[D] (05 R120); AFADD aside. -/
def atomicOps : List ((MEM → Instr) × (W64 → W64 → W64 → W64)) := [
  (.aadd, fun m b _ => m + b), (.aand, fun m b _ => m &&& b), (.aor, fun m b _ => m ||| b), (.axor, fun m b _ => m ^^^ b),
  (.amin, fun m b _ => if b.toInt < m.toInt then b else m), (.amax, fun m b _ => if m.toInt < b.toInt then b else m), (.aswp, fun _ b _ => b),
  (.acas, fun m b old => if m = old then b else m)]
/-- A FLAG word of an earlier bundle is still to be written to some of w bytes at va (13 R238). -/
def WordAhead (s : State) (va : W64) (w : Nat) : Prop :=
  ∃ ps, unitParts s false va w = some ps ∧ ∃ p ∈ ps, flagAhead s s.f.cur.bsn p.tgt.key p.len = true
/-- A store of the executing slot's bundle has not passed the checks of its home, behind which an atomic in a scratchpad comes (13 R241). -/
def MateUnchecked (s : State) : Prop :=
  ∃ r ∈ s.m.reqs, r.src = .core ∧ r.bsn = s.f.cur.bsn ∧ isWrite r.op = true ∧ r.stage ≠ .checked ∧ r.vetted = false
/-- An atomic on w bytes at va, which is aligned to 4 (log 18), within a scratchpad, or as a request to the word's home. -/
def AtomicRule (i : Instr) (s : State) (o : MEM) (w op : Nat) (new : Nat → Nat) : Prop :=
  let va := opS s o.base.toNat + sextN 16 (o.off.toNat % 2 ^ 16)
  (unitParts s false va w = none → exec i s = .next (raiseR s 0x10 0 va)) ∧
  (unitParts s false va w ≠ none →
    (va.toNat % 4 ≠ 0 → exec i s = .next (raiseR s 0x11 0 va)) ∧
    (va.toNat % 4 = 0 → othersIssued s = false ∨ StoreHeld s ∨ (3 ≤ o.scope ∧ remoteAcked s = false) ∨ WordAhead s va w →
      exec i s = .next (setCtl s .stall)) ∧
    (va.toNat % 4 = 0 → othersIssued s = true → ¬StoreHeld s → (3 ≤ o.scope → remoteAcked s = true) → ¬WordAhead s va w →
      (∀ tg, unitTarget s false va w = some tg → isIa tg = false → MateUnchecked s → exec i s = .next (setCtl s .stall)) ∧
      (∀ tg, unitTarget s false va w = some tg → isIa tg = false → ¬MateUnchecked s → badIn s tg.key w = none → ∃ t : State, exec i s = .next t ∧
        t = { s with m := { s.m with cells := t.m.cells, empties := t.m.empties, bad := t.m.bad }, f := { s.f with deliver := t.f.deliver, flagCnt := t.f.flagCnt } } ∧
        t.f.deliver = s.f.deliver ++ [deliveryOf s .s o.d.toNat (BitVec.ofNat 16384 (leNat (seenBytes s tg.key w))) scalarBits 0] ∧
        leNat (readBytes t.m.cells tg.key w) = new (leNat (seenBytes s tg.key w)) ∧
        KeepsMemoryBut s t tg.key w) ∧
      ∀ k, unitParts s false va w = some [⟨0, va, .ia k, w⟩] → k % 0x10000 + w ≤ 0x10000 → ∃ (t : State) (r : Req), exec i s = .next t ∧ Joins s t r ∧ r.src = .core ∧
        r.op = .atomic op (opS s o.sb) (opS s o.d.toNat) ∧ r.page = pageBase s k ∧ r.runs = [(0, k, w)] ∧ r.va = va ∧ r.owner = s.kn.owner ∧
        t.m.cells = s.m.cells ∧ ∃ c : Access, t.m.accs = s.m.accs ++ [c] ∧ c.file = .s ∧ c.n = o.d.toNat ∧ c.left = 1 ∧ c.write = true))
/-- The order of TOPK: a NaN ranks lowest, −0 as +0, and of equal scores the lower index comes first (23 R367). -/
def TopBefore (x y : Nat × Nat) : Prop :=
  let un (c : Nat) : Prop := IsNan fp32 (c % 2 ^ 32)
  (¬un x.1 ∧ un y.1) ∨ (¬un x.1 ∧ ¬un y.1 ∧ orderKey0 y.1 < orderKey0 x.1) ∨
    (((un x.1 ∧ un y.1) ∨ (¬un x.1 ∧ ¬un y.1 ∧ orderKey0 x.1 = orderKey0 y.1)) ∧ x.2 < y.2)

/-! ### The sync slot (09 R185 to R194) -/

/-- The tokens that the executing slot consumes have completed, and it sees no error of theirs. -/
def TokensReady (s : State) (ks : List Nat) : Prop := needsDone s (needsOf s ks) = true ∧ firstErr s (needsOf s ks) = none
/-- The slot's production of KP has completed at once, its wait is over, and it holds later bundles no longer where `frees` says so. -/
def SyncDone (s t : State) (kp : BitVec 6) (frees : Bool) : Prop :=
  let id := 8 * s.f.cur.bsn + s.f.cur.k
  (∀ n, token t n = if n = kp.toNat
    then ⟨(token s n).pend.filter (· != id), clearedBy (token s n).errs id⟩ else token s n) ∧
  t.f.waits = (s.f.waits.filter fun w => !(w.k = s.f.cur.k && w.bsn = s.f.cur.bsn)) ∧
  t.f.holds = (if frees then s.f.holds.filter (· != s.f.cur.bsn) else s.f.holds) ∧
  t = { s with r := { s.r with tok := t.r.tok }, f := { s.f with waits := t.f.waits, holds := t.f.holds } }
/-- The slot waits at the head of its queue, from now on or as it has since it began, and nothing else has changed. -/
def HeadWaits (s t : State) : Prop :=
  t.f.cur = { s.f.cur with ctl := .wait } ∧
  waitSince t s.f.cur.k s.f.cur.bsn = some ((waitSince s s.f.cur.k s.f.cur.bsn).getD s.tick) ∧
  t = { s with f := { s.f with cur := t.f.cur, waits := t.f.waits } }
/-- Every load, store and atomic of earlier bundles has performed (09 R186). -/
def EarlierPerformed (s : State) : Prop :=
  (∀ e ∈ s.f.qs.mem, s.f.cur.bsn ≤ e.bsn) ∧ (∀ a ∈ s.m.accs, s.f.cur.bsn ≤ a.bsn) ∧ ∀ r ∈ s.m.reqs, r.src = .core → s.f.cur.bsn ≤ r.bsn

/-- The parts of a FLAG word are parts of its 8 bytes, lie in scratchpads, and do not meet. -/
def FlagPlaces (m : FlagMsg) : Prop :=
  (∀ p ∈ flagParts m, p.1 + p.2.2 ≤ 8 ∧ p.2.1 + p.2.2 ≤ iaBase ∧ p.2.1 < iaBase) ∧
  (flagParts m).Pairwise fun p q => p.2.1 + p.2.2 ≤ q.2.1 ∨ q.2.1 + q.2.2 ≤ p.2.1
/-- Every part of a FLAG word holds its bytes of the word's value, and no other byte of memory has changed (09 R188). -/
def WroteFlag (s t : State) (m : FlagMsg) : Prop :=
  (∀ p ∈ flagParts m, ∀ b, b < p.2.2 → (readByte t.m.cells (p.2.1 + b)).toNat = m.value.toNat / 2 ^ (8 * (p.1 + b)) % 2 ^ 8) ∧
  ∀ k, (∀ p ∈ flagParts m, k < p.2.1 ∨ p.2.1 + p.2.2 ≤ k) → readByte t.m.cells k = readByte s.m.cells k

/-! ### Landings and waits of the memory queue (04 R89, 07 R138, 16 R288) -/

/-- A vector register has been written where wm marks, and no other vector register. -/
def WroteVec (s t : State) (n : Nat) (val wm : Vec) : Prop :=
  (∀ m, m ≠ n → vreg t m = vreg s m) ∧ ∀ j, j < 16384 → (vreg t n).getLsbD j = if wm.getLsbD j = true then val.getLsbD j else (vreg s n).getLsbD j
/-- A mask register has been written where wm marks, and no other. -/
def WroteMask (s t : State) (n : Nat) (val wm : Vec) : Prop :=
  (∀ m, m ≠ n → mreg t m = mreg s m) ∧ ∀ j, j < 512 → (mreg t n).getLsbD j = if wm.getLsbD j = true then val.getLsbD j else (mreg s n).getLsbD j
/-- No write of another queue since the last realign meets a write of this queue to a register (07 R139). -/
def NoClash (s : State) (q : Queue) (d : Dst) : Prop := ∀ u ∈ s.f.unord, u.dst = d → u.q = q
/-- The steps after a matrix issue cycle: every one is one cycle nearer, and those that are due have left. -/
def nearer (s : State) : List MStep := (s.f.steps.map fun x => { x with left := x.left - 1, beats := x.beats - 1 }).filter fun x => x.left != 0
/-- A matrix issue cycle as the array counts it. -/
def StepsNearer (s t : State) : Prop := t.f.steps = nearer s
/-- The same, but for what the steps may find of the elements that an engine has written (18 R319). -/
def StepsNearerBut (s t : State) : Prop :=
  (t.f.steps.map fun y => { y with prior := [] }) = (nearer s).map fun y => { y with prior := [] }
/-- The slot x of the entry e is at the head of the memory queue, executes, and has waited since t0. -/
def HeadHasWaited (s : State) (e : QEntry) (x : QSlot) (t0 : W64) : Prop :=
  headSlot s 4 = some (e, x) ∧ x.q = true ∧ waitSince s 4 e.bsn = some t0

/-! ### Collective events, homes (23, 25, 14) -/

/-- Nothing has changed but the membership of one group. -/
def OnlyGroup (s t : State) (g : Nat) (x : Group) : Prop :=
  t.f.groups.get g = x ∧ (∀ h, h < 4 → h ≠ g → t.f.groups.get h = s.f.groups.get h) ∧ t = { s with f := { s.f with groups := t.f.groups } }
/-- The group once its number has resolved (23 R376). -/
def resolvedGroup (x : Group) (r : Bool) : Group :=
  { x with seq := x.seq + 1, last := r, lop := x.any, wait := false, owed := false, contributed := false, resKept := some r }
/-- The k-th page entry of a rewritten list. -/
def PageBecomes (s t : State) (p q : Page) : Prop := t.m.pages = s.m.pages.map fun x => if x.ia = p.ia then q else x
/-- A request of this core to a page that is homed here, first in the list, sent, with no flit of it in a port, and no other request of its bundle. -/
def ReqAt (s : State) (r : Req) (rs : List Req) (p : Page) (a n : Nat) : Prop :=
  s.m.reqs = r :: rs ∧ (∀ q ∈ rs, q.id ≠ r.id ∧ (q.src = .core → q.bsn ≠ r.bsn)) ∧ r.src = .core ∧ r.stage = .sent ∧ r.page ≠ noPage ∧ r.vetted = false ∧
  (∀ x ∈ s.l.ports, ∀ y ∈ x.2.outq, ∀ q, y.2.body = .request q → q.id ≠ r.id) ∧ r.runs = [(0, a, n)] ∧
  pageAt s r.page = some p ∧ pageAt s a = some p ∧ p.home = s.l.coord

/-- Nothing holds a write of this core back: no recorded fault of its bundle or an earlier one, and no FLAG word of the core to its bytes (13 R238, R241). -/
def WriteFree (s : State) (r : Req) (a n : Nat) : Prop := (∀ i ∈ s.f.rbFaults, r.bsn < i.fbsn) ∧ flagAhead s r.bsn (iaBase + a) n = false

/-! ### Links (12) -/

/-- Port d has changed to p, and nothing else. -/
def OnlyPort (s t : State) (d : Nat) (p : Port) : Prop :=
  port t d = p ∧ (∀ m, m ≠ d → port t m = port s m) ∧ t = { s with l := { s.l with ports := t.l.ports } }
/-- A message waits on the cordonnet of some port toward a die, or behind that port's fence. -/
def OnCord (t : State) (dest : Coord) (m : CMsg) : Prop := ∃ e, ∃ x ∈ (port t e).cord ++ (port t e).cordBack, x.msg = m ∧ x.dest = dest
/-- A link that is up, with its port in use. -/
def LinkUp (s : State) (d : Nat) : Prop := d < 15 ∧ (port s d).stage = .up ∧ (port s d).dead = false
/-- No engine command works: a change of a link ends none (11 R217). -/
def EnginesRest (s : State) : Prop := ∀ c ∈ s.e.cmds, c.active = false
/-- A flit of this link direction: of its type and body, under the epoch and counter that are next, sealed, and kept for replay. -/
def SealedFlit (s : State) (d : Nat) (f : Flit) (ftype : BitVec 4) (b : Body) : Prop :=
  f.ftype = ftype ∧ f.body = b ∧ f.epoch = (port s d).txEpoch ∧ f.counter = (port s d).txCtr ∧
    f.tag = integrity s.l.coord d (portKey s d f) { f with tag := 0 }

/-! ### The command processor and the package (26, 27) -/

/-- One queue alone holds records, and its head may be taken. -/
def OnlyHead (s : State) (q : Nat) (r : Rec) (rs : List Rec) : Prop :=
  q < 20 ∧ mapGet [] s.c.queues q = r :: rs ∧ (∀ n, n < 20 → n ≠ q → mapGet [] s.c.queues n = []) ∧ r.eligible.isSome = true ∧
  waitMet s r = true ∧ effClass s q r < 4 ∧ s.h.power = .ready ∧ ∀ x ∈ s.c.runs, x.suspended = false
/-- The head has left its queue. -/
def HeadTaken (s t : State) (q : Nat) (rs : List Rec) : Prop :=
  t.c.lastServed = q ∧ mapGet [] t.c.queues q = rs ∧ ∀ n, n ≠ q → mapGet [] t.c.queues n = mapGet [] s.c.queues n
/-- A message has gone toward the host: out of the anchor's port, or in a flit toward the anchor over dimensions 0 to 2 (00 R5). -/
def Said (s t : State) (r : Reply) : Prop :=
  (dieNo s = 0 → t.c.out = s.c.out ++ [r] ∧ t.l = s.l) ∧
  (dieNo s ≠ 0 → t.c.out = s.c.out ∧ t.l = { s.l with ports := t.l.ports } ∧ ∃ d f, f.body = .reply r ∧ f.dest = dieOf s 0 ∧ f.dims = 7 ∧
    port t d = { port s d with outq := (port s d).outq ++ [(.memory, f)] } ∧ ∀ m, m ≠ d → port t m = port s m)
/-- A message has gone from the anchor to every other die of the package. -/
def SentToMates (w t : State) (h : MsgHdr) (m : HostMsg) : Prop :=
  ∀ n : BitVec 3, n ≠ 0 → ∃ d, ∃ x ∈ (port t d).outq, x.2.body = .host h m ∧ x.2.dest = dieOf w n ∧ x.2.dims = 7
/-- A message that changes a table of the package has gone from the anchor to every other die, and each of them has still to act on it; a die that the anchor has told
tells no other (00 R5, 27 R423). -/
def TellsAll (w t : State) (h : MsgHdr) (m : HostMsg) : Prop :=
  (dieNo w ≠ 0 → t = w) ∧
  (dieNo w = 0 → t = { w with h := { w.h with relayed := w.h.relayed ++ (List.range 7).map fun i => (h.qp, BitVec.ofNat 3 (i + 1)) }
                              l := { w.l with ports := t.l.ports } } ∧
    SentToMates w t h m)
/-- The pins of a window, or their end, have gone to every die of its tenant in other packages (27 R424). -/
def SentToFar (w t : State) (n : Nat) (v : Window) (on : Bool) : Prop :=
  ∀ c ∈ farDies w v.owner, ∃ d, ∃ x ∈ (port t d).outq, x.2.body = .pin n v.owner v.iabase v.len on ∧ x.2.dest = c
/-- A warm reset has begun at this die (27 R430): a kernel that runs is cancelled, and what is queued is refused once none does. -/
def WarmStarts (w t : State) : Prop :=
  t.h.power = .ending ∧
  (∀ q r, q < 20 → w.c.queues = [(q, [r])] → w.c.runs = [] → t.c.queues = [] ∧ t.c.finished = w.c.finished ++ [⟨w.c.nextRun, q, r, none, 1⟩]) ∧
  ∀ x, w.c.runs = [x] → x.here = true → x.suspended = false → w.f.fe = .run → w.f.ahead = none → (∀ c ∈ w.c.contexts, c.run ≠ x.id) →
    t.c.runs = [{ x with killed := true, asked := none }] ∧ t.c.queues = w.c.queues ∧ ∃ e, t.f.fe = .exiting e
/-- A message of a type, with no reserved bit set, in its turn on a queue pair that the port has; at a die other than the anchor one that the anchor has relayed to it. -/
def HeardAny (s : State) (h : MsgHdr) (ty : BitVec 8) : Prop :=
  h.reserved = false ∧ h.mtype = ty ∧ h.qp < 4096 ∧ itsTurn s h = true ∧ (dieNo s ≠ 0 → ∃ m, (h, m) ∈ s.h.inbox)
/-- The same, while the package is up. -/
def Heard (s : State) (h : MsgHdr) (ty : BitVec 8) : Prop := s.h.power ≠ .held ∧ HeardAny s h ty
/-- The answer has been sent from a state, and changes nothing else. -/
def Answers (i : Instr) (s u : State) (r : Reply) : Prop :=
  ∃ t : State, exec i s = .next t ∧ Said u t r ∧ t = { u with c := { u.c with out := t.c.out }, l := t.l }
/-- The message has been refused, with a reason code, and changes nothing but the turn of its queue pair. -/
def Refused (i : Instr) (s : State) (h : MsgHdr) : Prop := ∃ n, Answers i s { heard s h with fresh := s.fresh + 1 } (.refuse h n)

end Sys2Proof.Machine
end

