-- ==== Sys2Proof/Certificates/Slice0/Obligations.lean ====
section
/-! DEFINITION. The statements for the provers: what instructions and transitions do, what they leave unchanged, where they complete, and what
every step keeps. -/

open Sys2Proof Sys2Proof.Machine

/-! ### The scalar slot -/

/-- 03 R65: the signed results of the two-source and one-source ALU instructions, the unsigned minimum and maximum and the bit counts, in both
widths; S[D] takes the result (S0 discards it) and nothing else changes. -/
def Obligations.IntegerArithmeticWritesItsResult : Prop :=
  (∀ p ∈ signedOps, ∀ (o : RRR) (s : State), s.f.cur.q = true → o.ef = 8 ∨ o.ef = 9 →
    ∃ t, exec (p.1 o) s = .next t ∧ WroteScalar s t o.d.toNat (signedWord o (p.2 o) (opS s o.a.toNat) (opS s o.b.toNat))) ∧
  (∀ p ∈ unsignedOps, ∀ (o : RRR) (s : State), s.f.cur.q = true → o.ef = 8 ∨ o.ef = 9 →
    ∃ t, exec (p.1 o) s = .next t ∧ WroteScalar s t o.d.toNat (unsignedWord o p.2 (opS s o.a.toNat) (opS s o.b.toNat)))

/-- 03 R65, R66: division truncates toward zero, raises no trap, and has the special results of the table. -/
def Obligations.DivisionRaisesNoTrap : Prop :=
  (∀ p ∈ divisionOps, ∀ (o : RRR) (s : State), s.f.cur.q = true → o.ef = 8 ∨ o.ef = 9 →
    ∃ t, exec (p.1 o) s = .next t ∧ WroteScalar s t o.d.toNat (signedWord o p.2 (opS s o.a.toNat) (opS s o.b.toNat))) ∧
  (∀ p ∈ udivisionOps, ∀ (o : RRR) (s : State), s.f.cur.q = true → o.ef = 8 ∨ o.ef = 9 →
    ∃ t, exec (p.1 o) s = .next t ∧ WroteScalar s t o.d.toNat (unsignedWord o p.2 (opS s o.a.toNat) (opS s o.b.toNat)))

/-- 03 R65: AND, OR, XOR and ANDN bit by bit; the shifts and ROL by b modulo the operating width, bit by bit, sign-extended under `.i32`;
BSWAP byte by byte. -/
def Obligations.LogicShiftsAndByteSwap : Prop :=
  (∀ p ∈ logicOps, ∀ (o : RRR) (s : State), s.f.cur.q = true → o.ef = 9 →
    ∃ t v, exec (p.1 o) s = .next t ∧ WroteScalar s t o.d.toNat v ∧
      ∀ i, i < 64 → v.getLsbD i = p.2 ((opS s o.a.toNat).getLsbD i) ((opS s o.b.toNat).getLsbD i)) ∧
  (∀ p ∈ shiftOps, ∀ (o : RRR) (s : State), s.f.cur.q = true → o.ef = 8 ∨ o.ef = 9 →
    ∃ t v, exec (p.1 o) s = .next t ∧ WroteScalar s t o.d.toNat v ∧
      ∀ i, i < 64 → v.getLsbD i =
        aluBit o (p.2 (aluWidth o) (opS s o.a.toNat).getLsbD ((opS s o.b.toNat).toNat % aluWidth o)) i) ∧
  (∀ (o : RRR) (s : State), s.f.cur.q = true → o.ef = 8 ∨ o.ef = 9 →
    ∃ t v, exec (.bswap o) s = .next t ∧ WroteScalar s t o.d.toNat v ∧
      ∀ i, i < 64 → v.getLsbD i = aluBit o (fun i => (opS s o.a.toNat).getLsbD (8 * (aluWidth o / 8 - 1 - i / 8) + i % 8)) i)

/-- 03 R67: the immediate forms and MOVI. -/
def Obligations.ImmediateFormsWriteTheirResult : Prop :=
  (∀ (o : RI) (s : State), s.f.cur.q = true →
    ∃ t, exec (.movi o) s = .next t ∧ WroteScalar s t o.d.toNat (BitVec.ofInt 64 o.imm.toInt)) ∧
  ∀ p ∈ immediateOps, ∀ (o : RRI) (s : State), s.f.cur.q = true →
    ∃ t, exec (p.1 o) s = .next t ∧ WroteScalar s t o.d.toNat (p.2 (opS s o.a.toNat) o.imm)

/-- 03 R65: SEL chooses by P[C]; EXT takes, and DEP replaces, the field that S[B] describes. -/
def Obligations.SelectExtractAndDeposit : Prop :=
  ∀ (o : RRR) (s : State), s.f.cur.q = true →
    (∃ t, exec (.sel o) s = .next t ∧
      WroteScalar s t o.d.toNat (if preg s o.c.toNat then opS s o.a.toNat else opS s o.b.toNat)) ∧
    let b := opS s o.b.toNat
    let pos := b.toNat % 64
    let len := min (b.toNat / 2 ^ 8 % 2 ^ 7) (64 - pos)
    (∃ t v, exec (.ext o) s = .next t ∧ WroteScalar s t o.d.toNat v ∧
      ∀ i, i < 64 → v.getLsbD i = (decide (i < len) && (opS s o.a.toNat).getLsbD (pos + i))) ∧
    (∃ t v, exec (.dep o) s = .next t ∧ WroteScalar s t o.d.toNat v ∧
      ∀ i, i < 64 → v.getLsbD i =
        if pos ≤ i ∧ i < pos + len then (opS s o.c.toNat).getLsbD (i - pos) else (opS s o.a.toNat).getLsbD i)

/-- 01 R25, 03 R68: a compare evaluates its condition and writes its two predicates by mode and sense, whatever q is. P0 stays true. -/
def Obligations.ComparesWriteTheirPredicates : Prop :=
  ∀ (s : State) (pd1 pd2 : BitVec 6) (ct : BitVec 3) (cond : BitVec 4) (a : BitVec 8), cond.toNat < 8 → (pd1 ≠ pd2 ∨ pd1 = 0) →
    ∀ (signed c : Bool) (b : W64) (out : Host.Outcome State Fault Refusal),
      ((∃ x r, b = opS s (BitVec.toNat x) ∧
          out = exec (if signed then .cmp ⟨pd1, pd2, ct, cond, a, x, r⟩ else .cmpu ⟨pd1, pd2, ct, cond, a, x, r⟩) s) ∨
       (∃ x : BitVec 21, b = BitVec.ofInt 64 x.toInt ∧
          out = exec (if signed then .cmpi ⟨pd1, pd2, ct, cond, a, x⟩ else .cmpui ⟨pd1, pd2, ct, cond, a, x⟩) s)) →
      (c = true ↔ condHolds cond.toNat signed (opS s a.toNat) b) →
      ∃ t, out = .next t ∧ WrotePreds s t fun n =>
        let r := compareResult (ct.toNat % 4) s.f.cur.q (c != ct.getLsbD 2) (preg s pd1.toNat, preg s pd2.toNat)
        if n = 0 then true else if n = pd1.toNat then r.1 else if n = pd2.toNat then r.2 else preg s n

/-- 03 R69: predicate logic, and the moves between the predicate file and a scalar register. -/
def Obligations.PredicateLogicAndMoves : Prop :=
  ∀ (o : RRR) (s : State), s.f.cur.q = true →
    (∀ p ∈ predicateOps, ∃ t, exec (p.1 o) s = .next t ∧ WrotePred s t o.d.toNat (p.2 (preg s o.a.toNat) (preg s o.b.toNat))) ∧
    (∃ t, exec (.movsp o) s = .next t ∧ WrotePreds s t fun n =>
      if n ≠ 0 ∧ (opS s o.b.toNat).getLsbD n = true then (opS s o.a.toNat).getLsbD n else preg s n) ∧
    (∃ t v, exec (.movps o) s = .next t ∧ WroteScalar s t o.d.toNat v ∧ ∀ n, n < 64 → v.getLsbD n = preg s n)

/-- 03 R70, 02 R41, R42: MFSR reads each special register; kernel mode reads no RO-P register, and raises 0x02 (08 R150) instead. TEPC is the frame's word, and is stated
here where the kernel has a trap area. -/
def Obligations.SpecialRegistersRead : Prop :=
  ∀ (o : RRI) (s : State), s.f.cur.q = true → o.imm.toNat ∈ srAll →
    if o.imm.toNat ∈ srHidden ∧ s.f.handler = false then exec (.mfsr o) s = .next (raiseD s 0x02 0 0)
    else ∃ t v, exec (.mfsr o) s = .next t ∧ WroteScalar s t o.d.toNat v ∧
      (∀ f, (o.imm.toNat, f) ∈ srRead → v.toNat = f s) ∧
      (o.imm.toNat = 0x002 → ∀ i, i < 64 → v.getLsbD i = (decide (i < 15 ∧ i < s.x.kndim) &&
        s.l.coord.getLsbD (s.x.dimmap.toNat / 2 ^ (4 * i) % 16))) ∧
      (∀ j, j < 16 → (o.imm.toNat = 0x040 + j → v = (range s j).base) ∧ (o.imm.toNat = 0x050 + j → v = (range s j).limit) ∧
        (o.imm.toNat = 0x060 + j → v.toNat = (range s j).off.toNat)) ∧
      (o.imm.toNat = 0x029 → v = if s.kn.trapen then BitVec.ofNat 64 (leNat (readBytes s.m.cells 0xF4008 8)) else 0)

/-- 03 R70, 02 R41, R42: MTSR writes what the register keeps of S[A], and nothing else that a special register shows; writes of RO registers
are ignored; a kernel-mode write of a privileged register raises 0x02. That an RO-P register keeps its value under a handler's write is the model's
reading of RO-P (01 R11), and that the clamp of LSSCL is of all 64 bits of S[A] its choice (log 26). -/
def Obligations.SpecialRegistersWritten : Prop :=
  ∀ (o : RRI) (s : State), s.f.cur.q = true → o.imm.toNat ∈ srAll →
    if o.imm.toNat ∈ srPrivileged ∧ s.f.handler = false then exec (.mtsr o) s = .next (raiseD s 0x02 0 0)
    else if o.imm.toNat ∈ srReadOnly ++ srHidden then exec (.mtsr o) s = .next s
    else ∃ t, exec (.mtsr o) s = .next t ∧
      (∀ f, (o.imm.toNat, f) ∈ srKeeps → (readSR t o.imm.toNat).toNat = f (readSR s o.imm.toNat).toNat (opS s o.a.toNat).toNat) ∧
      (∀ n ∈ srAll, n ≠ o.imm.toNat → ¬(n = 0x002 ∧ o.imm.toNat = 0x021) → readSR t n = readSR s n) ∧
      (o.imm.toNat = 0x029 → s.kn.trapen = true → readSR t 0x029 = opS s o.a.toNat) ∧
      (o.imm.toNat ≠ 0x029 → t.m = s.m) ∧ (o.imm.toNat = 0x029 → KeepsMemoryBut s t 0xF4008 8) ∧
      t = { s with x := t.x, m := { s.m with cells := t.m.cells, bad := t.m.bad }, f := { s.f with jr := t.f.jr } }

/-- 03 R71, R72, R79: the moves to and from address generators and bobbins, and RDLI. A written field of a generator returns its running position to
the start, and RESET of a bobbin frees every slot. SLOT and COUNT are clamped from the signed number that S[A] holds (15 R276, log 26). -/
def Obligations.GeneratorsBobbinsAndLoopIndices : Prop :=
  ∀ (o : RRR) (s : State), s.f.cur.q = true →
    let v := opS s o.a.toNat
    let g := { gen s o.d.toNat with idx := Four.all 0 }
    let b := bobbin s o.d.toNat
    (∃ t, exec (.mtag o) s = .next t ∧ ∀ j, j < 4 →
      (o.xop = 0 → WroteGen s t o.d.toNat { g with base := v }) ∧
      (o.xop = 1 + j → WroteGen s t o.d.toNat { g with stride := g.stride.set j (v.truncate 32) }) ∧
      (o.xop = 5 + j → WroteGen s t o.d.toNat { g with extent := g.extent.set j (v.truncate 24) }) ∧
      (o.xop = 9 → WroteGen s t o.d.toNat { g with dir := v.truncate 4 })) ∧
    (∃ t x, exec (.mfag o) s = .next t ∧ WroteScalar s t o.d.toNat x ∧ ∀ j, j < 4 →
      (o.xop = 0 → x = (gen s o.a.toNat).base) ∧ (o.xop = 1 + j → x.toInt = ((gen s o.a.toNat).stride.get j).toInt) ∧
      (o.xop = 5 + j → x.toNat = ((gen s o.a.toNat).extent.get j).toNat) ∧ (o.xop = 9 → x.toNat = (gen s o.a.toNat).dir.toNat)) ∧
    (∃ t, exec (.mtbb o) s = .next t ∧
      (o.xop = 0 → WroteBobbin s t o.d.toNat { b with base := BitVec.ofNat 20 (v.toNat / 128 % 2 ^ 13 * 128) }) ∧
      (o.xop = 1 → WroteBobbin s t o.d.toNat { b with slot := (min (max v.toInt 1) 64).toNat }) ∧
      (o.xop = 2 → WroteBobbin s t o.d.toNat { b with count := (min (max v.toInt 1) 256).toNat }) ∧
      (o.xop = 5 → ∃ c, WroteBobbin s t o.d.toNat c ∧ c.base = b.base ∧ c.slot = b.slot ∧ c.count = b.count ∧ c.filled = 0 ∧
        (b.slot ≠ 0 → c.free = b.count) ∧ (b.slot = 0 → c.free = 0))) ∧
    (∃ t x, exec (.mfbb o) s = .next t ∧ WroteScalar s t o.d.toNat (BitVec.ofNat 64 x) ∧ (o.xop = 0 → x = (bobbin s o.a.toNat).base.toNat) ∧
      (o.xop = 1 → x = (bobbin s o.a.toNat).slot) ∧ (o.xop = 2 → x = (bobbin s o.a.toNat).count) ∧
      (o.xop = 3 → x = (bobbin s o.a.toNat).free) ∧ (o.xop = 4 → x = (bobbin s o.a.toNat).filled)) ∧
    (∃ t, exec (.rdli o) s = .next t ∧
      WroteScalar s t o.d.toNat (match s.r.loops[o.a.toNat]? with | some l => if l.active then l.index else 0 | none => 0))

/-- 03 R73, R74, R80 to R82: the branch instructions ask the dispatch of their bundle for their target, or for the exit of the kernel; CALL and JMPR
write the return address, JMPR after its target has been read. YIELD, TRAP and ERET act behind their bundle; ERET outside a handler raises 0x02. -/
def Obligations.ControlTransfersAskTheDispatch : Prop :=
  ∀ (s : State), s.f.cur.q = true →
    let pc := s.f.cur.pc
    (∀ o : BRN, exec (.br o) s = .next (setAct s (.goto (bundleOff pc o.off.toInt)))) ∧
    (∀ o : BRN, ∃ t, exec (.call o) s = .next (setAct t (.goto (bundleOff pc o.off.toInt))) ∧ WroteScalar s t o.a.toNat (pc + 64)) ∧
    (∀ o : RRR, ∃ t, exec (.jmpr o) s = .next (setAct t (.goto (bundleAt (opS s o.a.toNat)))) ∧ WroteScalar s t o.d.toNat (pc + 64)) ∧
    (∀ o : RRR, exec (.ret o) s = .next (setAct s (if opS s o.a.toNat = 0 then .exit else .goto (bundleAt (opS s o.a.toNat))))) ∧
    exec .yield s = .next (setAct s .yield) ∧
    (∀ o : RI, exec (.trap o) s = .next (setAct s (.softTrap (o.imm.toNat % 2 ^ 16)))) ∧
    (s.f.handler = true → exec .eret s = .next (setAct s .eret)) ∧
    (s.f.handler = false → exec .eret s = .next (raiseD s 0x02 0 0))

/-- 03 R76, R78: LOOP pushes a level, or goes past its body where the count is 0; BRK pops the levels up to its own and goes past that level's END;
the loop-stack cause 0x04 otherwise. A level that a handler has marked inactive (08 R162) is no level. -/
def Obligations.LoopsPushAndBreak : Prop :=
  ∀ (s : State), s.f.cur.q = true →
    let pc := s.f.cur.pc
    (∀ o : BRN, let n := opS s o.a.toNat
      if 6 ≤ (s.r.loops.filter fun l => l.active).length ∨ (∃ l ∈ s.r.loops, l.active = true ∧ l.stop = pc) then exec (.loop o) s = .next (raiseD s 0x04 0 0)
      else if n = 0 then exec (.loop o) s = .next (setAct s (.goto (bundleOff pc (o.off.toInt + 1))))
      else ∃ t, exec (.loop o) s = .next t ∧ WroteLoops s t ((⟨n, 0, pc + 64, bundleOff pc o.off.toInt, true⟩ :: s.r.loops).take 6)) ∧
    (∀ o : RI, (∀ l, s.r.loops[o.d.toNat]? = some l → l.active = true →
        ∃ t, exec (.brk o) s = .next (setAct t (.goto (bundleAt l.stop + 64))) ∧ WroteLoops s t (s.r.loops.drop (o.d.toNat + 1))) ∧
      ((∀ l, s.r.loops[o.d.toNat]? = some l → l.active = false) → exec (.brk o) s = .next (raiseD s 0x04 0 0)))

/-- 03 R73, R77, R80, R81: what follows a dispatched bundle: the target of a taken transfer, with the loop stack as it stands, else what the end check
gives; every trailing queue takes those of the bundle's slots that are its own, in order. A taken transfer, a loop's back edge, a loop's exit and a CBR (23 R376) open a
new stop group (01 R27); nothing else does. -/
def Obligations.NextBundleAndEndCheck : Prop :=
  ∀ (s : State) (fmtr : BitVec 32) (pend : List PendFmt) (idx : List W64) (re : Bool) (grp : List Opd) (sc : Exe) (xs : List Exe),
    let t := dispatched s fmtr pend idx re grp sc xs
    t.f.bsn = s.f.bsn + 1 ∧
    (∀ a, s.f.cur.act = .goto a → t.f.pc = a ∧ t.r.loops = s.r.loops ∧ t.f.grp = []) ∧
    (s.f.cur.act = .exit → t.f.fe = .exiting .ok ∧ t.r.loops = s.r.loops) ∧
    (s.f.cur.act = .eret → t.f.fe = .returning ∧ t.r.loops = s.r.loops) ∧
    (∀ c, s.f.cur.act = .softTrap c → ∃ i, t.f.fe = .draining (some i) ∧ i.cause = 0x03 ∧ i.detail = c ∧ i.fbundle = s.f.pc ∧ i.fbsn = s.f.bsn) ∧
    (let atEnd : Prop := ∃ l, s.r.loops.head? = some l ∧ l.active = true ∧ l.stop = s.f.pc
     let cbr : Prop := ∃ o, sc.instr = .cbr o
     (cbr → t.f.grp = []) ∧ (¬cbr → s.f.cur.act = .exit ∨ s.f.cur.act = .eret → t.f.grp = grp) ∧
     (s.f.cur.act = .none ∨ s.f.cur.act = .yield ∨ (∃ c, s.f.cur.act = .softTrap c) →
       EndCheck s.f.pc s.r.loops t.r.loops t.f.pc ∧ (atEnd → t.f.grp = []) ∧ (¬atEnd → ¬cbr → t.f.grp = grp))) ∧
    (∀ q ∈ allQueues, ∃ e, (getQ t q).getLast? = some e ∧ (getQ t q).length = (getQ s q).length + 1 ∧
      e.bsn = s.f.bsn ∧ e.pc = s.f.pc ∧ e.idx = idx ∧ e.realign = re ∧ e.fmtr = fmtr ∧
      ((xs.map Exe.k).Nodup → (∀ p ∈ allQueues, ∀ y ∈ getQ s p, y.bsn ≠ s.f.bsn) →
        (e.slots.map fun y => (y.k, y.instr, y.q)) = ((xs.filter fun y => queueOf y.k = q).map fun y => (y.k, y.instr, y.q))))

/-- 03 R84: LSCALE, over the registers of R83. -/
def Obligations.LossScaleSteps : Prop :=
  ∀ (o : RRR) (s : State), s.f.cur.q = true →
    let ov := preg s o.a.toNat
    let r := lscaleResult (s.x.lscfg.toNat / 2 ^ 40) (s.x.lscfg.toNat / 2 ^ 32 % 256) (s.x.lscfg.toNat % 2 ^ 32) s.x.lsscl.toNat s.x.lscnt.toNat ov
    ∃ t, exec (.lscale o) s = .next t ∧ t.x.lsscl = BitVec.ofNat 8 r.1 ∧ t.x.lscnt = BitVec.ofNat 32 r.2.1 ∧
      t.x.stky = (if r.2.2 then s.x.stky ||| 4 else s.x.stky) ∧
      (∀ n, n < 64 → preg t n = if n = o.d.toNat ∧ n ≠ 0 then ov else preg s n) ∧
      (∀ n, sreg t n = if n = o.b.toNat ∧ n ≠ 0 then BitVec.ofNat 64 (if r.1 = 0 then 0x00400000 else r.1 * 2 ^ 23) else sreg s n) ∧
      t = { s with r := { s.r with s := t.r.s, p := t.r.p }, f := { s.f with jr := t.f.jr },
                   x := { s.x with lsscl := t.x.lsscl, lscnt := t.x.lscnt, stky := t.x.stky } }

/-- 23 R371: BKT takes the first boundary that is not below the count, and jumps by its number; above all boundaries it sets BKTOVF. -/
def Obligations.BucketBranchTakesFirstBoundary : Prop :=
  ∀ (o : RRR) (s : State), s.f.cur.q = true →
    let bnd (q : Nat) : Nat := (opS s (o.b.toNat + q / 4)).toNat / 2 ^ (16 * (q % 4)) % 2 ^ 16
    let c := opS s o.a.toNat
    (∀ q, q ≤ o.xop → c.toNat ≤ bnd q → (∀ j, j < q → bnd j < c.toNat) →
      ∃ t, exec (.bkt o) s = .next (setAct t (.goto (bundleOff s.f.cur.pc (1 + q)))) ∧ WroteScalar s t o.d.toNat (BitVec.ofNat 64 (bnd q))) ∧
    ((∀ q, q ≤ o.xop → bnd q < c.toNat) →
      ∃ t u, exec (.bkt o) s = .next (setAct u (.goto (bundleOff s.f.cur.pc (2 + o.xop)))) ∧ WroteScalar s t o.d.toNat c ∧
        u = { t with x := { t.x with stky := s.x.stky ||| 8 }, f := { t.f with jr := u.f.jr } })

/-- 23 R373, R374: MEMBW starts a group's sequence anew, MEMBR and CBST read it; a group that the header does not name raises 0x34, but not under
CBST. MEMBW holds dispatch while a CBR of the group is unresolved. Contributions that have come ahead of the membership are entered then, and where there
are none MEMBW does nothing more. -/
def Obligations.MembershipAndStatus : Prop :=
  (∀ (o : RRR) (s : State), s.f.cur.q = true → o.d.toNat < 4 →
    (s.kn.members.getLsbD o.d.toNat = false → exec (.membw o) s = .next (raiseD s 0x34 0 0)) ∧
    (s.kn.members.getLsbD o.d.toNat = true → (s.f.groups.get o.d.toNat).wait = true → exec (.membw o) s = .next (setCtl s .stall)) ∧
    (s.kn.members.getLsbD o.d.toNat = true → (s.f.groups.get o.d.toNat).wait = false →
      ∃ t, exec (.membw o) s = .next (replayEarly t o.d.toNat) ∧
        ((∀ q ∈ t.l.early, q.id ≠ groupId t o.d.toNat) → replayEarly t o.d.toNat = t) ∧
        let x := t.f.groups.get o.d.toNat
        (∀ i, i < 15 → x.gdim.getLsbD i = ((opS s o.a.toNat).getLsbD i && decide (i < s.x.kndim))) ∧
        (∀ i, i < 64 → x.gcore.getLsbD i = (((opS s o.b.toNat).getLsbD i && s.kn.coreids.getLsbD i) || decide (i = s.x.coreid.toNat))) ∧
        x.seq = 0 ∧ x.broken = false ∧ (∀ g, g < 4 → g ≠ o.d.toNat → t.f.groups.get g = s.f.groups.get g) ∧
        (let mine (p : Partial) : Prop := p.id.owner = s.kn.owner ∧ p.id.ltag = s.kn.ltag ∧ p.id.g = o.d.toNat
         ∀ p, p ∈ t.l.partials ↔ p ∈ s.l.partials ∧
           (mine p → groupId t o.d.toNat = groupId s o.d.toNat ∧ p.n = 0 ∧ ∀ c ∈ p.cores, c.1 ≠ s.x.coreid)) ∧
        (∀ q, q ∈ t.l.early ↔ q ∈ s.l.early ∧ (q.id ≠ groupId t o.d.toNat ∨ q.n = 0)) ∧
        t = { s with f := { s.f with groups := t.f.groups }, l := { s.l with partials := t.l.partials, early := t.l.early } })) ∧
  ∀ (o : RRR) (s : State), s.f.cur.q = true → o.a.toNat < 4 →
    let x := s.f.groups.get o.a.toNat
    (s.kn.members.getLsbD o.a.toNat = false → exec (.membr o) s = .next (raiseD s 0x34 0 0) ∧
      ∃ t, exec (.cbst o) s = .next t ∧ WroteScalar s t o.d.toNat 0) ∧
    (s.kn.members.getLsbD o.a.toNat = true →
      (o.xop < 2 → ∃ t v, exec (.membr o) s = .next t ∧ WroteScalar s t o.d.toNat v ∧
        v.toNat = if o.xop = 0 then x.gdim.toNat else x.gcore.toNat) ∧
      ∃ t v, exec (.cbst o) s = .next t ∧ WroteScalar s t o.d.toNat v ∧ v.toNat / 2 ^ 32 = x.seq.toNat ∧ v.toNat % 2 ^ 32 < 256 ∧
        v.getLsbD 0 = false ∧ v.getLsbD 1 = false ∧ v.getLsbD 2 = x.lop ∧ v.getLsbD 3 = x.last ∧ v.getLsbD 4 = x.pred ∧ v.getLsbD 5 = x.wait ∧
        v.getLsbD 6 = x.owed ∧ v.getLsbD 7 = x.broken)

/-! ### Qualifiers, collective branches, causes -/

/-- 01 R17, R18: a slot whose q is false changes nothing; an engine instruction, and a sync instruction with tokens, issues only an empty command,
whose token completes after those that it names. NOP, MARK, RWFL and REALN change nothing at issue, whatever q is: their effects are the
dispatch's. Compares are stated apart. -/
def Obligations.QualifierFalseDoesNothing : Prop :=
  (∀ s, exec .nop s = .next s ∧ exec .mark s = .next s ∧ exec .rwfl s = .next s ∧ exec .realn s = .next s) ∧
  ∀ (s : State), s.f.cur.q = false →
    (∀ f ∈ rrrForms, ∀ o, exec (f o) s = .next s) ∧ (∀ f ∈ rriForms, ∀ o, exec (f o) s = .next s) ∧
    (∀ f ∈ riForms, ∀ o, exec (f o) s = .next s) ∧ (∀ f ∈ brnForms, ∀ o, exec (f o) s = .next s) ∧
    (∀ f ∈ memForms, ∀ o, exec (f o) s = .next s) ∧ (∀ f ∈ synForms, ∀ o, exec (f o) s = .next s) ∧
    exec .yield s = .next s ∧ exec .eret s = .next s ∧
    (∀ f ∈ engForms, ∀ o, ∃ t, exec (f o) s = .next t ∧ OnlyTokens s t ∧
      IssuedCmd s t o.kp o.consumed fun c => c.work = .null ∧ c.active = true ∧ c.time = none) ∧
    (∀ f ∈ syeForms, ∀ o, ∃ t, exec (f o) s = .next t ∧ OnlyTokens s t ∧
      IssuedCmd s t o.kp o.consumed fun c => c.work = .null ∧ c.active = true ∧ c.time = none)

/-- 23 R376, R378: CBR transfers by a known result, else contributes its predicate once and runs ahead on what was contributed; CBRX contributes in its
place. The last contribution of a die's part of the group resolves it at dispatch where the group spans no dimension, that of a group of one member among them, and else goes to the
partner over the dimension (25 R388). -/
def Obligations.CollectiveBranchContributesOnce : Prop :=
  (∀ (o : BRN) (s : State), s.f.handler = false → s.kn.members.getLsbD (o.a.toNat / 64) = true → s.f.ahead = none →
    let g := o.a.toNat / 64
    let x := s.f.groups.get g
    let v := preg s (o.a.toNat % 64)
    let any := o.off.getLsbD 39
    let target := bundleOff s.f.cur.pc (o.off.truncate 39).toInt
    let ahead (t : State) (p : Bool) : State :=
      let u := { t with f := { t.f with ahead := some ⟨g, s.f.cur.pc, s.f.bsn, p⟩ } }
      if p then setAct u (.goto target) else u
    (x.broken = false →
      (∀ r, x.resKept = some r → exec (.cbr o) s = .next (if r then setAct s (.goto target) else s)) ∧
      (x.resKept = none → x.contributed = true → ∃ t, exec (.cbr o) s = .next (ahead t x.pred) ∧
        t = { s with f := { s.f with groups := s.f.groups.set g { x with any := any } } }) ∧
      (x.resKept = none → x.contributed = false → running s = true → StillWaits s g any →
        ∃ t, exec (.cbr o) s = .next (ahead t v) ∧ HasContributed s t g any v) ∧
      (x.resKept = none → x.contributed = false → running s = true → x.gdim = 0 → x.gcore = 1#64 <<< s.x.coreid.toNat →
        s.l.partials = [] → ∃ t, exec (.cbr o) s = .next (if v then setAct t (.goto target) else t) ∧
          (t.f.groups.get g).seq = x.seq + 1 ∧ (t.f.groups.get g).last = v ∧ (t.f.groups.get g).wait = false ∧
          t = { s with f := { s.f with groups := t.f.groups } }) ∧
      (∀ cs : List (BitVec 6 × Bool), x.resKept = none → x.contributed = false → running s = true → x.gdim = 0 → x.gcore.getLsbD s.x.coreid.toNat = true →
        (∀ c, c < 64 → x.gcore.getLsbD c = true → c ≠ s.x.coreid.toNat → ∃ q ∈ cs, q.1.toNat = c) → (∀ q ∈ cs, q.1 ≠ s.x.coreid) →
        s.l.partials = [⟨groupId s g, x.seq, any, cs, [], []⟩] →
        let r := if any then v || cs.any Prod.snd else v && cs.all Prod.snd
        ∃ t, exec (.cbr o) s = .next (if r then setAct t (.goto target) else t) ∧ (t.f.groups.get g).seq = x.seq + 1 ∧ (t.f.groups.get g).last = r ∧
          (t.f.groups.get g).wait = false ∧ t = { s with f := { s.f with groups := t.f.groups }, l := { s.l with partials := [] } }) ∧
      (∀ l, x.resKept = none → x.contributed = false → running s = true → l < 15 → (∀ i, i < 15 → x.gdim.getLsbD i = decide (i = l)) →
        x.gcore = 1#64 <<< s.x.coreid.toNat → s.l.partials = [] → ∃ t : State, exec (.cbr o) s = .next (ahead t v) ∧
          t.f.groups.get g = { x with any := any, owed := false, pred := v, wait := true, contributed := true, since := if x.stopped = 0 then s.tick else 0 } ∧
          (∀ h, h < 4 → h ≠ g → t.f.groups.get h = s.f.groups.get h) ∧ t.l.partials = [⟨groupId s g, x.seq, any, [(s.x.coreid, v)], [], [l]⟩] ∧
          OnCord t (s.l.coord ^^^ (1#15 <<< (s.x.dimmap.toNat / 2 ^ (4 * l) % 16))) (.contribution ⟨groupId s g, x.seq, any, v, .dim l⟩) ∧
          t = { s with f := { s.f with groups := t.f.groups }, l := { s.l with partials := t.l.partials, ports := t.l.ports, cordTx := t.l.cordTx } }))) ∧
  ∀ (o : RRR) (s : State), s.f.cur.q = true → s.f.handler = true → s.kn.members.getLsbD o.d.toNat = true → o.d.toNat < 4 →
    let x := s.f.groups.get o.d.toNat
    x.owed = true → running s = true → StillWaits s o.d.toNat x.any →
      ∃ t, exec (.cbrx o) s = .next t ∧ HasContributed s t o.d.toNat x.any (preg s o.a.toNat)

/-- 23 R375 to R378: where CBR and CBRX contribute nothing and raise a cause, and where CBR holds dispatch. -/
def Obligations.CollectiveBranchTraps : Prop :=
  (∀ (o : BRN) (s : State), let g := o.a.toNat / 64
    (s.f.handler = true → exec (.cbr o) s = .next (raiseD s 0x02 0 0)) ∧
    (s.f.handler = false → s.kn.members.getLsbD g = false → exec (.cbr o) s = .next (raiseD s 0x34 0 0)) ∧
    (s.f.handler = false → s.kn.members.getLsbD g = true →
      (s.f.ahead.isSome = true → exec (.cbr o) s = .next (setCtl s .stall)) ∧
      (s.f.ahead = none → (s.f.groups.get g).broken = true → exec (.cbr o) s = .next (take33 s g)))) ∧
  ∀ (o : RRR) (s : State), s.f.cur.q = true → o.d.toNat < 4 →
    (s.f.handler = false → exec (.cbrx o) s = .next (raiseD s 0x35 0 0)) ∧
    (s.f.handler = true → s.kn.members.getLsbD o.d.toNat = false → exec (.cbrx o) s = .next (raiseD s 0x34 0 0)) ∧
    (s.f.handler = true → s.kn.members.getLsbD o.d.toNat = true → (s.f.groups.get o.d.toNat).owed = false →
      exec (.cbrx o) s = .next (raiseD s 0x35 0 0))

/-- 08 R149, R155 to R157, R163, R164: a cause of way D refuses its bundle and is entered forward once everything has drained; a cause of way R rolls
back; in a handler either is a double trap, unless the kernel already ends with one; without TRAPEN the kernel ends with the fault status. -/
def Obligations.CausesAreTakenByTheirWay : Prop :=
  ∀ (s : State) (cause detail slot : Nat) (a : W64) (i : TrapInfo) (tepc : W64),
    let d : TrapInfo := ⟨cause, detail, 0, slot, s.f.pc, s.f.bsn, 0, none⟩
    (s.f.ahead.isSome = true → raiseD s cause detail slot = setCtl s .stall) ∧
    (s.f.ahead = none → drained s = true → raiseD s cause detail slot = enterForward s d s.f.pc) ∧
    (s.f.ahead = none → drained s = false → (raiseD s cause detail slot).f.fe = .draining (some d)) ∧
    (s.f.cur.rw = none → s.f.handler = false → s.f.fe = .run → s.f.ahead = none →
      raiseR s cause detail a =
        enterRollback s ⟨cause, detail, queueCode s.f.cur.k, s.f.cur.k, s.f.cur.pc, s.f.cur.bsn, a, none⟩) ∧
    (s.f.handler = true → (∀ e, s.f.fe = .exiting e → e.fault = false) →
      (∃ e, (raiseR s cause detail a).f.fe = .exiting e ∧ e.fault = true ∧ e.tcause.toNat % 64 = 0x39 ∧
        e.tcause.toNat / 2 ^ 48 = cause % 2 ^ 16 ∧ e.faddr = 0) ∧
      (∃ e, (enterForward s i tepc).f.fe = .exiting e ∧ e.fault = true ∧ e.tcause.toNat % 64 = 0x39 ∧
        e.tcause.toNat / 2 ^ 48 = i.cause % 2 ^ 16 ∧ e.fbundle = i.fbundle ∧ e.faddr = 0)) ∧
    (s.f.handler = false → s.kn.trapen = false →
      (∃ e, (enterForward s i tepc).f.fe = .exiting e ∧ e.fault = true ∧ e.tcause.toNat % 64 = i.cause % 64 ∧
        e.fbundle = i.fbundle ∧ e.faddr = i.faddr) ∧
      ∃ e, (enterRollback s i).f.fe = .exiting e ∧ e.fault = true ∧ e.tcause.toNat % 64 = i.cause % 64 ∧
        e.tcause.getLsbD 15 = true ∧ (enterRollback s i).m.cells = s.m.cells)

/-- 08 R153 to R155: forward entry writes the frame, enters handler mode at TVEC, and leaves every register, the gate, the journal and the mark. -/
def Obligations.ForwardEntryWritesTheFrame : Prop :=
  ∀ (s : State) (i : TrapInfo) (tepc : W64), s.f.handler = false → s.kn.trapen = true →
    let t := enterForward s i tepc
    AtHandler s t ∧ FrameOf s t i false tepc (records s) ∧ t.r = s.r ∧ t.f.gate = s.f.gate ∧ t.f.jr = s.f.jr ∧ t.f.mark = s.f.mark ∧
      t.f.bsn = s.f.bsn ∧ t.x = { s.x with tcause := t.x.tcause, pend := [] } ∧ t.e = s.e ∧ t.l = s.l ∧ t.c = s.c ∧ t.h = s.h

/-- 05 R121, 08 R157: rollback entry discards the gate, the queues and the results in flight, restores what the journal holds, and writes the frame
with the mark's position and records. -/
def Obligations.RollbackEntryReturnsToTheMark : Prop :=
  ∀ (s : State) (i : TrapInfo), s.f.handler = false → s.kn.trapen = true →
    let u := rollbackCore s
    let t := enterRollback s i
    AtHandler s t ∧ FrameOf u t i true s.f.mark.pc s.f.mark.recs ∧ t.r = u.r ∧ u.m.cells = s.m.cells ∧ u.f.mark = s.f.mark ∧
      u.x.fmtr = s.f.mark.fmtr ∧ u.x.pend = s.f.mark.pend ∧ t.f.gate = [] ∧ t.f.qs = .empty ∧ t.f.steps = [] ∧ t.f.jr = .empty ∧
      (∀ r ∈ t.m.reqs, r.src = .core → r.firm = true) ∧ t.m.accs = []

/-- 05 R121, 08 R161: a rollback undoes what kernel mode writes to a journaled register after the mark; what a handler writes to a register that was not
journaled stays. -/
def Obligations.RollbackUndoesKernelWrites : Prop :=
  ∀ (s : State), (s.f.handler = false →
      (∀ n x m, sreg (rollbackCore (setS s n x)) m = sreg (rollbackCore s) m) ∧
      (∀ n b m, m < 64 → n < 64 → preg (rollbackCore (setP s n b)) m = preg (rollbackCore s) m) ∧
      (∀ n x m, vreg (rollbackCore (setV s n x)) m = vreg (rollbackCore s) m) ∧
      (∀ n x m, mreg (rollbackCore (setM s n x)) m = mreg (rollbackCore s) m) ∧
      (∀ n x m, gen (rollbackCore (setGen s n x)) m = gen (rollbackCore s) m) ∧
      (∀ l, (rollbackCore (setLoops s l)).r.loops = (rollbackCore s).r.loops) ∧
      (∀ x, (rollbackCore (setLsscl s x)).x = (rollbackCore s).x ∧ (rollbackCore (setStky s (x.truncate 4))).x = (rollbackCore s).x) ∧
      (∀ x, (rollbackCore (setLscnt s x)).x = (rollbackCore s).x) ∧
      (∀ n b m, n < 32 → m < 32 → claimed (rollbackCore (setClaim s n b)) m = claimed (rollbackCore s) m)) ∧
    (s.f.handler = true → ∀ n x, n ≠ 0 → mapHas s.f.jr.s n = false → sreg (rollbackCore (setS s n x)) n = x)

/-- 08 R162: behind an ERET, once the handler's bundles have issued, the frame as it stands is restored: position, loop stack, FMTR and latch records, each
to land in the REM-th issue cycle of its queue from then on; with NREC above 16 or NPFMT above 4 the return is a double trap; that NPFMT's reserved bits count is the model's choice (log 29). A return to the
wait behind a RET goes on waiting (log 18), and a return to the mark of a commit finds the held slots behind it again, with the mark behind them due (25 R391). -/
def Obligations.ReturnRestoresTheFrame : Prop :=
  ∀ (s : State), s.f.fe = .returning → s.f.handler = true → markReady s = true → s.f.latches = [] →
    (16 < fieldAt s 0x25 1 ∨ 4 < fieldAt s 0x2C 4 → s.x.tcause.toNat % 64 ≠ 0x38 →
      ∃ t e, exec .bundleDispatch s = .next t ∧ t.f.fe = .exiting e ∧ e.fault = true ∧ e.tcause.toNat % 64 = 0x39) ∧
    (∀ rs : List LatchRec, s.x.tcause.toNat % 64 ≠ 0x38 → fieldAt s 0x25 1 = rs.length → rs.length ≤ 16 → fieldAt s 0x2C 4 = 0 →
      (∀ k r, rs[k]? = some r → FrameHolds s k r ∧ 1 ≤ r.left ∧ r.left ≤ 8 ∧
        match r.dst with | .v n => n < (if s.kn.ver = 1 then 128 else 192) | .mk n => n < 16) →
      ∃ t, exec .bundleDispatch s = .next t ∧ t.f.handler = false ∧
        t.f.qs = (if s.f.atMark then s.f.mark.held else s.f.qs) ∧
        t.f.fe = (if s.f.retAt = some t.f.pc ∨ (s.f.atMark = true ∧ s.f.mark.exit = true ∧ t.f.pc = s.f.mark.pc) then .exiting .ok
          else if (nextMarked t 0).isSome then .marking else .run) ∧ t.f.markBehind = nextMarked t 0 ∧ t.f.grp = [] ∧
        t.f.pc = bundleAt (BitVec.ofNat 64 (fieldAt s 0x08 8)) ∧ t.x.fmtr.toNat = fieldAt s 0x28 4 % 2 ^ 20 ∧ t.x.pend = [] ∧
        t.r = { s.r with loops := t.r.loops } ∧
        (∀ j, j < 6 → (fieldAt s 0x24 1).testBit j = true → t.r.loops[j]? = some
          ⟨BitVec.ofNat 64 (fieldAt s (0x80 + 32 * j) 8), BitVec.ofNat 64 (fieldAt s (0x88 + 32 * j) 8),
           BitVec.ofNat 64 (fieldAt s (0x90 + 32 * j) 8), BitVec.ofNat 64 (fieldAt s (0x98 + 32 * j) 8), true⟩) ∧
        (∀ (j : Nat) (l : Loop), t.r.loops[j]? = some l → j < 6 ∧ l.active = (fieldAt s 0x24 1).testBit j) ∧
        t.f.latches.length = rs.length ∧ t.m = s.m ∧
        ∀ (k : Nat) (r : LatchRec) (l : Latch), rs[k]? = some r → t.f.latches[k]? = some l → l.q = r.q ∧ l.dst = r.dst ∧
          (match (getQ t (queueOfV r.q))[r.left - 1]? with
           | some e => l.due = e.bsn | none => l.due + 1 + (getQ t (queueOfV r.q)).length = s.f.bsn + r.left) ∧
          match r.dst with
          | .v _ => l.val = r.val ∧ ∀ j, j < 16384 → l.wm.getLsbD j = r.wm.getLsbD (j / 4 * 4)
          | .mk _ => ∀ j, j < 512 → l.val.getLsbD j = r.val.getLsbD j ∧ l.wm.getLsbD j = r.wm.getLsbD j)

/-! ### The vector slots -/

/-- 04 R87, R89, 23 R368: every vector instruction runs on every operand: its result is in flight, bound for D, and lands in the issue cycle of the
bundle L later in its own queue; nothing else changes. (The counter of free choices, the model's own field, may advance.) -/
def Obligations.VectorResultsAreInFlight : Prop :=
  ∀ p ∈ vectorOps, ∀ (o : RRR) (s : State), s.f.cur.q = true →
    ∃ t l, exec (p.1 o) s = .next t ∧ t.f.latches = s.f.latches ++ [l] ∧ l.q = (if s.f.cur.k = 2 then .vb else .va) ∧
      l.dst = (if p.2.2 then .mk o.d.toNat else .v o.d.toNat) ∧ l.bsn = s.f.cur.bsn ∧ l.due = s.f.cur.bsn + p.2.1 (vecFormat o s) ∧
      t = { s with f := { s.f with latches := t.f.latches }, fresh := t.fresh }

/-- 04 R95, R86: the INT32 results, element by element, written where the element mask governs. -/
def Obligations.VectorIntegerResults : Prop :=
  ∀ p ∈ vectorIntAll, ∀ (o : RRR) (s : State), s.f.cur.q = true → vecFormat o s = 8 → (o.sat = true → p.1 o ≠ .vMul o) → NoMix s →
    PutsInFlight (p.1 o) s fun l =>
      (∀ i, i < 512 → laneAt l.val 32 i = p.2 o (laneAt (vreg s o.a.toNat) 32 i) (laneAt (vreg s o.b.toNat) 32 i)) ∧
      WritesGoverned o s l.wm

/-- 04 R91, R92: ADD, SUB, MUL and the fused forms round the exact result once, by RM, lane by lane, in FP32 and BF16: a NaN operand or an invalid operation gives
the canonical NaN, infinities go as the exact arithmetic has them, an overflow goes by the mode, and a zero has the sign that the rules give it. -/
def Obligations.VectorFloatArithmeticRoundsOnce : Prop :=
  ∀ p ∈ floatForms, ∀ q ∈ vecFmts, ∀ (o : RRR) (s : State), s.f.cur.q = true → vecFormat o s = q.1 → NoMix s →
    PutsInFlight (p.1 o) s fun l => WritesGoverned o s l.wm ∧
      ∀ i, i < 16384 / q.2.w → ∃ a b c z, Stands q.1 (laneAt (vreg s o.a.toNat) q.2.w i).toNat a ∧ Stands q.1 (laneAt (vreg s o.b.toNat) q.2.w i).toNat b ∧
        Stands q.1 (laneAt (vreg s o.c.toNat) q.2.w i).toNat c ∧ p.2 (decide (o.rm = 3)) a b c z ∧ RoundedIs q.2 o.rm z (laneAt l.val q.2.w i).toNat

/-- 04 R93: MIN and MAX order values numerically, −0 below +0; a NaN yields to the other operand; ABS and NEG touch the sign bit alone. 04 R94: RCP, RSQ, EXP2 and
LOG2 are functions of the FP32 code, with the stated results and within the bounds, rounded once more for BF16; that the ulp of a bound is that of the exact value's
binade is the model's choice (log 8). 23 R369: GNORM. -/
def Obligations.FloatMinMaxAbsNeg : Prop :=
  (∀ q ∈ vecFmts, ∀ (o : RRR) (s : State), s.f.cur.q = true → vecFormat o s = q.1 → NoMix s →
    let a (i : Nat) : Nat := (laneAt (vreg s o.a.toNat) q.2.w i).toNat
    let b (i : Nat) : Nat := (laneAt (vreg s o.b.toNat) q.2.w i).toNat
    let lanes (i : Instr) (p : Nat → Nat → Prop) : Prop := PutsInFlight i s fun l => WritesGoverned o s l.wm ∧
      ∀ j, j < 16384 / q.2.w → p j (laneAt l.val q.2.w j).toNat
    lanes (.vMin o) (fun j => PickIs q.2 (· < ·) (a j) (b j)) ∧ lanes (.vMax o) (fun j => PickIs q.2 (· > ·) (a j) (b j)) ∧
    lanes (.vAbs o) (fun j r => r = a j % 2 ^ (q.2.w - 1)) ∧
    lanes (.neg o) (fun j r => r % 2 ^ (q.2.w - 1) = a j % 2 ^ (q.2.w - 1) ∧ r / 2 ^ (q.2.w - 1) = 1 - a j / 2 ^ (q.2.w - 1))) ∧
  (∀ p ∈ functionOps, ∃ f : Nat → Nat, (∀ x, x < 2 ^ 32 → p.2 x (f x)) ∧ ∀ (o : RRR) (s : State), s.f.cur.q = true → NoMix s →
    (vecFormat o s = 0 → PutsInFlight (p.1 o) s fun l => WritesGoverned o s l.wm ∧
      ∀ j, j < 512 → (laneAt l.val 32 j).toNat = f (laneAt (vreg s o.a.toNat) 32 j).toNat) ∧
    (vecFormat o s = 1 → PutsInFlight (p.1 o) s fun l => WritesGoverned o s l.wm ∧
      ∀ j, j < 1024 → ∃ z, Stands 0 (f ((laneAt (vreg s o.a.toNat) 16 j).toNat * 2 ^ 16)) z ∧ RoundedIs bf16 0 z (laneAt l.val 16 j).toNat)) ∧
  ∀ (o : RRR) (s : State), s.f.cur.q = true → NoMix s →
    let k := o.xop + 1
    let n := 512 / k
    let takes (i : Nat) : Bool := !o.me || (mreg s o.mkn).getLsbD i
    let governed (g : Nat) : Prop := ∃ i, i < k ∧ takes (g * k + i) = true
    PutsInFlight (.gnorm o) s fun l => (∀ j, j < 16384 → l.wm.getLsbD j = (decide (j / 32 < n * k) && takes (j / 32))) ∧
      ∃ (nan zero : Nat → Prop) (b : BitVec 4), l.sticky = some b ∧
        (∀ g, g < n → governed g → GroupIs o.rm k (fun i => (laneAt (vreg s o.a.toNat) 32 (g * k + i)).toNat)
          (fun i => (laneAt l.val 32 (g * k + i)).toNat) (nan g) (zero g)) ∧
        ∀ i, i < 4 → (b.getLsbD i = true ↔ ∃ g, g < n ∧ governed g ∧ (i = 0 ∧ nan g ∨ i = 1 ∧ zero g))

/-- 04 R96: MOVV, IOTA, BCST, PERM and SELV. -/
def Obligations.VectorMovesAndSelections : Prop :=
  ∀ (o : RRR) (s : State), s.f.cur.q = true → NoMix s →
    let a (i : Nat) : BitVec 32 := laneAt (vreg s o.a.toNat) 32 i
    let b (i : Nat) : BitVec 32 := laneAt (vreg s o.b.toNat) 32 i
    let x := (opS s o.a.toNat).toNat
    let elements (i : Instr) (f : Nat → BitVec 32) : Prop :=
      PutsInFlight i s fun l => WritesGoverned o s l.wm ∧ ∀ j, j < 512 → laneAt l.val 32 j = f j
    elements (.movv o) a ∧ elements (.iota o) (fun i => BitVec.ofNat 32 (x % 2 ^ 32 + i)) ∧
    elements (.perm o) (fun i => a ((b i).toNat % 512)) ∧
    elements (.selv o) (fun i => if (mreg s o.c.toNat).getLsbD i then a i else b i) ∧
    ∀ w, (vecFormat o s, w) ∈ [(0, 32), (8, 32), (1, 16), (2, 16), (7, 16), (3, 8), (4, 8), (6, 8), (5, 4)] →
      PutsInFlight (.bcst o) s fun l => WritesGoverned o s l.wm ∧ ∀ j, j < 16384 / w → (laneAt l.val w j).toNat = x % 2 ^ w

/-- 04 R97, R98, 07 R138, R139: the compares and the mask instructions; and a source that another compute queue has written with no realign between, or a
delivery or drain of a later bundle, shows, element by element, what the register holds or what it held before such a write. -/
def Obligations.VectorComparesMasksAndMixing : Prop :=
  ∀ (o : RRR) (s : State), s.f.cur.q = true →
    (NoMix s →
      let bits (i : Instr) (wm p : Nat → Prop) : Prop := PutsInFlight i s fun l =>
        ∀ j, j < 16384 → (l.wm.getLsbD j = true ↔ j < 512 ∧ wm j) ∧ (j < 512 → (l.val.getLsbD j = true ↔ p j))
      let a (j : Nat) : Bool := (mreg s o.a.toNat).getLsbD j
      let b (j : Nat) : Bool := (mreg s o.b.toNat).getLsbD j
      let x (j : Nat) : BitVec 32 := laneAt (vreg s o.a.toNat) 32 j
      let y (j : Nat) : BitVec 32 := laneAt (vreg s o.b.toNat) 32 j
      (vecFormat o s = 8 → o.xop < 8 → bits (.vcmp o) (fun j => o.me = true → (mreg s o.mkn).getLsbD j = true) fun j => vcmpInt o.xop (x j) (y j)) ∧
      (vecFormat o s = 0 → o.xop < 8 → bits (.vcmp o) (fun j => o.me = true → (mreg s o.mkn).getLsbD j = true) fun j =>
        vcmpFloat o.xop (x j).toNat (y j).toNat) ∧
      bits (.mkand o) (fun _ => True) (fun j => (a j && b j) = true) ∧ bits (.mkor o) (fun _ => True) (fun j => (a j || b j) = true) ∧
      bits (.mkxor o) (fun _ => True) (fun j => a j ≠ b j) ∧ bits (.mknot o) (fun _ => True) (fun j => a j = false)) ∧
    PutsInFlight (.movv o) s fun l =>
      let old (u : Unordered) : Prop := u.dst = .v o.a.toNat ∧ u.q ≠ queueOf s.f.cur.k ∧ (u.q = .mem ∨ u.q = .mx → s.f.cur.bsn < u.bsn)
      (∀ j, j < 16384 → l.val.getLsbD j = (vreg s o.a.toNat).getLsbD j ∨
        ∃ u ∈ s.f.unord, old u ∧ u.wm.getLsbD j = true ∧ l.val.getLsbD j = u.old.getLsbD j) ∧
      ((∀ u ∈ s.f.unord, ∀ j, j < 512 → laneAt u.wm 32 j = 0 ∨ laneAt u.wm 32 j = BitVec.allOnes 32) →
        ∀ j, j < 512 → laneAt l.val 32 j = laneAt (vreg s o.a.toNat) 32 j ∨
          ∃ u ∈ s.f.unord, old u ∧ laneAt u.wm 32 j = BitVec.allOnes 32 ∧ laneAt l.val 32 j = laneAt u.old 32 j)

/-- 04 R99 to R102: integer reductions over the elements that take part, the fixed pairwise tree in FP32 and in BF16, PART's order of indices, and the lanes
that CVT converts and writes, each rounded by RM, or as the table has it (an E2M1 destination has SAT 1, and SAT has no effect on a conversion that widens a
floating-point format, 04 R100). -/
def Obligations.VectorReductionsPartAndConversion : Prop :=
  ∀ (o : RRR) (s : State), s.f.cur.q = true → NoMix s →
    let a (i : Nat) : BitVec 32 := laneAt (vreg s o.a.toNat) 32 i
    let takes (i : Nat) : Bool := !o.me || (mreg s o.mkn).getLsbD i
    let everywhere (i : Instr) (p : BitVec 32 → Prop) : Prop :=
      PutsInFlight i s fun l => l.wm = BitVec.allOnes 16384 ∧ ∃ r, p r ∧ ∀ j, j < 512 → laneAt l.val 32 j = r
    (vecFormat o s = 8 →
      everywhere (.rsum o) (fun r => r.toNat = (((List.range 512).filter takes).map fun i => (a i).toNat).sum % 2 ^ 32) ∧
      everywhere (.rmax o) (fun r => (∀ i, i < 512 → takes i = true → (a i).toInt ≤ r.toInt) ∧
        (r.toInt = -2 ^ 31 ∨ ∃ i, i < 512 ∧ takes i = true ∧ a i = r)) ∧
      everywhere (.rmin o) (fun r => (∀ i, i < 512 → takes i = true → r.toInt ≤ (a i).toInt) ∧
        (r.toInt = 2 ^ 31 - 1 ∨ ∃ i, i < 512 ∧ takes i = true ∧ a i = r))) ∧
    (∀ x y rm, rm < 4 → AddIs rm x y (fadd fp32 rm x y)) ∧
    (∀ q ∈ vecFmts, ∀ x y, x < 2 ^ q.2.w → y < 2 ^ q.2.w → PickIs q.2 (· > ·) x y (fminmax q.2 true x y) ∧ PickIs q.2 (· < ·) x y (fminmax q.2 false x y)) ∧
    (vecFormat o s = 0 →
      everywhere (.rsum o) (fun r => r.toNat = pairTree (fadd fp32 o.rm) (fun i => if takes i then (a i).toNat else 0x80000000) 9 0) ∧
      everywhere (.rmax o) (fun r => r.toNat = pairTree (fminmax fp32 true) (fun i => if takes i then (a i).toNat else 0xFF800000) 9 0) ∧
      everywhere (.rmin o) (fun r => r.toNat = pairTree (fminmax fp32 false) (fun i => if takes i then (a i).toNat else 0x7F800000) 9 0)) ∧
    (vecFormat o s = 1 →
      let b (i : Nat) : Nat := (laneAt (vreg s o.a.toNat) 16 i).toNat
      let lanes (i : Instr) (p : Nat → Prop) : Prop :=
        PutsInFlight i s fun l => l.wm = BitVec.allOnes 16384 ∧ ∃ r, p r ∧ ∀ j, j < 1024 → (laneAt l.val 16 j).toNat = r
      lanes (.rsum o) (fun r => ∃ z, RoundedIs bf16 o.rm z r ∧
        Stands 0 (pairTree (fadd fp32 o.rm) (fun i => if takes (i / 2) then b i * 2 ^ 16 else 0x80000000) 10 0) z) ∧
      lanes (.rmax o) (fun r => r = pairTree (fminmax bf16 true) (fun i => if takes (i / 2) then b i else 0xFF80) 10 0) ∧
      lanes (.rmin o) (fun r => r = pairTree (fminmax bf16 false) (fun i => if takes (i / 2) then b i else 0x7F80) 10 0)) ∧
    (PutsInFlight (.part o) s fun l =>
      let m (i : Nat) : Bool := (mreg s o.a.toNat).getLsbD i
      let order := ((List.range 512).filter m) ++ (List.range 512).filter fun i => !m i
      ∀ k, k < 512 → (laneAt l.val 32 k).toNat =
        order.getD k 0 + (if m (order.getD k 0) then 2 ^ 15 else 0) + ((List.range 512).filter m).length * 2 ^ 16) ∧
    (let df := vecFormat o s
     let sf := if o.b.toNat % 16 = 15 then s.f.cur.fmtr.toNat % 16 else o.b.toNat % 16
     let n := min (lanesOf sf) (lanesOf df)
     let sat := o.sat && !(!isIntFmt df && !isIntFmt sf && decide (widthOf sf < widthOf df))
     o.xop * n + n ≤ max (lanesOf sf) (lanesOf df) → df < 9 → sf < 9 → (df = 5 → o.sat = true) →
     PutsInFlight (.cvt o) s fun l =>
       (∀ k, k < n → ∃ z, Stands sf (laneAt (vreg s o.a.toNat) (widthOf sf) (if n < lanesOf sf then o.xop * n + k else k)).toNat z ∧
         ConvertsTo df o.rm sat (isIntFmt sf) z (laneAt l.val (widthOf df) (if n < lanesOf df then o.xop * n + k else k)).toNat) ∧
       ∀ j, j < 16384 → let e := j / widthOf df
         let lo := if n < lanesOf df then o.xop * n else 0
         l.wm.getLsbD j = (decide (lo ≤ e ∧ e < lo + n) && takes ((e - lo) * 512 / n)))

/-! ### The matrix slot -/

/-- 16 R290, R291, R298, 20 R340: CHB and FCHB open a chain, CHE closes one; OCLM and OREL set and clear a claim; SCGB copies a generator's geometry.
CHE leaves in each element the fold of the last segment's contributions in some order (18 R320): the order is open, the model's free choice. That an element
which an engine has written in the segment goes on from the value written is the model's choice (log 9). -/
def Obligations.ChainsClaimsAndBindings : Prop :=
  ∀ (o : RRR) (s : State), s.f.cur.q = true →
    (chain s o.d.toNat = none →
      (∃ t, exec (.chb o) s = .next t ∧ WroteChain s t o.d.toNat (some (.mms (acc s o.d.toNat) [] []))) ∧
      (claimed s o.a.toNat = true →
        ∃ t, exec (.fchb o) s = .next t ∧ WroteChain s t o.d.toNat (some (.filet o.a.toNat o.b.toNat (o.mod.getLsbD 0))))) ∧
    (∀ c, chain s o.d.toNat = some c → (∀ x ∈ s.f.steps, x.acc ≠ o.d.toNat) →
      ∃ t, exec (.che o) s = .next t ∧ (∀ n, chain t n = if n = o.d.toNat then none else chain s n) ∧
        (∀ n, n ≠ o.d.toNat → acc t n = acc s n) ∧
        t = { s with r := { s.r with chains := t.r.chains, acc := t.r.acc }, f := { s.f with jr := t.f.jr }, fresh := t.fresh } ∧
        match c with
        | .filet .. => acc t o.d.toNat = acc s o.d.toNat
        | .mms start adds segs => if adds.length < 2 then acc t o.d.toNat = acc s o.d.toNat
          else ∀ i j, i < 64 → j < 64 → ∀ (n : Nat) (v : BitVec 32),
            (lookupN segs (64 * i + j) = some (n, v) ∨ lookupN segs (64 * i + j) = none ∧ n = 0 ∧ v = laneAt start 32 (64 * i + j)) →
            ∃ order : List Nat, order.Perm (List.range (adds.length - n)) ∧
              accElem (acc t o.d.toNat) i j = order.foldl (fun x k => fadd fp32 0 x (accElem (adds.getD (n + k) 0) i j)) v.toNat) ∧
    (o.d.toNat < 32 → claimed s o.d.toNat = false → ∃ t, exec (.oclm o) s = .next t ∧
      (∀ n, n < 32 → claimed t n = (decide (n = o.d.toNat) || claimed s n)) ∧
      t = { s with r := { s.r with claims := t.r.claims }, f := { s.f with jr := t.f.jr } }) ∧
    (o.d.toNat < 32 → claimed s o.d.toNat = true → (∀ x ∈ s.f.steps, o.d.toNat ∈ x.reads → x.beats = 0 ∨ s.f.cur.bsn ≤ x.bsn) →
      ∃ t, exec (.orel o) s = .next t ∧ (∀ n, n < 32 → claimed t n = (!decide (n = o.d.toNat) && claimed s n)) ∧
        t = { s with r := { s.r with claims := t.r.claims }, f := { s.f with jr := t.f.jr } }) ∧
    (∃ t b, exec (.scgb o) s = .next t ∧ b.code = o.xop % 4 ∧ b.n = 0 ∧
      (b.code ≠ 0 → let g := gen s o.d.toNat
        b.base = g.base ∧ b.s2 = g.stride.c ∧ b.s3 = g.stride.d ∧ b.c = g.extent.a.toNat ∧ b.r = g.extent.b.toNat) ∧
      t = (if o.mod.getLsbD 2 then { s with r := { s.r with bindB := b }, f := { s.f with jr := t.f.jr } }
        else { s with r := { s.r with bindA := b }, f := { s.f with jr := t.f.jr } }))

/-- 16 R290, R291, R295, R301, 20 R340, R341, R343: the causes of the matrix slot, each of way R, and where a slot waits at the head. That FCHB raises 0x0B before
0x08 (log 26), and that a step raises 0x0B before the causes of its scales and transposed reads (log 29), are the model's choices. -/
def Obligations.MatrixSlotCausesAndWaits : Prop :=
  ∀ (o : RRR) (s : State), s.f.cur.q = true →
    (chain s o.d.toNat ≠ none → exec (.chb o) s = .next (raiseR s 0x0B 0 0) ∧ exec (.fchb o) s = .next (raiseR s 0x0B 0 0)) ∧
    (chain s o.d.toNat = none → claimed s o.a.toNat = false → exec (.fchb o) s = .next (raiseR s 0x08 0 0)) ∧
    (chain s o.d.toNat = none → exec (.che o) s = .next (raiseR s 0x0B 0 0)) ∧
    (chain s o.d.toNat ≠ none → (∃ x ∈ s.f.steps, x.acc = o.d.toNat) → exec (.che o) s = .next (setCtl s .stall)) ∧
    (claimed s o.d.toNat = true → exec (.oclm o) s = .next (raiseR s 0x08 0 0)) ∧
    (claimed s o.d.toNat = false → exec (.orel o) s = .next (raiseR s 0x08 0 0)) ∧
    (chain s o.a.toNat ≠ none → exec (.accrdV o) s = .next (raiseR s 0x09 0 0)) ∧
    (∀ c l g, chain s o.a.toNat = some (.mms c l g) → exec (.fdrn o) s = .next (raiseR s 0x09 0 0)) ∧
    ((∃ x ∈ s.f.steps, 0 < x.beats) → exec (.mms o) s = .next (setCtl s .stall) ∧ exec (.mmz o) s = .next (setCtl s .stall) ∧
      exec (.spl o) s = .next (setCtl s .stall) ∧ exec (.spld o) s = .next (setCtl s .stall)) ∧
    ((∀ x ∈ s.f.steps, x.beats = 0) →
      (o.ta = false → o.tb = false → claimed s o.a.toNat = false ∨ claimed s o.b.toNat = false →
        exec (.mms o) s = .next (raiseR s 0x08 0 0) ∧ exec (.mmz o) s = .next (raiseR s 0x08 0 0)) ∧
      (o.ta = false → o.tb = false → claimed s o.a.toNat = true → claimed s o.b.toNat = true → (∀ c l g, chain s o.d.toNat ≠ some (.mms c l g)) →
        exec (.mms o) s = .next (raiseR s 0x0B 0 0) ∧ exec (.mmz o) s = .next (raiseR s 0x0B 0 0)) ∧
      ((∀ b k w, chain s o.d.toNat ≠ some (.filet b k w)) →
        exec (.spl o) s = .next (raiseR s 0x0B 0 0) ∧ exec (.spld o) s = .next (raiseR s 0x0B 0 0)))

/-- 16 R289, R292 to R299, 15 R279 to R286: MMS and MMZ join the array, with 32 beats, to land 40 matrix issue cycles later; output (i, j) is the exact sum over the
sub-blocks of the products and scales, rounded once to nearest, from slots, codebooks or transposed reads, special values among them; from two claimed slots without
block scales and with finite elements it is that of the products over the K step. -/
def Obligations.MatrixStepsJoinTheArray : Prop :=
  ∀ p ∈ [(Instr.mms, false), (Instr.mmz, true)], ∀ (o : RRR) (s : State),
    s.f.cur.q = true → s.f.cur.rw = none → (∀ x ∈ s.f.steps, x.beats = 0) →
    let af := (stepFmts o s.f.cur.fmtr).1
    let bf := (stepFmts o s.f.cur.fmtr).2
    let step (x : MStep) : Prop := x.acc = o.d.toNat ∧ x.filet = false ∧ x.zero = p.2 ∧ x.lo = 0 ∧ x.hi = 64 ∧ x.left = 40 ∧ x.beats = 32 ∧
      (∀ n, n ∈ x.reads ↔ o.ta = false ∧ n = o.a.toNat ∨ o.tb = false ∧ n = o.b.toNat)
    (let k := kStep af
     let ba := (bindings s).1
     let bb := (bindings s).2
     let ua := bindUsed ba af
     let ub := bindUsed bb (if o.bsel = 1 then 3 else bf)
     let a := transVas s o.ta o.a k
     let b := transVas a.2 o.tb o.b k
     (o.bsel ≠ 1 ∧ (af, bf, k) ∈ stepPairs ∨ o.bsel = 1 ∧ o.tb = false ∧ (af = 3 ∨ af = 4)) → (o.ta = true ∨ o.tb = true → af ≠ 5) →
     stepCause s o k ua ub a.1 b.1 (widthOf af / 8) = none → stepWaits s k ua ub a.1 b.1 (widthOf af / 8) = false →
       stepBad s k ua ub a.1 b.1 (widthOf af / 8) = none → JoinsArray (p.1 o) s fun x => step x ∧ ∀ i j, i < 64 → j < 64 → ∃ ea eb sa sb : Nat → Machine.Num,
         (∀ e, e < k → Stands af (operandCode s o.ta o.a af a.1 i e) (ea e) ∧
           (if o.bsel = 1 then eb e = cb2Num (codebook s o.c.toNat) (oslot s o.b.toNat) j e else Stands bf (operandCode s o.tb o.b bf b.1 j e) (eb e)) ∧
           ScaleIs (if ua then ba.code else 0) (scaleByte s ba i e) (sa e) ∧ ScaleIs (if ub then bb.code else 0) (scaleByte s bb j e) (sb e)) ∧
         StepOutIs (decide (af = 6 ∧ bf = 6 ∧ o.bsel ≠ 1)) k (min (if ua then ba.c else k) (if ub then bb.c else k)) ea eb sa sb (accElem x.val i j)) ∧
    (∀ k, (af, bf, k) ∈ stepPairs → o.bsel ≠ 1 → o.ta = false → o.tb = false → claimed s o.a.toNat = true → claimed s o.b.toNat = true →
      (bindings s).1.code = 0 → (bindings s).2.code = 0 → (∃ c l g, chain s o.d.toNat = some (.mms c l g)) →
      JoinsArray (p.1 o) s fun x => step x ∧ ∀ i j, i < 64 → j < 64 →
        (∀ e, e < k → elemFinite af (slotElem (oslot s o.a.toNat) af i e) ∧ elemFinite bf (slotElem (oslot s o.b.toNat) bf j e)) →
        RoundsTo fp32 0 (((List.range k).map fun e =>
          elemRat af (slotElem (oslot s o.a.toNat) af i e) * elemRat bf (slotElem (oslot s o.b.toNat) bf j e)).sum) (accElem x.val i j))

/-- 20 R339, R341, R342, 22 R356 to R361: SPL and SPLD join the array, with 32 beats, to land in their row group 44 matrix issue cycles later, once their slots are
claimed, the knot set is valid and no input of a fault-mode set lies outside the grid. A column is the exact sum of its cells, rounded once: each the sum over four
coefficients of the quantised basis at the rounded grid position, or as the knot set clamps; the four basis values sum to 1, their derivatives to 0. -/
def Obligations.FiletStepsJoinTheArray : Prop :=
  (∀ p ∈ [(Instr.spl, false), (Instr.spld, true)], ∀ (o : RRR) (s : State) (b k : Nat) (wide : Bool), s.f.cur.q = true →
    (∀ x ∈ s.f.steps, x.beats = 0) → chain s o.d.toNat = some (.filet b k wide) → s.f.sb = [] →
    let w := if wide then 16 else 8
    let slots := o.a.toNat :: (if p.2 then [o.b.toNat] else []) ++ (List.range w).map (b + ·)
    if ∃ n ∈ slots, claimed s n = false then exec (p.1 o) s = .next (raiseR s 0x08 0 0)
    else if knotsOk (knots s k) w = false then exec (p.1 o) s = .next (raiseR s 0x0D 0 0)
    else if anySample (oslot s o.a.toNat) (clampFaults (knots s k)) = true then exec (p.1 o) s = .next (raiseR s 0x0C 0 0)
    else JoinsArray (p.1 o) s fun x => x.acc = o.d.toNat ∧ x.filet = true ∧ x.zero = o.mod.getLsbD 2 ∧ x.lo = 16 * (o.xop % 4) ∧
      x.hi = 16 * (o.xop % 4) + 16 ∧ x.left = 44 ∧ x.beats = 32 ∧ x.reads = slots ∧
      let coef (q i j : Nat) : Nat := slotElem (oslot s (b + q)) 1 i j
      let inp (i n : Nat) : Nat := slotElem (oslot s o.a.toNat) 0 i n
      let grad (j n : Nat) : Nat := slotElem (oslot s o.b.toNat) 0 j n
      let cell (i j n : Nat) (v : ℚ) : Prop :=
        (∀ q, q < w → IsFinite bf16 (coef q i j)) ∧ CellIs p.2 (knots s k) (inp i n) (fun q => ratOf bf16 (coef q i j)) v
      ∀ n c, n < 16 → c < 64 → let r := accElem x.val (16 * (o.xop % 4) + n) c
        (p.2 = false → (∀ v : Nat → ℚ, (∀ i, i < 64 → cell i c n (v i)) → RoundsTo fp32 0 ((List.range 64).map v).sum r) ∧
          ((∃ i, i < 64 ∧ IsNan fp32 (inp i n)) → knotClamp (knots s k) ≠ 2 → r = 0x7FC00000)) ∧
        (p.2 = true → (∀ v : Nat → ℚ, (∀ j, j < 64 → IsFinite fp32 (grad j n) ∧ cell c j n (v j)) →
            RoundsTo fp32 0 (((List.range 64).map fun j => ratOf fp32 (grad j n) * v j).sum / ratOf fp32 (knotH (knots s k))) r) ∧
          (IsNan fp32 (inp c n) → knotClamp (knots s k) ≠ 2 → r = 0x7FC00000))) ∧
  ∀ x n, (basis x n).length = 4 ∧ (basis x n).sum = 2 ^ 26 ∧ (dbasis x n).length = 4 ∧ (dbasis x n).sum = 0

/-- 16 R301, R302, 20 R343, 13 R246: the drains convert each element as they find it, byte by byte the old or the new where an engine is writing it, times the tensor scale for ACCRD.v, and deliver consecutive registers. An E2M1
destination has SAT 1 (04 R100). -/
def Obligations.DrainsDeliverConvertedElements : Prop :=
  ∀ (o : RRR) (s : State), s.f.cur.q = true → s.f.cur.rw = none →
    let df := if o.ef = 15 then s.f.cur.fmtr.toNat / 2 ^ 12 % 16 else o.ef
    let lanes := lanesOf df
    let b := opS s o.b.toNat
    let row := 16 * (o.xop % 4)
    df < 9 → (df = 5 → o.sat = true) → ∃ a scale, FoundAcc s o.a.toNat a ∧ TensorIs o.b.toNat b scale ∧
    (chain s o.a.toNat = none → Delivers (.accrdV o) s o.d.toNat (4096 / lanes) fun k x => x.wm = BitVec.allOnes 16384 ∧
      ∀ j, j < lanes → let i := lanes * k + j
        DrainIs df o.rm o.sat (accElem a (i / 64) (i % 64)) scale (laneAt x.val (widthOf df) j).toNat) ∧
    ((∀ c l g, chain s o.a.toNat ≠ some (.mms c l g)) → Delivers (.fdrn o) s o.d.toNat (max 1 (1024 / lanes)) fun k x =>
      (∀ j, j < 16384 → x.wm.getLsbD j = decide (lanes * k + j / widthOf df < 1024)) ∧
      ∀ j, j < lanes → let i := lanes * k + j
        i < 1024 → ∃ z, Stands 0 (accElem a (row + i / 64) (i % 64)) z ∧ ConvertsTo df o.rm o.sat false z (laneAt x.val (widthOf df) j).toNat)


/-! ### The machine: reset, the invariant, encodings, turns -/

/-- 02 R42, 12 R234, 14 R270, R432, 26 R403, R408, 27 R431: the values that the spec states for a machine with no kernel yet. That the scalar registers, the
predicates, the tokens and the chains stand before any kernel as a kernel's start leaves them is the model's choice (log 7). -/
def Obligations.ResetLeavesTheStatedValues : Prop :=
  let s := State.reset
  s.tick = 0 ∧ (∀ n, sreg s n = 0) ∧ (∀ n, n < 64 → preg s n = decide (n = 0)) ∧ (∀ n, token s n = Token.fresh ∧ chain s n = none) ∧
  (∀ n ∈ [0x000, 0x008, 0x009, 0x00A, 0x010, 0x011, 0x012, 0x028], readSR s n = 0) ∧ readSR s 0x02B = 0xF4000 ∧
  (∀ j, j < 16 → (range s j).base = 0xFFFFFFFFFFFFFFFF ∧ (range s j).limit = 0 ∧ (range s j).off = 0) ∧
  (∀ d, d < 15 → (port s d).lpctl = BitVec.ofNat 64 (64 * 2 ^ 48 + 8 * 2 ^ 32 + 64 * 2 ^ 16 + 1)) ∧ s.m.migc = 0 ∧
  pwrctlWord s = BitVec.ofNat 64 (600 * 2 ^ 16) ∧ s.c.lastServed = 19 ∧ s.c.wdogDefault = BitVec.ofNat 64 (2 ^ 31) ∧ s.c.cbtoDefault = 1000000

/-- The invariant holds right after reset. -/
def Obligations.ResetIsCanonical : Prop := Inv State.reset

/-- Every step keeps the invariant: memory and every saved scratchpad stay in their one canonical form, and no loop stack holds more than six
levels (03 R75). -/
def Obligations.EveryStepKeepsTheInvariant : Prop := ∀ s t : State, Inv s → step s = .next t → Inv t

/-- 01 R15 to R20: decoding the word of an encodable slot gives it back, with every operand at every value that the encoding admits. -/
def Obligations.DecodeOfEncodeIsTheSlot : Prop :=
  ∀ (ver slot : Nat) (x : SlotWord) (w : BitVec 64), 1 ≤ ver → ver ≤ 3 → Encodable ver slot x → encodeSlot x = some w → decodeSlot ver slot w = .ok x

/-- 01 R31: no other word decodes: a word that decodes is the one that encodes what it decodes to. -/
def Obligations.OnlyEncodedWordsDecode : Prop :=
  ∀ (ver slot : Nat) (x : SlotWord) (w : BitVec 64), 1 ≤ ver → ver ≤ 3 → slot < 8 → decodeSlot ver slot w = .ok x → encodeSlot x = some w

/-- Words that the spec writes out (01 R33, 02, 03 R79, R84, 05, 13, 16, 20, 23, 26) decode to the instructions for which it gives them, and a realign NOP of
version 2 is refused in version 1. -/
def Obligations.WrittenOutWordsDecode : Prop :=
  decodeSlot 3 0 0x8064050000000003 = .ok ⟨true, 0, false, false, .loop ⟨5, 3⟩⟩ ∧
  decodeSlot 3 0 0x8052070100000000 = .ok ⟨true, 0, false, false, .rdli ⟨7, 1, 0, 0, 0⟩⟩ ∧
  decodeSlot 3 0 0x866000FFFFFFFFFE = .ok ⟨true, 3, false, false, .br ⟨0, -2⟩⟩ ∧
  decodeSlot 3 0 0x807508070C000003 = .ok ⟨true, 0, false, false, .bkt ⟨8, 7, 12, 0, 3⟩⟩ ∧
  decodeSlot 3 2 0x0048140A00003202 = .ok ⟨false, 0, false, false, .cvt ⟨20, 10, 0, 0, 0x3202⟩⟩ ∧
  decodeSlot 3 3 0x8010020405013001 = .ok ⟨true, 0, false, false, .mms ⟨2, 4, 5, 1, 0x3001⟩⟩ ∧
  decodeSlot 3 3 0x8042011400000006 = .ok ⟨true, 0, false, false, .spl ⟨1, 20, 0, 0, 6⟩⟩ ∧
  decodeSlot 3 4 0x8048050402060010 = .ok ⟨true, 0, false, false, .aadd ⟨5, 4, 0, 2, 0x060010⟩⟩ ∧
  decodeSlot 3 7 0x80190A0000000000 = .ok ⟨true, 0, false, false, .drain ⟨5, 0, 0, 0, 0, 0⟩⟩ ∧
  decodeSlot 3 7 0x8028044100045000 = .ok ⟨true, 0, false, false, .launch ⟨2, 1, 1, 0, 0, 0x45000⟩⟩ ∧
  decodeSlot 2 7 0x0000800000000000 = .ok ⟨false, 0, false, true, .nop⟩ ∧ decodeSlot 1 7 0x0000800000000000 = .error .reserved

/-- A turn of the front end dispatches the bundle at the program counter: its scalar slot, decoded, runs by exec, and the bundle enters its
queues, where nothing that the spec names holds dispatch or places a mark before it. That the loop indices of the bundle are those before its scalar slot is
the model's choice (log 26). A bundle of NOPs, and one whose single instruction is MARK or RWFL, is
dispatched (01 R33, 07 R133): in kernel mode the front end then sets the mark of MARK (05 R122) and closes the rewrite window, in a handler neither (08 R160); RWFL
closes it (05 R124, 16 R304). A tile instruction that joins the window, of at most eight members, is matched against the rules in their order: the first that is admitted and
fits a pair fires for the newest member that it fits, which is cancelled, and the new one is replaced (19 R324, R328, R330, R331). -/
def Obligations.FrontTurnRunsTheDecodedBundle : Prop :=
  (∀ (s s1 t : State) (rest : List Turn) (b : BitVec 512) (x : SlotWord) (ys : List SlotWord) (grp : List Opd),
    s.agenda = .front :: rest → s.h.power ≠ .held →
    let u := { s with agenda := rest }
    let fmtr := (inForce u).1
    let sc : Exe := ⟨0, x.instr, qualify u x⟩
    let re := (x :: ys).any SlotWord.realign || (sc.q && sc.instr = .yield)
    let idx := (List.range 6).map fun j => match s.r.loops[j]? with | some l => if l.active then l.index else 0 | none => 0
    let ts := trailing t (x :: ys)
    u.f.fe = .run → asyncDue u = false → commitDue u = false → u.f.rbFaults = [] → lagged u = false →
    fetch u = some b → decodeAt u fmtr b = .ok (x :: ys, grp) → (re = true → lateLatch u = none) → cbrUnmarked u x.instr = none →
    (if sc.q then scalarReady u x.instr = some s1 else s1 = u) →
    exec x.instr (setCur s1 { Cur.zero with bsn := s.f.bsn, pc := s.f.pc, q := sc.q, idx := idx, fmtr := fmtr }) = .next t → t.f.cur.ctl = .done →
    anyExe ts (evDenied u) = false → (u.f.ahead.isSome = true → aheadHalts u fmtr re sc ts = false) →
    (u.f.handler = false → u.f.ahead = none → u.f.atMark = false → markBefore u fmtr sc ts = false) →
    (2 ≤ s.kn.ver → ∀ y ∈ ts, y.q = true → isTile y.instr = true → joinHeld u u.f.bsn fmtr y.instr = false) →
    decodeSlot s.kn.ver 0 (slotWord b 0) = .ok x ∧ exec .bundleDispatch u = .next (dispatched t fmtr (inForce u).2 idx re grp sc ts) ∧
      step s = .next (endCycle (dispatched t fmtr (inForce u).2 idx re grp sc ts))) ∧
  (∀ (s : State) (b : BitVec 512) (xs : List SlotWord) (grp : List Opd),
    s.f.fe = .run → s.f.ahead = none → asyncDue s = false → s.f.rbFaults = [] → lagged s = false → s.f.preempt = false → s.r.loops = [] →
    s.f.reserved ≤ gateBytes s → fetch s = some b → decodeAt s (inForce s).1 b = .ok (xs, grp) → (∀ x ∈ xs, x.realign = false) →
    let only (k : Nat) (i : Instr) : Prop := ∀ j x, xs[j]? = some x → if j = k then x.instr = i ∧ qualify s x = true else x.instr = .nop
    let entered (t : State) : Prop := t.f.pc = s.f.pc + 64 ∧ t.f.bsn = s.f.bsn + 1 ∧ t.r = s.r ∧ t.m = s.m ∧ t.e = s.e ∧ t.l = s.l ∧ t.c = s.c ∧
      ∀ q ∈ allQueues, ∃ e, getQ t q = getQ s q ++ [e] ∧ e.bsn = s.f.bsn ∧ e.pc = s.f.pc ∧ e.realign = false ∧
        (e.slots.map fun y => (y.k, y.instr, y.q)) = ((trailing s xs).filter fun y => queueOf y.k = q).map fun y => (y.k, y.instr, y.q)
    ((∀ x ∈ xs, x.instr = .nop) → ∃ t : State, exec .bundleDispatch s = .next t ∧ entered t ∧ t.f.fe = .run ∧ t.f.window = s.f.window) ∧
    (only 5 .mark → (∃ t : State, exec .bundleDispatch s = .next t ∧ entered t ∧ t.f.fe = (if s.f.handler then .run else .marking) ∧
        t.f.window = (if s.f.handler then s.f.window else [])) ∧
      ∀ u, exec .mark u = .next u) ∧
    (only 3 .rwfl → (∃ t : State, exec .bundleDispatch s = .next t ∧ entered t ∧ t.f.fe = .run ∧ t.f.window = []) ∧ ∀ u, exec .rwfl u = .next u)) ∧
  ∀ (s : State) (e : QEntry) (x : QSlot),
    let y := (captureTile s e.fmtr { x with joined := true }).1
    let c := (captureTile s e.fmtr { x with joined := true }).2
    let ms := (s.f.window.drop (s.f.window.length - 7)).filterMap (memberAt c)
    let z := joinWindow s e x
    y.joined = true ∧ y.instr = x.instr ∧ z.2.f.window = (s.f.window ++ [(e.bsn, x.k)]).drop (s.f.window.length - 7) ∧
    ((∀ p ∈ s.r.pricking, NeverFires c p.2 (e, y) ms) → z.1 = y ∧ z.2.f.qs = s.f.qs) ∧
    ∀ rs i r rs' pre u post, s.r.pricking = rs ++ (i, r) :: rs' → (∀ p ∈ rs, NeverFires c p.2 (e, y) ms) →
      ms = pre ++ u :: post → FiresAt c r u (e, y) post → NeverFires c r (e, y) post →
      let origs := [u.1.pc + BitVec.ofNat 64 u.2.k, e.pc + BitVec.ofNat 64 x.k]
      z.1 = { y with rw := some ⟨i, origs, .replaced r.template (slotId u.1.bsn u.2.k)⟩ } ∧
      z.2 = { c with f := { c.f with window := z.2.f.window, qs := z.2.f.qs } } ∧
      ∀ q ∈ allQueues, getQ z.2 q = (getQ s q).map fun f => if q = queueOf u.2.k ∧ f.bsn = u.1.bsn
        then { f with slots := f.slots.map fun w => if w.k = u.2.k then { u.2 with rw := some ⟨i, origs, .cancelled r.keep r.template⟩ } else w } else f

/-- A turn of a queue issues its head: every slot of it acts by exec, in order, and the head leaves its queue; results of a vector queue land first (04
R89), and a cycle of the matrix queue is a matrix issue cycle (16 R288); requests beside an atomic count as checked with it (13 R241). A turn of an event acts by exec. Each turn is one cycle of TICK. -/
def Obligations.QueueAndEventTurnsRunExec : Prop :=
  (∀ (s u : State) (rest : List Turn) (q : Queue) (e : QEntry) (es : List QEntry), s.agenda = .queue q :: rest → s.h.power ≠ .held →
    let v := { s with agenda := rest }
    let w := if q = .mx then mxCycle v else v
    let w' := match q with | .va => landDue w .va e.bsn | .vb => landDue w .vb e.bsn | _ => w
    getQ w q = e :: es → headStopped w q e = false → RunsSlots e e.slots w' u →
    step s = .next (endCycle (setQ (vetNew w' u e) q ((getQ u q).drop 1))) ∧
      ((∀ x ∈ e.slots, x.q = false ∨ isAtomic x.instr = false) → vetNew w' u e = u)) ∧
  (∀ (s t : State) (rest : List Turn) (i : Instr), s.agenda = .event i :: rest → isSlotInstr i = false →
    (s.h.power ≠ .held ∨ heldAnswers (.event i) = true) → exec i { s with agenda := rest } = .next t → step s = .next (endCycle t)) ∧
  ∀ s, (endCycle s).tick = s.tick + 1 ∧ (endCycle s).agenda = s.agenda


/-! ### Engine instructions -/

/-- 09 R167 to R176, 05 R116, 16 R300 to R305, 20 R344, R345: each engine instruction of the copy, load and matrix slots takes its operands at issue, and its token
is pending from then on. That CPYO judges its claim before its address is the model's choice (log 29). -/
def Obligations.EngineInstructionsTakeTheirOperands : Prop :=
  ∀ (o : ENG) (s : State), s.f.cur.q = true → s.f.cur.gens = [] → s.f.cur.rw = none →
    (CopyRoom s false → IssuesTable (.cbld o) s o .copy (opS s (o.f 18 13)) 256 64 (.cbld (o.f 20 19))) ∧
    (CopyRoom s false → IssuesTable (.prkld o) s o .copy (opS s (o.f 20 15)) (32 * o.f 14 8) 64 (fun l => .prkld l (o.f 14 8))) ∧
    IssuesTable (.knld o) s o .filet (opS s (o.f 18 13)) 16 16 (.knld (o.f 20 19)) ∧
    (let va := opS s (o.f 20 15)
      let n := o.f 14 9 + 1
      (∀ ps, unitParts s false va (256 * n) = some ps → va.toNat % 256 = 0 →
        Issues (.ldb o) s o.kp o.consumed .l2 none fun w => w = .ldb (ps.map fun p => ⟨0, p.off, p.va, p.tgt.key, p.len⟩) n) ∧
      (unitParts s false va (256 * n) = none → exec (.ldb o) s = .next (raiseR s 0x10 0 va)) ∧
      (unitParts s false va (256 * n) ≠ none → va.toNat % 256 ≠ 0 → exec (.ldb o) s = .next (raiseR s 0x11 0 va))) ∧
    (let u := 2 ^ (2 + o.f 10 8)
     let cv := o.f 7 6
     let fmt := s.f.cur.fmtr.toNat / 2 ^ 16 % 16
     let us := if cv = 2 then u * widthOf fmt / 32 else u
     let ud := if cv = 1 then u * widthOf fmt / 32 else u
     let sb := o.eop.getLsbD 11
     let db := o.eop.getLsbD 16
     let n := min (sideCount s sb (o.f 15 12) us) (sideCount s db (o.f 20 17) ud)
     let a := nestTaken s sb (o.f 15 12)
     let b := nestTaken a.2 db (o.f 20 17)
     ∀ x y, SideTaken s sb (o.f 15 12) us n a.1 x → SideTaken s db (o.f 20 17) ud n b.1 y →
       (CopyRoom s false → Issues (.cpy o) s o.kp o.consumed .copy none fun w => w = .copy x y us ud n cv fmt) ∧
       (CopyRoom s true → Issues (.cpyt o) s o.kp o.consumed .copy (some (opS s (o.f 5 0))) fun w => w = .copy x y us ud n cv fmt)) ∧
    (let len := 32 * 2 ^ o.f 2 0
     let n := min 32 (genTotal (gen s (o.f 20 17)))
     let far := (List.range n).map fun j => opS s (o.f 8 3) + (laneAt (vreg s (o.f 16 9)) 32 j).zeroExtend 64
     ∀ fl nl, CopyRoom s false → NoMix s → locsOf s len 32 far = .ok fl → locsOf s len 1 (genTake s (o.f 20 17) n).1 = .ok nl →
       (Issues (.cpyg o) s o.kp o.consumed .copy none fun w => w = .rows fl nl len) ∧
       (Issues (.cpys o) s o.kp o.consumed .copy none fun w => w = .rows nl fl len)) ∧
    (CopyRoom s false → s.f.cur.claims.getLsbD (o.f 20 16) = false → exec (.cpyo o) s = .next (raiseR s 0x08 0 0)) ∧
    (∀ l, CopyRoom s false → s.f.cur.claims.getLsbD (o.f 20 16) = true → locsOf s 128 16 (genTake s (o.f 15 12) (o.f 5 0 + 1)).1 = .ok l →
      Issues (.cpyo o) s o.kp o.consumed .copy none fun w => w = .fillO (o.f 20 16) (o.f 11 6) l) ∧
    (let n := o.f 10 5 + 1
     let w := 2 ^ o.f 12 11
     let a := genTake s (o.f 16 13) n
     let b := genTake a.2 (o.f 20 17) n
     ∀ sl dl, CopyRoom s false → locsOf s (n * w) 1 a.1 = .ok sl → locsOf s (n * w) 1 b.1 = .ok dl →
       Issues (.trn o) s o.kp o.consumed .copy none fun x => x = if a.1 = [] ∨ b.1 = [] then .trn [] [] w n else .trn sl dl w n) ∧
    (CopyRoom s false → chain s (o.f 20 18) ≠ none → exec (.accrdSp o) s = .next (raiseR s 0x09 0 0)) ∧
    (let df := if o.f 7 4 = 15 then s.f.cur.fmtr.toNat / 2 ^ 12 % 16 else o.f 7 4
     let b := opS s (o.f 13 8)
     let sat := o.eop.getLsbD 1
     ∀ l, CopyRoom s false → chain s (o.f 20 18) = none → df < 9 → (df = 5 → sat = true) →
       locsOf s (8 * widthOf df) 32 (genTake s (o.f 17 14) 64).1 = .ok l →
       Issues (.accrdSp o) s o.kp o.consumed .copy none fun w => ∃ data a scale, w = .put l data ∧ FoundAcc s (o.f 20 18) a ∧ TensorIs (o.f 13 8) b scale ∧
         data.length = (genTake s (o.f 17 14) 64).1.length ∧
         ∀ r bs, data[r]? = some bs → bs.length = 8 * widthOf df ∧ ∀ c, c < 64 →
           DrainIs df (o.f 3 2) sat (accElem a r c) scale (leNat bs / 2 ^ (widthOf df * c) % 2 ^ widthOf df)) ∧
    (let k := knots s (o.f 8 7)
     let g := knotG k
     let d := o.f 20 16
     let a := o.f 15 11
     s.f.sb = [] →
     if knotsOk k 16 = false ∨ 13 < 2 * g ∨ posNormal (knotH k - 0x00800000) = false then exec (.gref o) s = .next (raiseR s 0x0D 0 0)
     else if (∃ n ∈ grefSrc a g ++ grefDst d g, 32 ≤ n ∨ claimed s n = false) ∨ ∃ n ∈ grefSrc a g, n ∈ grefDst d g then
       exec (.gref o) s = .next (raiseR s 0x08 0 0)
     else Issues (.gref o) s o.kp o.consumed .filet none fun w => w = .gref d a (o.f 10 9) k) ∧
    (let k := knots s (o.f 6 5)
     let w := if o.eop.getLsbD 4 then 16 else 8
     let x := oslot s (o.f 16 12)
     let vas := (genTake s (o.f 20 17) (64 * w)).1
     let rows := if vas.isEmpty then [] else (touched k x).map fun r => vas.getD (64 * r.1 + r.2.1) 0
     CopyRoom s false → s.f.cur.claims.getLsbD (o.f 16 12) = true → s.f.cur.claims.getLsbD (o.f 11 7) = true → knotsOk k w = true →
     anySample x (clampFaults k) = false → (∀ a ∈ rows, InSpad s a 256) → (∀ a ∈ vas, a.toNat % 32 = 0) →
     Issues (.splg o) s o.kp o.consumed .copy none fun y =>
       y = .splg (rows.zipIdx.map fun (a, i) => ⟨i, 0, a, a.toNat, 256⟩) x (oslot s (o.f 11 7)) k (o.eop.getLsbD 4))

/-- 09 R177 to R182, 11 R207: a dimension instruction whose dimension is not the kernel's raises 0x20; the ring mask 0x23 and the multicast mask 0x24; else it
issues to the engine of its physical dimension. That GSH judges its mask before its dimensions, and that an MCST goes to the lowest of its dimensions, are the
model's choices (log 29). -/
def Obligations.DimensionInstructionsCheckAndIssue : Prop :=
  ∀ (o : ENG) (s : State), s.f.cur.q = true →
    let phys (l : Nat) : Nat := s.x.dimmap.toNat / 2 ^ (4 * l) % 16
    let l := o.f 20 17
    (¬DimAllowed s l → exec (.xch o) s = .next (raiseR s 0x20 0 0) ∧ exec (.xcmb o) s = .next (raiseR s 0x20 0 0) ∧
      exec (.sib o) s = .next (raiseR s 0x20 0 0)) ∧
    (let u := 2 ^ (2 + o.f 7 5)
     let a := genTake s (o.f 16 13) (genTotal (gen s (o.f 16 13)))
     let wr := o.eop.getLsbD 8
     let b := if wr then [] else (genTake a.2 (o.f 12 9) (genTotal (gen a.2 (o.f 12 9)))).1
     DimAllowed s l → ∀ sl rl, locsOf s u 1 a.1 = .ok sl → locsOf s u 1 b = .ok rl →
       let recv : Recv := if wr then .stream l else .runs rl
       (Issues (.xch o) s o.kp o.consumed (.dim (phys l)) none fun w => w = .dim l l (phys l) (phys l) sl recv u none true true) ∧
       (Issues (.xcmb o) s o.kp o.consumed (.dim (phys l)) none fun w => w = .dim l l (phys l) (phys l) sl recv u (some (o.f 4 2)) true true) ∧
       (o.f 4 1 < s.x.kndim →
         let sends := (lcoord s).testBit (o.f 4 1) = o.eop.getLsbD 0
         (sends → Issues (.sib o) s o.kp o.consumed (.dim (phys l)) none fun w =>
           w = .dim l l (phys l) (phys l) sl (if wr then .stream l else .runs []) u none true false) ∧
         (¬sends → Issues (.sib o) s o.kp o.consumed (.dim (phys l)) none fun w => w = .dim l l (phys l) (phys l) [] recv u none false true))) ∧
    (let m := (opS s (o.f 20 15)).toNat
     let ds := (List.range 15).filter m.testBit
     (m = 0 ∨ 2 ^ 15 ≤ m → exec (.gsh o) s = .next (raiseR s 0x23 0 0)) ∧
     (m ≠ 0 → m < 2 ^ 15 → (∃ d ∈ ds, ¬DimAllowed s d) → exec (.gsh o) s = .next (raiseR s 0x20 0 0)) ∧
     (let u := 2 ^ (2 + o.f 6 4)
      let a := genTake s (o.f 14 11) (genTotal (gen s (o.f 14 11)))
      let b := genTake a.2 (o.f 10 7) (genTotal (gen a.2 (o.f 10 7)))
      m ≠ 0 → m < 2 ^ 15 → (∀ d ∈ ds, DimAllowed s d) → ∀ sl rl, locsOf s u 1 a.1 = .ok sl → locsOf s u 1 b.1 = .ok rl →
        ∀ i, i < 2 ^ ds.length → (∀ j d, ds[j]? = some d → (i ^^^ i / 2).testBit j = (lcoord s).testBit d) →
        let up := (i + 1) % 2 ^ ds.length
        let down := (i + 2 ^ ds.length - 1) % 2 ^ ds.length
        let next := if o.eop.getLsbD 3 then down else up
        let prev := if o.eop.getLsbD 3 then up else down
        ∀ js jr sd rd, ds[js]? = some sd → ds[jr]? = some rd → (i ^^^ i / 2) ^^^ (next ^^^ next / 2) = 2 ^ js →
          (i ^^^ i / 2) ^^^ (prev ^^^ prev / 2) = 2 ^ jr →
          Issues (.gsh o) s o.kp o.consumed (.dim (phys sd)) none fun w => w = .dim sd rd (phys sd) (phys rd) sl (.runs rl) u none true true)) ∧
    (let x := (opS s (o.f 20 15)).toNat
     let m := x % 2 ^ 15
     let ds := (List.range 15).filter m.testBit
     let ps := ds.map phys
     let group := ∃ g, 2 ≤ g ∧ ∀ p ∈ ps, p / 3 = g
     ((∃ d ∈ ds, ¬DimAllowed s d) → exec (.mcst o) s = .next (raiseR s 0x20 0 0)) ∧
     ((∀ d ∈ ds, DimAllowed s d) → (m = 0 ∨ 3 < ds.length ∨ ¬group ∨ 2 ^ 30 ≤ x) → exec (.mcst o) s = .next (raiseR s 0x24 0 0)) ∧
     (let u := 2 ^ (2 + o.f 6 4)
      let a := genTake s (o.f 14 11) (genTotal (gen s (o.f 14 11)))
      let b := genTake a.2 (o.f 10 7) (genTotal (gen a.2 (o.f 10 7)))
      (∀ d ∈ ds, DimAllowed s d) → m ≠ 0 → ds.length ≤ 3 → group → x < 2 ^ 30 →
      ∀ root : Coord, (∀ p, p < 15 → root.getLsbD p = (match ds.find? fun d => phys d = p with
          | some d => (x / 2 ^ 15).testBit d | none => s.l.coord.getLsbD p)) → (ps.Nodup) →
        ∀ sl rl, locsOf s u 1 a.1 = .ok sl → locsOf s u 1 b.1 = .ok rl →
          ∃ p ∈ ps, (∀ q ∈ ps, p ≤ q) ∧ Issues (.mcst o) s o.kp o.consumed (.dim p) none fun w => ∃ mask : BitVec 15,
            (∀ p, p < 15 → mask.getLsbD p = decide (p ∈ ps)) ∧
            w = .mcast mask root (if root = s.l.coord then sl else []) (if root = s.l.coord then [] else rl) u (decide (root = s.l.coord)) (root != s.l.coord)))


/-! ### The memory slots -/

/-- 05 R103 to R113, 14 R254, R265: the loads; those of vectors to pages go to their homes as requests, page by page in the order of their elements; and what a load of this
core sees: the last waiting store of the gate that covers a byte, else memory. -/
def Obligations.LoadsReadWhatTheCoreSees : Prop :=
  (∀ p ∈ scalarLoads, ∀ (o : MEM) (s : State), s.f.cur.q = true → let a := memAddrs o false s
    LoadRule (p.1 o) s o .s a.1 a.2 p.2.1 p.2.1 scalarBits fun y => if p.2.2 then (sextN (8 * p.2.1) y).toNat else y) ∧
  (∀ (o : MEM) (s : State), s.f.cur.q = true → let a := memAddrs o true s
    LoadRule (.ldV o) s o .v a.1 a.2 (if o.mode = 0 then 2048 else 4) (if o.mode = 0 then 64 else 4) (BitVec.allOnes 16384) id) ∧
  (∀ (o : MEM) (s : State), s.f.cur.q = true → NoMix s →
    let n := if o.sc = 0 then 512 else min (opS s o.sc).toNat 512
    let a := (List.range n).map fun i => opS s o.base.toNat + (laneAt (vreg s o.vm) 32 i).zeroExtend 64 * 4
    LoadRule (.ldg o) s o .v a (spendMix s) 4 4 (BitVec.ofNat 16384 (2 ^ (32 * n) - 1)) id) ∧
  ∀ (s : State) (key : Nat),
    ((∀ g ∈ s.f.gate, key < g.key ∨ g.key + g.bytes.length ≤ key) → (seenByte s key).1 = readByte s.m.cells key) ∧
    ∀ l g r, s.f.gate = l ++ g :: r → g.key ≤ key → key < g.key + g.bytes.length →
      (∀ h ∈ r, key < h.key ∨ h.key + h.bytes.length ≤ key) → (seenByte s key).1 = g.bytes.getD (key - g.key) 0

/-- 05 R103 to R111, R121, R122, 08 R160: the stores: in kernel mode a local store waits in the gate; a handler's, and one that alone exceeds the gate, performs at
issue; a global store goes to the homes of its pages, page by page in the order of its elements. -/
def Obligations.StoresWaitInTheGateOrPerform : Prop :=
  (∀ p ∈ scalarStores, ∀ (o : MEM) (s : State), s.f.cur.q = true → let a := memAddrs o false s
    StoreRule (p.1 o) s o a.1 a.2 p.2 p.2 p.2 (bytesLE (opS s o.d.toNat).toNat p.2)) ∧
  (∀ (o : MEM) (s : State), s.f.cur.q = true → NoMix s → let a := memAddrs o true s
    StoreRule (.stV o) s o a.1 (spendMix a.2) (if o.mode = 0 then 2048 else 4) (if o.mode = 0 then 64 else 4) 2048
      ((List.range 2048).map fun j => laneAt (vreg s o.d.toNat) 8 j)) ∧
  ∀ (o : MEM) (s : State), s.f.cur.q = true → NoMix s →
    let n := if o.sc = 0 then 512 else min (opS s o.sc).toNat 512
    StoreRule (.sts o) s o ((List.range n).map fun i => opS s o.base.toNat + (laneAt (vreg s o.vm) 32 i).zeroExtend 64 * 4) (spendMix s) 4 4 2048
      ((List.range 2048).map fun j => laneAt (vreg s o.d.toNat) 8 j)

/-- 05 R114 to R120, 09 R184, 11 R210, 23 R366, R367: the atomics; acquiring and releasing bobbin slots; CLRF and its causes; XLT at issue; TOPK; and POPW from its
stream, which returns a credit for the vector to the partner. That CLRF and XLT take a negative count or length as 0 is the model's choice (log 26). -/
def Obligations.AtomicsBobbinsAndQueries : Prop :=
  (∀ p ∈ atomicOps.zipIdx, ∀ (o : MEM) (s : State), s.f.cur.q = true → AtomicRule (p.1.1 o) s o 8 p.2 fun m =>
    (p.1.2 (BitVec.ofNat 64 m) (opS s o.sb) (opS s o.d.toNat)).toNat) ∧
  (∀ (o : MEM) (s : State), s.f.cur.q = true → AtomicRule (.afadd o) s o 4 8 fun m => fadd fp32 0 m ((opS s o.sb).toNat % 2 ^ 32)) ∧
  ∀ (o : MEM) (s : State), s.f.cur.q = true →
    let n := o.base.toNat
    let b := bobbin s n
    let producer := o.hint.getLsbD 0
    let setUp := b.slot ≠ 0 ∧ b.count ≠ 0
    let other (t : State) : Prop := ∀ m, m ≠ n → bobbin t m = bobbin s m
    (¬setUp → exec (.bbacq o) s = .next (raiseR s 0x07 0 0) ∧ exec (.bbrel o) s = .next (raiseR s 0x07 0 0)) ∧
    (setUp → engineWaitsFor s n producer s.f.cur.bsn = false → (if producer then 0 < b.free else 0 < b.filled) → ∃ t : State, exec (.bbacq o) s = .next t ∧
      t.f.deliver = s.f.deliver ++ [deliveryOf s .s o.d.toNat
        ((b.base.zeroExtend 64 + BitVec.ofNat 64 (128 * b.slot * (if producer then b.prod else b.cons))).zeroExtend 16384) scalarBits 0] ∧
      bobbin t n = (if producer then { b with free := b.free - 1, prod := (b.prod + 1) % b.count, prodHeld := b.prodHeld + 1 }
        else { b with filled := b.filled - 1, cons := (b.cons + 1) % b.count, consHeld := b.consHeld + 1 }) ∧ other t ∧
      t = { s with r := { s.r with bb := t.r.bb }, f := { s.f with deliver := t.f.deliver, waits := t.f.waits } }) ∧
    (setUp → (if producer then b.free = 0 else b.filled = 0) → ∃ t : State, exec (.bbacq o) s = .next t ∧ t.f.cur.ctl = .wait ∧ t.r = s.r ∧ t.m = s.m) ∧
    (setUp → (if producer then b.prodHeld = 0 else b.consHeld = 0) → exec (.bbrel o) s = .next (raiseR s 0x07 0 0)) ∧
    (setUp → (if producer then b.prodHeld ≠ 0 else b.consHeld ≠ 0) → ∃ t : State, exec (.bbrel o) s = .next t ∧
      WroteBobbin s t n (if producer then { b with filled := b.filled + 1, prodHeld := b.prodHeld - 1 }
        else { b with free := b.free + 1, consHeld := b.consHeld - 1 })) ∧
    (let va := opS s o.base.toNat + o.off.signExtend 64
     let c := (opS s o.d.toNat).toInt.toNat
     (c = 0 → exec (.clrf o) s = .next s) ∧ (c ≠ 0 → ¬InSpad s va (128 * c) → exec (.clrf o) s = .next (raiseR s 0x10 0 va)) ∧
     (c ≠ 0 → InSpad s va (128 * c) → va.toNat % 128 ≠ 0 → exec (.clrf o) s = .next (raiseR s 0x11 0 va)) ∧
     (c ≠ 0 → InSpad s va (128 * c) → va.toNat % 128 = 0 → ∃ t : State, exec (.clrf o) s = .next t ∧ t = { s with m := { s.m with empties := t.m.empties } } ∧
       ∀ l, l ∈ t.m.empties ↔ l ∈ s.m.empties ∨ va.toNat / 128 ≤ l ∧ l < va.toNat / 128 + c)) ∧
    (let va := opS s o.base.toNat
     let len := (opS s (o.off.toNat % 2 ^ 8)).toInt.toNat
     (len = 0 → ∃ t : State, exec (.xlt o) s = .next t ∧ t = { s with f := { s.f with deliver := t.f.deliver } } ∧
       t.f.deliver = s.f.deliver ++ [deliveryOf s .s o.d.toNat 0 scalarBits 0]) ∧
     (len ≠ 0 → translate s va = none → exec (.xlt o) s = .next (raiseR s 0x10 0 va)) ∧
     (∀ k rs, len ≠ 0 → translate s va = some (.ia k) → xltPages s va [] 2048 0 len = some rs → ∃ (t : State) (r : Req), exec (.xlt o) s = .next t ∧ Joins s t r ∧
       r.op = .xlt (!o.hint.getLsbD 0) s.tick ∧ r.runs = rs ∧ r.va = va ∧ r.owner = s.kn.owner ∧ t.m.cells = s.m.cells ∧ t.r = s.r)) ∧
    (let d := (opS s o.sb).toNat
     let cols := max 1 (min 512 (d / 2 ^ 8 % 2 ^ 10))
     let k := max 1 (min (min cols 16) (d % 2 ^ 5))
     let rows := max 1 (min (512 / k) (d / 2 ^ 20 % 2 ^ 10))
     let base := opS s o.base.toNat
     let row (r : Nat) : W64 := base + BitVec.ofNat 64 (r * (o.off.toNat % 2 ^ 16))
     let score (r j : Nat) : Nat := leNat (seenBytes s ((row r).toNat + 4 * j) 4)
     base.toNat % 4 = 0 →
     (∀ r, r < rows → InSpad s (row r) (4 * cols) ∧ badIn s (row r).toNat (4 * cols) = none ∧
       (o.nowait = true ∨ ∀ i, i < 4 * cols → waitsOn s ((row r).toNat + i) = false)) →
     (LoadHeld s → Stalls (.topk o) s) ∧
     (¬LoadHeld s → ∃ (t : State) (v w : Vec) (st : BitVec 4), exec (.topk o) s = .next t ∧ t = { s with f := { s.f with deliver := t.f.deliver, waits := t.f.waits } } ∧
       t.f.deliver = s.f.deliver ++ [deliveryOf s .v o.d.toNat v (BitVec.allOnes 16384) st,
         deliveryOf s .v (o.d.toNat + 1) w (BitVec.allOnes 16384) 0] ∧
       ((∃ r j, r < rows ∧ j < cols ∧ IsNan fp32 (score r j)) → st = 1) ∧ ((∀ r j, r < rows → j < cols → ¬IsNan fp32 (score r j)) → st = 0) ∧
       ∀ r, r < rows →
         let best (i : Nat) : Nat × Nat := ((laneAt v 32 (r * k + i)).toNat, (laneAt w 32 (r * k + i)).toNat)
         (∀ i, i < k → (best i).2 < cols ∧ (best i).1 = score r (best i).2) ∧ (∀ i, i + 1 < k → TopBefore (best i) (best (i + 1))) ∧
         ∀ j, j < cols → (∃ i, i < k ∧ (best i).2 = j) ∨ ∀ i, i < k → TopBefore (best i) (score r j, j))) ∧
    (¬DimAllowed s n → exec (.popw o) s = .next (raiseR s 0x20 0 0)) ∧
    (DimAllowed s n → stream s n = [] → ∃ t : State, exec (.popw o) s = .next t ∧ t.f.cur.ctl = .wait ∧ t.r = s.r ∧ t.m = s.m) ∧
    (∀ v vs, DimAllowed s n → stream s n = v :: vs → s.e.cmds = [] → ∃ t : State, exec (.popw o) s = .next t ∧ stream t n = vs ∧
      (∀ m, m ≠ n → stream t m = stream s m) ∧ t.f.deliver = s.f.deliver ++ [deliveryOf s .v o.d.toNat v (BitVec.allOnes 16384) 0] ∧
      (∃ d f, f.dest = s.l.coord ^^^ (1#15 <<< (s.x.dimmap.toNat / 2 ^ (4 * n) % 16)) ∧ f.body = .credit s.x.coreid n 1 ∧
        port t d = { port s d with outq := (port s d).outq ++ [(.core s.x.coreid, f)] } ∧ ∀ m, m ≠ d → port t m = port s m) ∧
      t = { s with r := { s.r with w := t.r.w }, l := { s.l with ports := t.l.ports }, f := { s.f with deliver := t.f.deliver, waits := t.f.waits } })

/-! ### The sync slot -/

/-- 09 R185 to R187, R189, R190, R194, 07 R143: the waits. TWAIT, TJOIN and DRAIN complete KP once their tokens are complete and, for DRAIN, every remote write is
acknowledged; an errored token raises 0x18. FENCE goes on once earlier accesses have performed; EVWAIT once its counter has reached S[A]; BAR reaches its barrier
once, tells the other dies of a scope that spans dies, and goes on at once where that barrier has completed before. FMT acts at dispatch: its fields are in force from the fourth bundle behind it on. -/
def Obligations.SyncSlotsWaitForTheirCondition : Prop :=
  (∀ (s : State), s.f.cur.q = true →
    (∀ o : SYE,
      (TokensReady s o.consumed →
        (∃ t : State, exec (.twait o) s = .next t ∧ SyncDone s t o.kp true) ∧ (∃ t : State, exec (.tjoin o) s = .next t ∧ SyncDone s t o.kp false) ∧
        (drainReady s = true → ∃ t : State, exec (.drain o) s = .next t ∧ SyncDone s t o.kp true)) ∧
      (needsDone s (needsOf s o.consumed) = false →
        (∃ t : State, exec (.twait o) s = .next t ∧ HeadWaits s t) ∧ (∃ t : State, exec (.tjoin o) s = .next t ∧ HeadWaits s t)) ∧
      (needsDone s (needsOf s o.consumed) = false ∨ drainReady s = false → ∃ t : State, exec (.drain o) s = .next t ∧ HeadWaits s t) ∧
      ∀ e, needsDone s (needsOf s o.consumed) = true → firstErr s (needsOf s o.consumed) = some e →
        exec (.twait o) s = .next (raise18 s o.consumed e) ∧ exec (.tjoin o) s = .next (raise18 s o.consumed e) ∧
        (drainReady s = true → exec (.drain o) s = .next (raise18 s o.consumed e))) ∧
    (∀ o : SYN,
      (EarlierPerformed s → (3 ≤ o.f 2 0 → remoteAcked s = true) →
        exec (.fence o) s = .next { s with f := { s.f with holds := s.f.holds.filter (· != s.f.cur.bsn) } }) ∧
      (¬EarlierPerformed s ∨ (3 ≤ o.f 2 0 ∧ remoteAcked s = false) → exec (.fence o) s = .next (setCtl s .stall)) ∧
      ((opS s (o.f 15 10)).toNat ≤ (ec s (o.f 23 16)).toNat → ∃ t : State, exec (.evwait o) s = .next t ∧
        t = { s with f := { s.f with waits := s.f.waits.filter fun w => !(w.k = s.f.cur.k && w.bsn = s.f.cur.bsn),
                                     holds := s.f.holds.filter (· != s.f.cur.bsn) } }) ∧
      ((ec s (o.f 23 16)).toNat < (opS s (o.f 15 10)).toNat → ∃ t : State, exec (.evwait o) s = .next t ∧ HeadWaits s t) ∧
      exec (.fmt o) s = .next s ∧
      (let c := o.f 2 0
       let n := s.f.barsReached.get (c - 1) + 1
       1 ≤ c → c ≤ 4 → waitSince s 7 s.f.cur.bsn = none → EarlierPerformed s → remoteAcked s = true →
         (n ≤ s.f.barsDone.get (c - 1) → n ≤ arrivedOf s c (s.l.coord, s.x.coreid) → ∃ t : State, exec (.bar o) s = .next t ∧
           t.f.barsReached = s.f.barsReached.set (c - 1) n ∧ t.f.holds = s.f.holds.filter (· != s.f.cur.bsn) ∧
           t = { s with f := { s.f with barsReached := t.f.barsReached, holds := t.f.holds, jr := t.f.jr } }) ∧
         (s.f.barsDone.get (c - 1) < n → arrivedOf s c (s.l.coord, s.x.coreid) < n → ∃ t : State, exec (.bar o) s = .next t ∧
           t.f.cur = { s.f.cur with ctl := .wait } ∧ t.f.barsReached = s.f.barsReached.set (c - 1) n ∧
           arrivedOf t c (s.l.coord, s.x.coreid) = n ∧
           (∀ p d, (p, d) ≠ (c, s.l.coord, s.x.coreid) → arrivedOf t p d = arrivedOf s p d) ∧
           (∀ d ∈ scopeDies s c, OnCord t d (.barrier s.kn.owner s.kn.ltag c s.l.coord s.x.coreid)) ∧
           (c < 3 → t.l.ports = s.l.ports ∧ t.l.cordTx = s.l.cordTx) ∧
           t = { s with f := { s.f with barsReached := t.f.barsReached, waits := t.f.waits, cur := t.f.cur, jr := t.f.jr },
                        l := { s.l with barArrived := t.l.barArrived, ports := t.l.ports, cordTx := t.l.cordTx } })))) ∧
  ∀ (s : State) (fmtr : BitVec 32) (idx : List W64) (re : Bool) (grp : List Opd) (sc : Exe) (xs : List Exe),
    (∀ o : SYN, xs = [⟨7, .fmt o, true⟩] → let t := dispatched s fmtr [] idx re grp sc xs
      t.x.fmtr = fmtr ∧ t.x.pend = [⟨BitVec.ofNat 5 (o.f 24 20), BitVec.ofNat 20 (o.f 19 0), 3⟩]) ∧
    ∀ p : PendFmt, xs = [] → let t := dispatched s fmtr [p] idx re grp sc xs
      (1 < p.left → t.x.fmtr = fmtr ∧ t.x.pend = [{ p with left := p.left - 1 }]) ∧
      (p.left = 1 → t.x.pend = [] ∧ ∀ i, i < 32 → t.x.fmtr.getLsbD i =
        if i < 20 ∧ p.en.getLsbD (i / 4) = true then p.val.getLsbD i else fmtr.getLsbD i)

/-- 09 R188, R191 to R193, 26 R412: FLAG sends its word with the count of the writes of earlier bundles, and starts a new count of them; that a word whose parts range
registers map apart goes to the home of its first byte is the model's choice (log 29). PFNC fences a port of the
kernel's own, a fence that stands staying where it is; LWID sets the widths of a port in a handler; LAUNCH puts its record, with its addresses translated, at the end of a device queue. -/
def Obligations.FlagsPortsAndLaunches : Prop :=
  ∀ (s : State), s.f.cur.q = true →
    (∀ o : SYE, let va := opS s (o.f 19 14)
      (unitParts s false va 8 = none → exec (.flag o) s = .next (raiseR s 0x10 0 va)) ∧
      (unitParts s false va 8 ≠ none → va.toNat % 8 ≠ 0 → exec (.flag o) s = .next (raiseR s 0x11 0 va)) ∧
      ∀ (a : Part) (as : List Part), unitParts s false va 8 = some (a :: as) →
        let tg := a.tgt
        (va.toNat % 8 = 0 → TokensReady s o.consumed → flagReady s = true → 2 ^ 24 ≤ countOf s (homeOf s tg.key) s.f.cur.bsn →
          ∃ u : State, exec (.flag o) s = .next (raiseR u 0x26 0 0) ∧
            u = { s with f := { s.f with waits := s.f.waits.filter fun w => !(w.k = s.f.cur.k && w.bsn = s.f.cur.bsn) } }) ∧
        (va.toNat % 8 = 0 → TokensReady s o.consumed → flagReady s = true → countOf s (homeOf s tg.key) s.f.cur.bsn < 2 ^ 24 →
          ∃ (t : State) (m : FlagMsg), exec (.flag o) s = .next t ∧ t.l.sentFlags = s.l.sentFlags ++ [m] ∧
            m = ⟨tg.key, s.kn.owner, opS s (o.f 13 8), countOf s (homeOf s tg.key) s.f.cur.bsn, s.l.coord, s.x.coreid, s.m.nextReq, m.apart⟩ ∧
            ((∀ q ∈ as, q.tgt.key = tg.key + q.off) → m.apart = []) ∧
            ((∃ q ∈ as, q.tgt.key ≠ tg.key + q.off) → m.apart = as.map fun q => (q.off, q.tgt.key, q.len)) ∧
            (∀ d b, countAt t d b = if d = homeOf s tg.key ∧ b < s.f.cur.bsn then 0 else countAt s d b) ∧
            (IssuedCmd s t o.kp o.consumed fun c => c.eng = .sync ∧ c.work = .flag m.id va ∧ c.active = true) ∧
            t.m = { s.m with nextReq := s.m.nextReq + 1 } ∧ t.r = { s.r with tok := t.r.tok } ∧ t.x = s.x ∧
            t.f.unacked = (if homeOf s tg.key = s.l.coord then s.f.unacked else s.f.unacked ++ [⟨m.id, homeOf s tg.key, s.f.cur.bsn⟩]) ∧
            (homeOf s tg.key = s.l.coord → t.l = { s.l with sentFlags := t.l.sentFlags }))) ∧
    (∀ o : SYE, let l := o.f 19 16
      let d := s.x.dimmap.toNat / 2 ^ (4 * l) % 16
      let frame (t : State) : Prop := t = { s with r := { s.r with tok := t.r.tok }, e := t.e, l := { s.l with ports := t.l.ports },
                                                   f := { s.f with waits := t.f.waits } } ∧ ∀ m, m ≠ d → port t m = port s m
      (o.f 15 14 ≠ 0 → s.f.handler = false → exec (.pfnc o) s = .next (raiseR s 0x27 0 0)) ∧
      ((o.f 15 14 = 0 ∨ s.f.handler = true) → ¬DimAllowed s l → exec (.pfnc o) s = .next (raiseR s 0x20 0 0)) ∧
      (DimAllowed s l → TokensReady s o.consumed →
        (o.f 15 14 = 0 → ∃ t : State, exec (.pfnc o) s = .next t ∧ frame t ∧ port t d = port s d ∧
          IssuedCmd s t o.kp o.consumed fun c => c.work = .portFence d 0 ∧ c.active = true) ∧
        (o.f 15 14 = 1 → s.f.handler = true → ∃ t : State, exec (.pfnc o) s = .next t ∧ frame t ∧
          port t d = { port s d with portFence := some ((port s d).portFence.getD (port s d).outq.length) } ∧
          IssuedCmd s t o.kp o.consumed fun c => c.work = .portFence d 1 ∧ c.active = true) ∧
        (o.f 15 14 = 2 → s.f.handler = true → ∃ t : State, exec (.pfnc o) s = .next t ∧ frame t ∧ t.e = s.e ∧
          port t d = { port s d with portFence := none, cord := (port s d).cord ++ (port s d).cordBack, cordBack := [], cordSince := (port t d).cordSince } ∧
          ((port s d).cord ≠ [] ∨ (port s d).cordBack = [] → (port t d).cordSince = (port s d).cordSince) ∧
          ((port s d).cord = [] → (port s d).cordBack ≠ [] → (port t d).cordSince = s.tick)))) ∧
    (∀ o : SYN, let d := s.x.dimmap.toNat / 2 ^ (4 * o.f 19 16) % 16
      let ded := o.f 9 5
      let shr := o.f 4 0
      let fits : Prop := 3 ≤ d ∧ d ≤ 14 ∧ (d < 6 → 1 ≤ ded ∧ ded ≤ 16 ∧ shr = 0) ∧ (6 ≤ d → 1 ≤ ded ∧ ded ≤ 8 ∧ shr ≤ 8)
      (s.f.handler = false ∨ ¬fits → exec (.lwid o) s = .next (raiseR s 0x27 0 0)) ∧
      (s.f.handler = true → fits → ∃ t : State, exec (.lwid o) s = .next t ∧ t = { s with l := { s.l with ports := t.l.ports } } ∧
        (∀ m, m ≠ d → port t m = port s m) ∧
        port t d = { port s d with ded := min ded (port s d).lanes, lwid := true, shr := shr, striped := (port t d).striped } ∧
        (d < 6 → (port t d).striped = min ded (port s d).lanes))) ∧
    (∀ o : SYE, let va := opS s (o.f 17 12)
      let q := 16 + o.f 19 18
      let rec0 : BitVec 512 := BitVec.ofNat 512 (leNat (readBytes s.m.cells va.toNat 64))
      (¬InSpad s va 64 → exec (.launch o) s = .next (raiseR s 0x10 0 va)) ∧
      (InSpad s va 64 → va.toNat % 64 ≠ 0 → exec (.launch o) s = .next (raiseR s 0x11 0 va)) ∧
      (InSpad s va 64 → va.toNat % 64 = 0 → TokensReady s o.consumed → badIn s va.toNat 64 ≠ none →
        ∃ u : State, exec (.launch o) s = .next (raiseR u 0x16 0 va) ∧
          u = { s with f := { s.f with waits := s.f.waits.filter fun w => !(w.k = s.f.cur.k && w.bsn = s.f.cur.bsn) } }) ∧
      (InSpad s va 64 → va.toNat % 64 = 0 → TokensReady s o.consumed → badIn s va.toNat 64 = none → ∀ r, launchRecord s rec0 = .ok r →
        (∀ i, i < 512 → 64 ≤ i → ¬(192 ≤ i ∧ i < 256) → r.getLsbD i = rec0.getLsbD i) ∧
        (queueLen s q < 16 → ∃ t : State, exec (.launch o) s = .next t ∧
          mapGet [] t.c.queues q = mapGet [] s.c.queues q ++ [⟨r, s.kn.owner, s.kn.cls, 0, none, 0, 0⟩] ∧
          (∀ n, n ≠ q → mapGet [] t.c.queues n = mapGet [] s.c.queues n) ∧ (∃ u : State, SyncDone s u o.kp false ∧
            t = { u with c := { s.c with queues := t.c.queues } })) ∧
        (16 ≤ queueLen s q → ∃ u : State, exec (.launch o) s = .next (raiseR u 0x32 0 0) ∧
          u = { s with f := { s.f with waits := s.f.waits.filter fun w => !(w.k = s.f.cur.k && w.bsn = s.f.cur.bsn) } })))

/-! ### Landings -/

/-- 04 R89, 07 R138, 16 R288, R289, R299, 20 R342: results land. A vector result lands in an issue cycle of its queue, and while the
head of the queue is stalled it does not; it writes the bits that its element mask marked, and its sticky bits; a delivered
value writes its register and clears its pending write; a step adds its contribution to its accumulator, rounding once, or overwrites it, where an
element that an engine has written meanwhile counts as written or as it was before (18 R319); a step of a chain joins its segment, and an MMZ begins one (18 R320); a
matrix issue cycle in which nothing lands changes no accumulator. -/
def Obligations.ResultsLandInTheirRegisters : Prop :=
  (∀ (s : State) (v : VQueue) (e : QEntry) (es : List QEntry) (l : Latch) (pre post : List Latch),
    let q := match v with | .va => Queue.va | .vb => Queue.vb
    let due (x : Latch) : Prop := x.q = v ∧ x.due ≤ e.bsn
    getQ s q = e :: es → headStopped s q e = false → s.f.latches = pre ++ l :: post → due l → (∀ x ∈ pre ++ post, ¬due x) → NoClash s q l.dst →
    ∃ t : State, exec (.latchLands v) s = .next t ∧ t.f.latches = pre ++ post ∧ t.x = { s.x with stky := s.x.stky ||| l.sticky.getD 0 } ∧
      (∀ n, l.dst = .v n → WroteVec s t n l.val l.wm ∧ t.r = { s.r with v := t.r.v }) ∧
      (∀ n, l.dst = .mk n → WroteMask s t n l.val l.wm ∧ t.r = { s.r with mask := t.r.mask }) ∧
      t = { s with r := t.r, x := t.x, f := { s.f with latches := t.f.latches, unord := t.f.unord, jr := t.f.jr } }) ∧
  (∀ (s : State) (v : VQueue) (e : QEntry) (es : List QEntry),
    let q := match v with | .va => Queue.va | .vb => Queue.vb
    getQ s q = e :: es → headStopped s q e = true → exec (.latchLands v) s = notEnabled "LATCH_LANDS") ∧
  (∀ (s : State) (k : Nat) (d : Delivery), s.f.deliver[k]? = some d → d.write = true →
    (∀ x ∈ s.f.deliver, x.file = d.file → x.n = d.n → d.bsn ≤ x.bsn) →
    (d.file = .s → ∃ t : State, exec (.interlockedWriteLands k) s = .next t ∧ (∀ n, sreg t n = if n = d.n ∧ n ≠ 0 then d.val.truncate 64 else sreg s n) ∧
      t.r = { s.r with s := t.r.s } ∧ t.f.deliver = s.f.deliver.eraseIdx k ∧
      t.f.sb = (s.f.sb.filter fun p => !(p.file = .s && p.n = d.n && p.bsn = d.bsn)) ∧ t.x = { s.x with stky := s.x.stky ||| d.sticky } ∧
      t = { s with r := t.r, x := t.x, f := { s.f with deliver := t.f.deliver, sb := t.f.sb, qs := t.f.qs, jr := t.f.jr } }) ∧
    (d.file = .v → NoClash s d.q (.v d.n) → ∃ t : State, exec (.interlockedWriteLands k) s = .next t ∧ WroteVec s t d.n d.val d.wm ∧
      t.r = { s.r with v := t.r.v } ∧ t.f.deliver = s.f.deliver.eraseIdx k ∧
      t.f.sb = (s.f.sb.filter fun p => !(p.file = .v && p.n = d.n && p.bsn = d.bsn)) ∧ t.x = { s.x with stky := s.x.stky ||| d.sticky } ∧
      t = { s with r := t.r, x := t.x, f := { s.f with deliver := t.f.deliver, sb := t.f.sb, unord := t.f.unord, jr := t.f.jr } })) ∧
  (∀ (s : State) (x : MStep) (pre post : List MStep), mxCounts s = true → s.f.steps = pre ++ x :: post → x.left = 1 → x.shadow = false →
    (∀ y ∈ pre ++ post, 1 < y.left) → (∀ p ∈ x.prior, x.lo ≤ p.1 / 64 ∧ p.1 / 64 < x.hi) →
    ∃ t : State, exec (if x.filet then .filetStepLands else .matrixStepLands) s = .next t ∧ StepsNearerBut s t ∧ (x.prior = [] → StepsNearer s t) ∧
      (∀ n, n ≠ x.acc → acc t n = acc s n ∧ chain t n = chain s n) ∧
      (∀ start adds segs, chain s x.acc = some (.mms start adds segs) → ∃ segs', (x.prior = [] → segs' = segs) ∧
        chain t x.acc = some (if x.filet then .mms start adds segs else if x.zero then .mms (acc t x.acc) [] [] else .mms start (adds ++ [x.val]) segs')) ∧
      (∀ i j, i < 64 → j < 64 → ∃ v, (v = accElem (acc s x.acc) i j ∨ ∃ (w : BitVec 32) (seg : _), (64 * i + j, w, seg) ∈ x.prior ∧ v = w.toNat) ∧
        accElem (acc t x.acc) i j =
          if x.lo ≤ i ∧ i < x.hi then (if x.zero then accElem x.val i j else fadd fp32 0 v (accElem x.val i j) % 2 ^ 32)
          else accElem (acc s x.acc) i j) ∧
      t = { s with r := { s.r with acc := t.r.acc, chains := t.r.chains }, f := { s.f with steps := t.f.steps }, fresh := t.fresh } ∧
      (x.prior = [] → t.fresh = s.fresh)) ∧
  ∀ (s : State) (x : MStep), x ∈ s.f.steps → x.beats = 2 → (∀ y ∈ s.f.steps, 1 < y.left) →
    ∃ t : State, exec .stepLastBeat s = .next t ∧ StepsNearer s t ∧ t = { s with f := { s.f with steps := t.f.steps } }

/-- 05 R113, R115, 09 R184 to R189, R194: the ends of waits. A waiting slot at the head of its queue goes on once its lines are full, its bobbin has a slot, its
tokens have completed, its event counter has come or every core has reached its barrier; a limit that expires first raises its cause. FLAG words travel in the
order of their core and home, are written once the writes that they count have performed, and complete their token. -/
def Obligations.WaitsEndAndFlagWordsArrive : Prop :=
  (∀ (s : State) (e : QEntry) (x : QSlot) (t0 : W64), HeadHasWaited s e x t0 →
    let u := withSlot s e x
    (∀ p ∈ scalarLoads, ∀ (o : MEM) (a : W64), x.instr = p.1 o → o.glb = false → (memAddrs o false u).1 = [a] → InSpad s a p.2.1 → a.toNat % p.2.1 = 0 →
      (∀ b, b < p.2.1 → waitsOn s (a.toNat + b) = false) → badIn s a.toNat p.2.1 = none → ¬LoadHeld u →
      ∃ (t : State) (y : Nat), exec .lineFillRelease s = .next t ∧
        t.f.deliver = s.f.deliver ++ [⟨.s, o.d.toNat, e.bsn, BitVec.ofNat 16384 (if p.2.2 then (sextN (8 * p.2.1) y).toNat else y), scalarBits, true, 0, .mem⟩] ∧
        y < 2 ^ (8 * p.2.1) ∧ (∀ b, b < p.2.1 → y / 2 ^ (8 * b) % 2 ^ 8 = (seenByte s (a.toNat + b)).1.toNat) ∧ t.m = s.m ∧ t.x = s.x) ∧
    (∀ o : MEM, x.instr = .bbacq o →
      let n := o.base.toNat
      let b := bobbin s n
      let producer := o.hint.getLsbD 0
      engineWaitsFor s n producer e.bsn = false → (if producer then 0 < b.free else 0 < b.filled) → ∃ t : State, exec .bbacqGrant s = .next t ∧
        t.f.deliver = s.f.deliver ++ [⟨.s, o.d.toNat, e.bsn,
          (b.base.zeroExtend 64 + BitVec.ofNat 64 (128 * b.slot * (if producer then b.prod else b.cons))).zeroExtend 16384, scalarBits, true, 0, .mem⟩] ∧
        bobbin t n = (if producer then { b with free := b.free - 1, prod := (b.prod + 1) % b.count, prodHeld := b.prodHeld + 1 }
          else { b with filled := b.filled - 1, cons := (b.cons + 1) % b.count, consHeld := b.consHeld + 1 }) ∧
        (∀ m, m ≠ n → bobbin t m = bobbin s m) ∧ t.r = { s.r with bb := t.r.bb } ∧ t.m = s.m) ∧
    (∀ o : MEM, x.instr = .popw o → stream s o.base.toNat = [] →
      (if o.off = 0 then 1048576 else 1024 * o.off.toNat) ≤ (s.tick - t0).toNat →
      exec .popwTimeout s = .next (raiseR (endWait u 4 e.bsn) 0x22 0 0))) ∧
  (∀ (s : State) (e : QEntry) (x : QSlot) (t0 : W64), headSlot s 7 = some (e, x) → x.k = 7 → x.q = true → waitSince s 7 e.bsn = some t0 →
    let u := withSlot s e x
    (∀ o : SYE, x.instr = .twait o → TokensReady u o.consumed → ∃ t : State, exec .twaitRelease s = .next (retireSlot t 7) ∧ SyncDone u t o.kp true) ∧
    (∀ o : SYE, x.instr = .tjoin o → TokensReady u o.consumed → ∃ t : State, exec .twaitRelease s = .next (retireSlot t 7) ∧ SyncDone u t o.kp false) ∧
    (∀ o : SYE, x.instr = .drain o → TokensReady u o.consumed → drainReady u = true →
      ∃ t : State, exec .drainCompletion s = .next (retireSlot t 7) ∧ SyncDone u t o.kp true) ∧
    (∀ o : SYE, x.instr = .drain o → drainReady u = false → (if o.eop = 0 then 4194304 else 1024 * o.eop.toNat) ≤ (s.tick - t0).toNat →
      exec .drainTimeout s = .next (raiseR (endWait u 7 e.bsn) 0x25 0 0)) ∧
    (∀ o : SYN, x.instr = .evwait o →
      let due : Prop := (opS u (o.f 15 10)).toNat ≤ (ec s (o.f 23 16)).toNat
      (due → ∃ t : State, exec .evwaitRelease s = .next (retireSlot t 7) ∧
        t = { u with f := { u.f with waits := u.f.waits.filter (fun w => !(w.k = 7 && w.bsn = e.bsn)), holds := u.f.holds.filter (· != e.bsn) } }) ∧
      (¬due → o.f 9 0 ≠ 0 → 65536 * o.f 9 0 ≤ (s.tick - t0).toNat → exec .evwaitTimeout s = .next (raiseR (endWait u 7 e.bsn) 0x36 0 0))) ∧
    (∀ o : SYN, x.instr = .bar o → let c := o.f 2 0
      let n := s.f.barsReached.get (c - 1)
      (∀ p ∈ barrierSet s c, n ≤ arrivedOf s c p) → ∃ t : State, exec .barrierCompletion s = .next (retireSlot t 7) ∧
        t.f.barsDone = s.f.barsDone.set (c - 1) n ∧ t.f.holds = s.f.holds.filter (· != e.bsn) ∧
        t = { u with f := { u.f with waits := t.f.waits, holds := t.f.holds, barsDone := t.f.barsDone } })) ∧
  ∀ s : State,
    (∀ c die core, running s = true → 1 ≤ c → c ≤ 4 → (die, core) ∈ barrierSet s c → (die ≠ s.l.coord ∨ core ≠ s.x.coreid) →
      ∃ t : State, exec (.barrierArrival c die core) s = .next t ∧ arrivedOf t c (die, core) = arrivedOf s c (die, core) + 1 ∧
        (∀ p d, (p, d) ≠ (c, die, core) → arrivedOf t p d = arrivedOf s p d) ∧ t = { s with l := { s.l with barArrived := t.l.barArrived } }) ∧
    (∀ (m : FlagMsg) (ms : List FlagMsg), s.l.sentFlags = m :: ms → m.die = s.l.coord → m.core = s.x.coreid →
      (∀ p ∈ s.l.ports, ∀ x ∈ p.2.cord ++ p.2.cordBack, x.msg ≠ .flag m) →
      exec (.flagWordArrives m) s = .next { s with l := { s.l with sentFlags := ms, flags := s.l.flags ++ [m] } }) ∧
    (∀ m : FlagMsg, m.die ≠ s.l.coord → homeOf s m.addr = s.l.coord →
      exec (.flagWordArrives m) s = .next { s with l := { s.l with flags := s.l.flags ++ [m] } }) ∧
    (∀ (m : FlagMsg) (ms : List FlagMsg) (c : Cmd), s.l.flags = m :: ms → m.die = s.l.coord → m.core = s.x.coreid → FlagPlaces m →
      (∀ r ∈ s.m.reqs, r.src = .core → isWrite r.op = true → m.id ≤ r.id) →
      (∀ d ∈ s.e.cmds, ∀ g ∈ d.xf.segs, ∀ x ∈ g, ∀ n, x.sent = some n → m.id ≤ n) →
      (s.e.cmds.find? fun d => match d.work with | .flag id _ => decide (id = m.id) | _ => false) = some c →
      ∃ t : State, exec .flagWordWrite s = .next t ∧ t.l = { s.l with flags := ms } ∧
        ((∀ p ∈ flagParts m, inGoneWindow s p.2.1 = false) → WroteFlag s t m) ∧
        ((∃ p ∈ flagParts m, inGoneWindow s p.2.1 = true) → t.m = s.m ∧ ∃ e, (token t c.kp).errs.getLast? = some e ∧ e.prod = c.prod ∧ e.cause = 0x17) ∧
        t.e = { s.e with cmds := s.e.cmds.filter fun x => x.id != c.id } ∧ c.prod ∉ (token t c.kp).pend ∧ (∀ n, n ≠ c.kp → token t n = token s n) ∧
        t.r = { s.r with tok := t.r.tok } ∧ t.x = s.x) ∧
    (∀ (m : FlagMsg) (ms : List FlagMsg), s.l.flags = m :: ms → m.die ≠ s.l.coord → m.cnt ≤ performedOf s m.die m.core → FlagPlaces m →
      (∀ p ∈ flagParts m, inGoneWindow s p.2.1 = false) → ∃ t : State, exec .flagWordWrite s = .next t ∧ WroteFlag s t m ∧
        performedOf t m.die m.core = performedOf s m.die m.core - m.cnt ∧ t.r = s.r ∧ t.x = s.x ∧ t.e = s.e) ∧
    (∀ id : Nat, ((∃ u ∈ s.f.unacked, u.id = id) ∨ (∃ c ∈ s.c.contexts, ∃ u ∈ c.f.unacked, u.id = id) ∨ ∃ x ∈ s.c.runs, id ∈ x.unacked) → (∀ m ∈ s.l.sentFlags ++ s.l.flags, m.id = id → m.die ≠ s.l.coord ∨ m.core ≠ s.x.coreid) →
      (∀ r ∈ s.m.reqs, r.id ≠ id) → exec (.remoteWriteAck id) s = .next { s with
        f := { s.f with unacked := s.f.unacked.filter fun u => u.id != id }
        c := { s.c with contexts := s.c.contexts.map fun c => { c with f := { c.f with unacked := c.f.unacked.filter fun u => u.id != id } }
                        runs := s.c.runs.map fun x => { x with unacked := x.unacked.filter fun u => u != id } } })

/-! ### Marks, interrupts, the end of a kernel on its core -/

/-- 05 R121, R122, 07 R145 to R148, 08 R150, R151, R163, 25 R391, 26 R415 to R417, 27 R431: a mark is set where the core has drained, and the gate performs: memory
then holds what the core saw; a realign closes the order of unordered writes; asynchronous causes are kept until a dispatch boundary takes them; the watchdog; power
throttling; the end of the kernel on this core; pre-emption. -/
def Obligations.MarksInterruptsAndPreemption : Prop :=
  ∀ s : State,
    let performs (t : State) : Prop := ∀ key, readByte t.m.cells key = (seenByte s key).1
    let marked (t : State) : Prop := performs t ∧ t.f.gate = [] ∧ t.f.jr = .empty ∧ t.f.mark.pc = s.f.pc ∧ t.f.mark.loops = s.r.loops ∧
      t.f.mark.fmtr = s.x.fmtr ∧ t.f.mark.pend = s.x.pend ∧ t.r = s.r ∧ t.x = s.x ∧ t.e = s.e
    let drainedFor (t : State) (i : TrapInfo) : Prop := t = enterForward { s with f := { s.f with asyncs := [] } } i s.f.pc
    (s.f.rbFaults = [] → s.f.ahead = none →
      (s.f.fe = .marking → markComplete s = true → ∃ t : State, exec .markSet s = .next t ∧ marked t ∧
        let next := nextMarked s ((s.f.markBehind.map (· + 1)).getD s.f.bsn)
        t.f.markBehind = next ∧ t.f.fe = if next.isSome then .marking else .run) ∧
      (s.f.fe = .landing → markReady s = true → landLate s = false → ∃ t : State, exec .markSet s = .next t ∧ marked t ∧ t.f.fe = .landed)) ∧
    (∀ a r, s.f.rbFaults = [] → s.f.ahead = some a → (s.f.groups.get a.g).resKept = some r → commitReady s = true →
      ∃ t : State, exec .markSet s = .next t ∧ marked t ∧ t.f.ahead = none ∧ t.f.markBehind = nextMarked s a.bsn ∧
        (s.f.fe = .run → t.f.fe = if (nextMarked s a.bsn).isSome then .marking else .run)) ∧
    (∀ bsn, (∀ q ∈ allQueues, ∃ e es, getQ s q = e :: es ∧ e.bsn = bsn ∧ (q = .va → e.realign = true)) → s.f.realigned ≤ bsn →
      (∀ l ∈ s.f.latches, bsn ≤ l.bsn) → (∀ x ∈ s.f.steps, bsn ≤ x.bsn) → (∀ p ∈ s.f.sb, bsn ≤ p.bsn) → (∀ d ∈ s.f.deliver, bsn ≤ d.bsn) →
      (∀ a ∈ s.m.accs, bsn ≤ a.bsn) → exec .realign s = .next { s with f := { s.f with realigned := bsn + 1, unord := [] } }) ∧
    (∀ c d, s.f.asyncs = [(c, d)] → s.f.handler = false → s.f.fe = .run → s.f.ahead = none →
      let i : TrapInfo := ⟨c, d, 7, 0, 0, 0, 0, none⟩
      (c ∈ [0x38, 0x06, 0x30, 0x31, 0x37] → drained s = true → s.f.rbFaults = [] → ∃ t : State, exec .asyncTrapEntry s = .next t ∧ drainedFor t i) ∧
      (c ∈ [0x38, 0x06, 0x30, 0x31, 0x37] → drained s = false ∨ s.f.rbFaults ≠ [] → ∃ t : State, exec .asyncTrapEntry s = .next t ∧ t.f.fe = .draining (some i) ∧
        t = { s with f := { s.f with fe := t.f.fe, window := t.f.window } }) ∧
      (c = 0x33 → exec .asyncTrapEntry s = .next (enterRollback { s with f := { s.f with asyncs := [] } } i))) ∧
    (running s = true →
      let kept (c d : Nat) (t : State) : Prop :=
        t.f.asyncs = (if ∃ p ∈ s.f.asyncs, p.1 = c then s.f.asyncs else s.f.asyncs ++ [(c, d)]) ∧ t.r = s.r ∧ t.x = s.x ∧ t.m = s.m ∧ t.f.fe = s.f.fe
      (s.kn.trapen = true → ∃ t : State, exec .timerInterrupt s = .next t ∧ kept 0x30 0 t) ∧
      (∃ t : State, exec .machineCheck s = .next t ∧ kept 0x38 0 t) ∧
      (s.x.wdog ≠ 0 → s.x.wdog.toNat ≤ (s.tick - s.f.wcount).toNat →
        (s.f.handler = false → ∃ t : State, exec .watchdogExpiry s = .next t ∧ kept 0x06 0 t ∧ t.f.wcount = s.tick) ∧
        (s.f.handler = true → endsNow s = true → ∃ t : State, exec .watchdogExpiry s = .next t ∧ kept 0x06 0 t ∧ t.f.wcount = s.tick) ∧
        (s.f.handler = true → endsNow s = false → ∃ (t : State) (e : EndStatus), exec .watchdogExpiry s = .next t ∧ t.f.fe = .exiting e ∧ e.fault = true ∧
          e.tcause.toNat % 64 = 0x39 ∧ e.tcause.toNat / 2 ^ 48 = 0x06))) ∧
    (∀ st, s.f.fe = .exiting st → exitReady s st = true → s.f.rbFaults = [] →
      ∃ (t : State) (e : EndStatus), exec .coreCompletion s = .next t ∧ t.f.fe = .ended e ∧ t.f.handler = false ∧ t.f.gate = [] ∧ t.f.latches = [] ∧
        (st.fault = true → e = st) ∧ (st.fault = false → (∀ p ∈ s.r.tok, ∀ x ∈ p.2.errs, x.consumed = true) → e = st) ∧
        ((∀ x ∈ s.c.runs, x.here = true → x.killed = false) → performs t)) ∧
    (∀ draw : BitVec 16,
      (s.c.thr = false → s.c.limit.toNat < draw.toNat → ∃ t : State, exec (.throttleStart draw) s = .next t ∧ t.c = { s.c with draw := draw, thr := true } ∧
        (running s = true → s.kn.trapen = true → (∃ p ∈ t.f.asyncs, p.1 = 0x37)) ∧ t = { s with c := t.c, f := { s.f with asyncs := t.f.asyncs } }) ∧
      (s.c.thr = true → draw.toNat < s.c.limit.toNat →
        exec (.throttleEnd draw) s = .next { s with c := { s.c with draw := draw, thr := false } })) ∧
    ∀ x : Run, s.c.runs = [x] →
      (mayAsk s x = true → headPresses s x = true → ∃ t : State, exec (.preemptionRequest x.id) s = .next t ∧
        t.c.runs = [{ x with asked := some s.tick }] ∧ (x.here = true → running s = true → t.f.preempt = true) ∧
        t = { s with c := { s.c with runs := t.c.runs }, f := { s.f with preempt := t.f.preempt }, fresh := t.fresh, m := { s.m with gone := t.m.gone } }) ∧
      (x.here = true → x.suspended = false → x.killed = false → x.asked ≠ none → s.f.fe = .landed → tokensDone s = true →
        ∃ (t : State) (c : Context), exec .contextSave s = .next t ∧ t.f.fe = .saved ∧ t.f.preempt = false ∧
        t.c.runs = [if alone x then { x with suspended := true, here := false, asked := none } else x] ∧ t.c.contexts = s.c.contexts ++ [c] ∧
        c.run = x.id ∧ c.r = s.r ∧ c.x = s.x ∧ c.f = { s.f with unacked := c.f.unacked } ∧ (∀ u ∈ s.f.unacked, u ∈ c.f.unacked) ∧
        (∀ r ∈ s.m.reqs, r.src = .core → isWrite r.op = true → ∃ u ∈ c.f.unacked, u.id = r.id) ∧ (∀ r ∈ t.m.reqs, r.src ≠ .core) ∧
        (∀ r ∈ s.m.reqs, ∃ q ∈ t.m.reqs, q.id = r.id ∧ q.op = r.op ∧ q.runs = r.runs ∧ q.stage = r.stage) ∧
        (∀ k, k < 2 ^ 20 → readByte c.spad k = readByte s.m.cells k) ∧
        c.rx = s.e.rx ∧ c.used = s.e.used ∧ c.arrived = s.l.barArrived ∧ t.e = { s.e with rx := [] } ∧
        t.r = s.r ∧ t.x = s.x ∧ t.m.cells = s.m.cells) ∧
      (x.here = true → x.suspended = false → s.f.fe = .run → ∀ t0, x.asked = some t0 → 8000000 ≤ (s.tick - t0).toNat →
        exec .preemptionWithdrawal s = .next { s with c := { s.c with runs := [{ x with asked := none }] }, f := { s.f with preempt := false }, m := { s.m with gone := 0 } })

/-! ### Engine commands -/

/-- 09 R167 to R171, R173 to R176, R179, R180, R183, 08 R158, 13 R246, R248, R249, 16 R300, 19 R332, 20 R337, R345, 22 R362, R363: a command starts in the order of its
engines, a timed copy at its time, once its tokens have completed and earlier accesses have performed; an errored token makes it start without its work, with the record.
It reads its source piece by piece and writes its destination sector by sector, which this statement gives for pieces in the own scratchpad: of copies and rows that do
not overlap, of TRN the transposed tile, of SPLG the rounded sums of gradients and weights, added; a TRN that the rewrite stage has cancelled changes no byte. A receive
writes the partner's stream, which XCMB combines with the local one, and when all is written it acknowledges the stream. What has been read goes into its table or its rows
of an operand slot; a refinement writes its slots and its knot set; and a token completes once its command is done, in the error state where it met a fault. How the model
cuts a transfer into steps is its choice (log 12). -/
def Obligations.EngineCommandsStartAndComplete : Prop :=
  ∀ s : State, (s.e.cmds.map Cmd.id).Nodup →
    let becomes (t : State) (c d : Cmd) : Prop := t.e = { s.e with cmds := s.e.cmds.map fun x => if x.id = c.id then d else x }
    (∀ c : Cmd, c ∈ s.e.cmds → s.e.rx = [] → c.active = false → needsDone s c.needs = true → tokenDone s c.kp c.prod = true →
      earlierDone s c.bsn = true → c.srcSlot = none → c.dstSlot = none → c.rw = none →
      (∀ m r a b u x y, c.work ≠ .mcast m r a b u x y) → (∀ l rl sd rd a r u op x, c.work ≠ .dim l rl sd rd a r u op true x) →
      (∀ a b us ud n cv f, c.work = .copy a b us ud n cv f → (∀ k, a ≠ .bob k) ∧ ∀ k, b ≠ .bob k) →
      (∀ p ∈ sourcesOf s c, ∀ i, i < p.len → isEmptyLine s (p.key + i) = false) →
      let started (t : State) (d : Cmd) : Prop := becomes t c d ∧ t.m = s.m ∧ t.x = s.x ∧ t.f = s.f ∧ t.l = s.l
      let first : Prop := (c.time = none ∧ ∀ e ∈ c.eng :: enginesOf c,
          s.e.cmds.find? (fun x => (enginesOf x).contains e && !x.active && x.time.isNone) = some c) ∨
        ∃ T, c.time = some T ∧ T.toNat ≤ s.tick.toNat ∧ (s.e.cmds.filter fun x => !x.active && x.time.isSome) = [c]
      let start : Instr := if c.time = none then .engineCommandStart c.eng else .timedCopyStart
      first →
        (firstErr s c.needs = none → ∃ t : State, exec start s = .next t ∧ started t { c with active := true, xf := planXfer s c } ∧ t.r = s.r) ∧
        ∀ e, firstErr s c.needs = some e → ∃ t : State, exec start s = .next t ∧
          started t { c with active := true, err := some (e.cause, e.addr), errRw := e.rw, work := quiet c.work } ∧ t.r = { s.r with tok := t.r.tok }) ∧
    (∀ (j : Nat) (c : Cmd), c ∈ s.e.cmds → isDim c.work = false →
      (∀ a b us ud n cv f, c.work = .copy a b us ud n cv f → (∀ k, a ≠ .bob k) ∧ ∀ k, b ≠ .bob k) →
      (∀ (i : Nat) (p : Piece), (engActs s)[j]? = some (c.id, .read i) → c.xf.reads[i]? = some ⟨p, none⟩ → p.key + p.len ≤ 2 ^ 20 →
        c.rw = none → readHeld s c = false → badIn s p.key p.len = none → ∃ t : State, exec (.homeAccess (s.m.reqs.length + j)) s = .next t ∧ t = { s with e := t.e } ∧
          becomes t c { c with xf := { c.xf with reads := c.xf.reads.eraseIdx i, got := c.xf.got ++ [(p, readBytes s.m.cells p.key p.len)] } }) ∧
      ∀ (g o : Nat) (p : Piece) (seg : List Sect), (engActs s)[j]? = some (c.id, .write g) →
        c.xf.segs[g]? = some (⟨o, [p], none, false, []⟩ :: seg) → p.key + p.len ≤ 2 ^ 20 → 0 < p.len →
        let steps (t : State) : Prop := exec (.homeAccess (s.m.reqs.length + j)) s = .next t ∧ t.r = s.r ∧ t.x = s.x ∧ t.f = { s.f with flagCnt := t.f.flagCnt } ∧
          t.l = s.l ∧ (∀ d b, countAt t d b = if d = s.l.coord ∧ b = c.bsn then countAt s d b + 1 else countAt s d b) ∧
          becomes t c { c with xf := { c.xf with segs := (c.xf.segs.set g seg).filter fun g => !g.isEmpty } }
        let writes (bs : List Byte) : Prop := ∃ t : State, steps t ∧ KeepsMemoryBut s t p.key p.len ∧
          (∀ i, i < p.len → readByte t.m.cells (p.key + i) = bs.getD i 0) ∧
          (s.m.empties.Nodup → (∀ g' ∈ c.xf.segs.set g seg, ∀ y ∈ g', ∀ q ∈ y.parts, q.key / 128 ≠ p.key / 128) → isEmptyLine t p.key = false)
        (∀ (src dst : List Piece) (u n : Nat) (bs : List Byte), c.rw = none → (∃ f, c.work = .copy (.runs src) (.runs dst) u u n 0 f) ∨ c.work = .rows src dst u →
          (∀ x ∈ src, ∀ y ∈ dst, x.key + x.len ≤ y.key ∨ y.key + y.len ≤ x.key) → gotRun c.xf p.run p.off p.len = some bs → writes bs) ∧
        (∀ (src dst : List Piece) (w n : Nat) (rows : Nat → List Byte), c.work = .trn src dst w n → 0 < w → p.run < n → p.off + p.len ≤ w * n →
          (∀ k, k < n → gotRun c.xf k 0 (w * n) = some (rows k)) →
          (c.rw = none → ∃ bs, writes bs ∧ bs.length = p.len ∧ ∀ i, i < p.len → bs[i]? = (rows ((p.off + i) / w))[w * p.run + (p.off + i) % w]?) ∧
          ∀ r os tp, c.rw = some ⟨r, os, .cancelled false tp⟩ → ∃ t : State, steps t ∧ t.m = s.m) ∧
        ∀ (rows : List Piece) (x gr : OpImg) (kn : BitVec 128) (wide : Bool) (q i : Nat) (ws : List (Option Machine.Num)), c.work = .splg rows x gr kn wide → c.rw = none →
          (touched kn x)[p.run]? = some (q, i, ws) → p.off % 4 = 0 → p.len % 4 = 0 → p.off + p.len ≤ 256 →
          (∀ b, b < p.len → isEmptyLine s (p.key + b) = false) → badIn s p.key p.len = none →
          ∀ v : Nat → ℚ, (∀ n, n < 16 → CellIs false kn (slotElem x 0 i n) (fun m => if m = q then 1 else 0) (v n)) →
          ∃ bs, writes bs ∧ bs.length = p.len ∧ ∀ j, 4 * j + 4 ≤ p.len → (∀ n, n < 16 → IsFinite fp32 (slotElem gr 0 (p.off / 4 + j) n)) →
            ∃ d, RoundsTo fp32 0 ((List.range 16).map fun n => ratOf fp32 (slotElem gr 0 (p.off / 4 + j) n) * v n).sum d ∧
              AddIs 0 (leNat (readBytes s.m.cells (p.key + 4 * j) 4)) d (leNat ((bs.drop (4 * j)).take 4))) ∧
    (∀ (j g o : Nat) (c : Cmd) (p : Piece) (seg : List Sect) (l rl sd rd u : Nat) (send dst : List Piece) (op : Option Nat) (sn : Bool) (x : RxStream) (loc : List Byte),
      s.e.cmds = [c] → c.work = .dim l rl sd rd send (.runs dst) u op sn true → c.rw = none → c.xf.fed = 0 → c.xf.stop = none →
      s.e.rx = [x] → matched s c = some x → x.complete = true → s.m.reqs = [] → (engActs s)[j]? = some (c.id, .write g) →
      c.xf.segs[g]? = some (⟨o, [p], none, false, []⟩ :: seg) → p.key + p.len ≤ 2 ^ 20 → 0 < p.len →
      (∀ k, op = some k → k < 7 ∧ streamGot c.xf (send.flatMap cutSectors) = (loc, true) ∧ loc.length % 4 = 0) →
      u * p.run + p.off + p.len ≤ (if op = none then x.bytes.length else loc.length) →
      ∃ (t : State) (out : List Byte), exec (.homeAccess j) s = .next t ∧ CombinedIs op loc x.bytes out ∧ t.r = s.r ∧ t.x = s.x ∧
        KeepsMemoryBut s t p.key p.len ∧ (∀ i, i < p.len → readByte t.m.cells (p.key + i) = out.getD (u * p.run + p.off + i) 0) ∧
        (c.xf.segs = [[⟨o, [p], none, false, []⟩]] → t.e.rx = [] ∧
          t.e.cmds = [{ c with work := .dim l rl sd rd send (.runs dst) u op sn false, xf := { c.xf with segs := [] } }] ∧
          ∃ d f, f.dest = x.src ∧ f.body = .streamAck s.x.coreid x.mcast 0 ∧
            port t d = { port s d with outq := (port s d).outq ++ [(.core s.x.coreid, f)] } ∧ ∀ m, m ≠ d → port t m = port s m)) ∧
    ∀ (k : Nat) (c : Cmd), s.e.cmds[k]? = some c → c.active = true → s.e.sent = [] → c.xf.reads = [] → c.xf.segs = [] →
      let rest (t : State) : Prop := c.prod ∉ (token t c.kp).pend ∧
        (∀ n, n ≠ c.kp → token t n = token s n) ∧ t.e = { s.e with cmds := s.e.cmds.filter fun x => x.id != c.id } ∧ t.x = s.x
      let done (t : State) : Prop := rest t ∧ (token t c.kp).errs = (token s c.kp).errs
      let failed (t : State) (cause : Nat) (addr : W64) : Prop := rest t ∧
        (token t c.kp).errs.getLast? = some ⟨c.prod, cause, addr, false, cmdRw c, ((token t c.kp).pend.filter fun p => decide (c.prod < p)).min?⟩
      (∀ cause addr, c.err = some (cause, addr) → hasDest c.work = true → quiet c.work = c.work → ∃ t : State, exec (.tokenCompletion k) s = .next t ∧ failed t cause addr ∧
        t = { s with r := { s.r with tok := t.r.tok }, e := t.e }) ∧
      (c.err = none →
      (c.work = .null → needsDone s c.needs = true → tokenDone s c.kp c.prod = true → firstErr s c.needs = none →
        ∃ t : State, exec (.tokenCompletion k) s = .next t ∧ done t ∧ t = { s with r := { s.r with tok := t.r.tok }, e := t.e }) ∧
      (∀ n a bs, c.work = .cbld n a → c.xf.stop = none → gotRun c.xf 0 0 256 = some bs →
        ∃ t : State, exec (.tokenCompletion k) s = .next t ∧ done t ∧
        (codebook t n).toNat = leNat bs ∧ (∀ m, m ≠ n → codebook t m = codebook s m) ∧
        t = { s with r := { s.r with tok := t.r.tok, cb := t.r.cb }, e := t.e, f := { s.f with sb := t.f.sb } }) ∧
      (∀ n a bs, c.work = .knld n a → c.xf.stop = none → gotRun c.xf 0 0 16 = some bs →
        ∃ t : State, exec (.tokenCompletion k) s = .next t ∧ done t ∧
        (knots t n).toNat = leNat bs ∧ (∀ m, m ≠ n → knots t m = knots s m) ∧
        t = { s with r := { s.r with tok := t.r.tok, kn := t.r.kn }, e := t.e, f := { s.f with sb := t.f.sb } }) ∧
      (∀ (o r0 : Nat) (a : List Piece) (rows : List (List Byte)), c.work = .fillO o r0 a → c.xf.stop = none → r0 + a.length ≤ 64 → rows.length = a.length → (∀ g ∈ c.xf.got, g.1.run < a.length) →
        (∀ i bs, rows[i]? = some bs → gotRun c.xf i 0 128 = some bs) → readersDone s c.bsn .o o = true →
        ∃ t : State, exec (.tokenCompletion k) s = .next t ∧ done t ∧
          (∀ r b, r < 64 → b < 128 → laneAt (oslot t o) 8 (128 * r + b) =
            if r0 ≤ r ∧ r < r0 + a.length then (rows.getD (r - r0) []).getD b 0 else laneAt (oslot s o) 8 (128 * r + b)) ∧
          (∀ m, m ≠ o → oslot t m = oslot s m) ∧ t = { s with r := { s.r with tok := t.r.tok, o := t.r.o }, e := t.e, f := { s.f with sb := t.f.sb } }) ∧
      (∀ d a e kn, c.work = .gref d a e kn → let g := knotG kn
        knotsOk kn 16 = true → posNormal (knotH kn - 0x00800000) = true → 2 * g ≤ 13 → (∀ n ∈ grefSrc a g, pendingOn s .o n c.bsn = false) →
        (∀ n ∈ grefDst d g, readersDone s c.bsn .o n = true) → readersDone s c.bsn .kn e = true →
        ∃ t : State, exec (.tokenCompletion k) s = .next t ∧ done t ∧
          (∀ r i j, r < 2 * g + 3 → i < 64 → j < 64 → RefinedIs (fun q => slotElem (oslot s (a + q)) 1 i j) r (slotElem (oslot t (d + r)) 1 i j)) ∧
          (∀ m, m < d ∨ d + 2 * g + 3 ≤ m → oslot t m = oslot s m) ∧ (∀ m, m ≠ e → knots t m = knots s m) ∧
          knot0 (knots t e) = knot0 kn ∧ ratOf fp32 (knotH (knots t e)) = ratOf fp32 (knotH kn) / 2 ∧ knotG (knots t e) = 2 * g ∧ knotClamp (knots t e) = knotClamp kn ∧
          knotsOk (knots t e) 16 = true ∧
          t = { s with r := { s.r with tok := t.r.tok, o := t.r.o, kn := t.r.kn }, e := t.e, f := { s.f with sb := t.f.sb } }) ∧
      (hasDest c.work = true → quiet c.work = c.work →
        (c.xf.stop = none → ∃ t : State, exec (.tokenCompletion k) s = .next t ∧ done t ∧ t = { s with r := { s.r with tok := t.r.tok }, e := t.e }) ∧
        ∀ o cause addr, c.xf.stop = some (o, cause, addr) → ∃ t : State, exec (.tokenCompletion k) s = .next t ∧ failed t cause addr ∧
          t = { s with r := { s.r with tok := t.r.tok }, e := t.e }))

/-! ### Collective branches: messages and time -/

/-- 23 R376, R377, 25 R388 to R393, R396: an agreed result ends the wait of the member that contributed; running ahead on another value, it rolls back. The
last part of a reduction gives the result. A broken group, and one whose count expires, takes 0x33 where a contribution is outstanding, behind a pending 0x38 or 0x06 (08 R151); what was combined for it is dropped; suspensions stop the count. -/
def Obligations.CollectiveMessagesAndTimeouts : Prop :=
  ∀ (s : State) (g : Nat), running s = true → g < 4 → s.kn.members.getLsbD g = true →
    let x := s.f.groups.get g
    (∀ (n : BitVec 32) (r : Bool),
      (x.seq ≠ n ∨ x.contributed = false ∨ (x.broken = true ∧ canResult x r = true) → exec (.cbrResultArrives g n r) s = .next s) ∧
      (x.broken = false → x.seq = n → x.contributed = true → canResult x r = true → cbtoExpired s g = true →
        exec (.cbrResultArrives g n r) s = .next (breakGroup (sendBreak s g) g)) ∧
      (x.broken = false → x.seq = n → x.contributed = true → canResult x r = true → cbtoExpired s g = false →
        ((∀ a, s.f.ahead = some a → a.g = g → a.pred = r) → ∃ t : State, exec (.cbrResultArrives g n r) s = .next t ∧ OnlyGroup s t g (resolvedGroup x r)) ∧
        ∀ a, s.f.ahead = some a → a.g = g → a.pred ≠ r → ∃ t : State, exec (.cbrResultArrives g n r) s = .next t ∧
          t.f.groups.get g = resolvedGroup x r ∧ t.f.pc = s.f.mark.pc ∧ t.f.ahead = none ∧ t.f.gate = [] ∧ t.f.qs = s.f.mark.held ∧ t.f.fe = .run ∧
          t.r = (rollbackCore s).r ∧ t.x = (rollbackCore s).x ∧ t.m.cells = s.m.cells)) ∧
    (∀ (any v : Bool) (l : Nat) (n : BitVec 32) (c : Nat), c < 64 → x.gcore.getLsbD c = true →
      (∀ p ∈ s.l.partials, p.id = groupId s g → p.n ≠ n) → ∃ t : State,
      exec (.cbrContributionArrives ⟨groupId s g, n, any, v, .dim l⟩) s = .next t ∧
        t.l.partials = ⟨groupId s g, n, any, [], [(l, v)], []⟩ :: s.l.partials ∧ t = { s with l := { s.l with partials := t.l.partials } }) ∧
    (∀ (any v w : Bool) (l : Nat), l < 15 → (∀ i, i < 15 → x.gdim.getLsbD i = decide (i = l)) → x.gcore = 1#64 <<< s.x.coreid.toNat →
      s.l.partials = [⟨groupId s g, x.seq, any, [(s.x.coreid, v)], [], [l]⟩] → x.broken = false → x.contributed = true → x.pred = v → x.any = any →
      cbtoExpired s g = false → s.f.ahead = none → ∃ t : State, exec (.cbrContributionArrives ⟨groupId s g, x.seq, any, w, .dim l⟩) s = .next t ∧ t.l.partials = [] ∧
        t.f.groups.get g = resolvedGroup x (if any then v || w else v && w) ∧ (∀ h, h < 4 → h ≠ g → t.f.groups.get h = s.f.groups.get h) ∧
        t = { s with f := { s.f with groups := t.f.groups }, l := { s.l with partials := [] } }) ∧
    (let info : TrapInfo := ⟨0x33, 0, 7, 0, 0, 0, 0, none⟩
     let broken (u : State) (y : Group) : Prop := OnlyGroup { s with l := { s.l with partials := u.l.partials } } u g y ∧
       ∀ p, p ∈ u.l.partials ↔ p ∈ s.l.partials ∧ ¬(p.id.owner = s.kn.owner ∧ p.id.ltag = s.kn.ltag ∧ p.id.g = g)
     (x.wait = false → ∃ t : State, exec (.cbrBreak g) s = .next t ∧ broken t { x with broken := true }) ∧
     (x.wait = true → s.f.handler = false → s.f.fe = .run → (∀ p ∈ s.f.asyncs, p.1 ≠ 0x38 ∧ p.1 ≠ 0x06) →
       (∃ u : State, exec (.cbrBreak g) s = .next (enterRollback u info) ∧ broken u { x with broken := true, wait := false, contributed := false }) ∧
       (x.stopped = 0 → s.x.cbto ≠ 0 → s.x.cbto.toNat ≤ (s.tick - x.since).toNat → (∀ h, h < g → (s.f.groups.get h).wait = false) →
         ∃ u v : State, exec .collectiveTimeout s = .next (enterRollback u info) ∧ v = { s with l := u.l } ∧
           OnlyGroup v u g { x with broken := true, wait := false, contributed := false })) ∧
     (x.wait = true → s.f.handler = true ∨ (∃ p ∈ s.f.asyncs, p.1 = 0x38 ∨ p.1 = 0x06) ∨ endsNow s = true → ∃ (t u : State), exec (.cbrBreak g) s = .next t ∧
       broken u { x with broken := true, wait := false, contributed := false } ∧ (endsNow s = false → ∃ p ∈ t.f.asyncs, p.1 = 0x33) ∧
       (endsNow s = true → t = u) ∧ t = { u with f := { u.f with asyncs := t.f.asyncs } })) ∧
    (∃ t : State, exec (.cbrSuspendNotice g) s = .next t ∧
      OnlyGroup s t g { x with stopped := x.stopped + 1, since := if x.stopped = 0 then s.tick - x.since else x.since }) ∧
    (0 < x.stopped → ∃ t : State, exec (.cbrResumeNotice g) s = .next t ∧
      OnlyGroup s t g { x with stopped := x.stopped - 1, since := if x.stopped = 1 then s.tick - x.since else x.since })

/-! ### Homes -/

/-- 14 R264 to R269, 13 R248, 27 R427: a request that reaches the home of its page reads or writes there, sector by sector, or is refused with the cause of its
page entry; the directory tells and records homes; pages move between dies and to the host tier and back, those of another die than the
anchor in flits by it (00 R5, log 24), into a frame that the spec leaves open (log 27); a lost region. That a request of MGWR stands until one offload has started for it (log 26), and that a page which an access has met is offloaded only behind that access
(log 29), are the model's choices; a store of several pieces to scratchpads performs piece by piece. -/
def Obligations.HomesServeRequestsAndMovePages : Prop :=
  (∀ (s : State) (r : Req) (rs : List Req) (p : Page) (a n : Nat), ReqAt s r rs p a n →
    let m := if r.whole then n else min n 32
    let rest : List Req := if m = n then rs else { r with stage := .checked, runs := [(m, a + m, n - m)] } :: rs
    (r.op = .load → p.owner = r.owner → p.st = .resident → badIn s (iaBase + a) n = none → s.f.gate = [] →
      ∀ c cs, s.m.accs = c :: cs → c.bsn = r.bsn → c.k = r.k → c.left = 1 → c.val = 0 → c.file = .v → ∃ (t : State) (y : Nat),
        exec (.homeAccess 0) s = .next t ∧ y < 2 ^ (8 * m) ∧ (∀ b, b < m → y / 2 ^ (8 * b) % 2 ^ 8 = (readByte s.m.cells (iaBase + a + b)).toNat) ∧
        (m = n → t.f.deliver = s.f.deliver ++ [⟨.v, c.n, c.bsn, BitVec.ofNat 16384 y, c.wm, c.write, 0, .mem⟩] ∧ t.m.accs = cs) ∧
        (m < n → t.f.deliver = s.f.deliver ∧ t.m.accs = { c with val := BitVec.ofNat 16384 y } :: cs) ∧
        t.m.reqs = rest ∧ t.m.cells = s.m.cells ∧ t.r = s.r ∧ t.x = s.x ∧ t.e = s.e) ∧
    (∀ data, r.op = .store data → data.length = n → WriteFree s r a n → p.owner = r.owner → p.st = .resident → p.ro = false → ∃ t : State,
      exec (.homeAccess 0) s = .next t ∧ (∀ b, b < m → readByte t.m.cells (iaBase + a + b) = data.getD b 0) ∧ KeepsMemoryBut s t (iaBase + a) m ∧
        t.m.reqs = rest ∧ t.r = s.r ∧ t.x = s.x ∧ t.f = s.f ∧ t.e = s.e) ∧
    (∀ data, r.op = .load ∨ (r.op = .store data ∧ WriteFree s r a n) →
      (p.owner ≠ r.owner → (∀ x y, p.st ≠ .moving x y) → exec (.homeAccess 0) s = .next (refuseReq s r 0x13 r.va)) ∧
      (p.owner = r.owner → r.op = .store data → p.ro = true → (∀ x y, p.st ≠ .moving x y) → exec (.homeAccess 0) s = .next (refuseReq s r 0x14 r.va)) ∧
      (∀ i o, p.owner = r.owner → p.ro = false → p.st = .offloaded i o → exec (.homeAccess 0) s = .next (refuseReq s r 0x12 r.va)))) ∧
  ∀ s : State,
    (∀ r rs data i k n qs, s.m.reqs = r :: rs → (∀ q ∈ rs, q.id ≠ r.id) → r.src = .core → r.stage ≠ .held → r.page = noPage → r.op = .pads data → r.whole = false →
      departed s r.id = true → (∀ x ∈ s.f.rbFaults, r.bsn < x.fbsn) → r.runs = (i, k, n) :: qs → i % 32 + n ≤ 32 → i + n ≤ data.length →
      ∃ t : State, exec (.homeAccess 0) s = .next t ∧ (∀ b, b < n → readByte t.m.cells (k + b) = data.getD (i + b) 0) ∧ KeepsMemoryBut s t k n ∧
        t.m.reqs = (if qs = [] then rs else { r with runs := qs } :: rs) ∧
        t = { s with m := { s.m with reqs := t.m.reqs, cells := t.m.cells, empties := t.m.empties, bad := t.m.bad } }) ∧
    (∀ r rs, s.m.reqs = r :: rs → r.stage = .held → (∀ q ∈ rs, q.stage ≠ .held) → outstanding s r.page = false → ∃ t : State, exec (.homeLookup 0 (trueHome s r.page)) s = .next t ∧
      t.m.reqs = s.m.reqs.map (fun q => if q.id = r.id then { q with stage := .sent } else q) ∧ homeOfPage t r.page = trueHome s r.page ∧
      t = { s with m := { s.m with reqs := t.m.reqs, homeCache := t.m.homeCache }, l := { s.l with ports := t.l.ports } } ∧
      (trueHome s r.page = s.l.coord → t.l = s.l)) ∧
    (∀ (ia : Nat) (h : Coord) (x : Tenant) (xs : List Tenant), s.c.tenants = x :: xs → isDirDie x ia s.l.coord = true →
      (∃ t : State, exec (.directoryQuery (.update ia h)) s = .next t ∧ t = { s with m := { s.m with dir := t.m.dir } } ∧
        ∀ b, lookupDie t.m.dir b = if b = ia then some h else lookupDie s.m.dir b) ∧
      exec (.directoryQuery (.ask ia s.l.coord)) s = .next s ∧
      (h ≠ s.l.coord → exec (.directoryQuery (.ask ia h)) s = .next (sendData s x.mask .memory h (.home ia ((lookupDie s.m.dir (pageBase s ia)).getD (trueHome s ia)))))) ∧
    ∀ p : Page, (s.m.pages.find? fun q => q.ia = p.ia) = some p →
      (∀ d since, p.st = .moving d since → d ≠ p.home → ∃ t : State, exec (.pageMoveComplete p.ia) s = .next t ∧
        PageBecomes s t p { p with st := .resident, home := d, frame := Config.freeFrame s.fresh
                                   moves := (p.moves ++ [since]).drop (p.moves.length - 1) } ∧
        ((∀ x, tenantOf s p.owner = some x → dirDie x p.ia = s.l.coord) → lookupDie t.m.dir p.ia = some d ∧ t.l = s.l) ∧
        (∀ x, tenantOf s p.owner = some x → dirDie x p.ia ≠ s.l.coord → t.m.dir = s.m.dir ∧ ∃ k f, f.dest = dirDie x p.ia ∧ f.body = .directory p.ia d ∧
          port t k = { port s k with outq := (port s k).outq ++ [(.memory, f)] } ∧ ∀ j, j ≠ k → port t j = port s j) ∧
        (∀ e, freeOf t e = if e = p.home then freeOf s e + frames p else freeOf s e) ∧
        (∀ b, b ∈ t.m.blocks ↔ b ∈ s.m.blocks ∧
          (p.home = s.l.coord → b.1.toNat + 256 * b.2 ≤ iaBase + p.ia ∨ iaBase + p.ia + pageSize p ≤ b.1.toNat)) ∧
        t = { s with m := { s.m with pages := t.m.pages, dir := t.m.dir, freeFrames := t.m.freeFrames, migc := t.m.migc, blocks := t.m.blocks }
                     l := { s.l with ports := t.l.ports }, fresh := s.fresh + 1 } ∧
        (p.home = s.l.coord → s.m.migc.toNat % 2 ^ 32 < 2 ^ 32 - 1 → t.m.migc = s.m.migc + 1) ∧ (p.home ≠ s.l.coord → t.m.migc = s.m.migc)) ∧
      (s.m.pages = [p] → p.home = s.l.coord → s.m.interval < s.tick.toNat / 512000 →
        (∀ d k, s.m.counts = [⟨p.ia, d, s.m.interval, k⟩] → d ≠ p.home → 4096 ≤ k → p.st = .resident → pinned s p = false → frames p ≤ freeOf s d → p.tack = none →
          p.moves = [] → ∃ t : State, exec .migrationInterval s = .next t ∧ t.m.pages = [{ p with st := .moving d s.tick }] ∧
            (∀ e, freeOf t e = if e = d then freeOf s e - frames p else freeOf s e) ∧
            t = { s with m := { s.m with pages := t.m.pages, freeFrames := t.m.freeFrames, counts := [], interval := s.m.interval + 1 } }) ∧
        ((∀ c ∈ s.m.counts, c.page = p.ia → c.at' = s.m.interval → c.n < 4096) → exec .migrationInterval s =
          .next { s with m := { s.m with counts := s.m.counts.filter fun c => c.at' != s.m.interval, interval := s.m.interval + 1 } })) ∧
      (∀ i o w, s.m.pages = [p] → mapFind s.h.regions i = some w → (16 * freeOf s s.l.coord < 32768 * s.h.channels ∨ s.m.offloadAsked = true) →
        p.home = s.l.coord → p.st = .resident → pinned s p = false → awaited s p = false → (∃ z ∈ s.h.regions, z.2.owner = p.owner) → w.owner = p.owner →
        i ∉ s.h.lost → o % 0x10000 = 0 → o + pageSize p ≤ w.len → ∃ t : State, exec (.offloadStart p.ia i o) s = .next t ∧
          PageBecomes s t p { p with st := .offloading i o } ∧ (dieNo s = 0 → t.l = s.l) ∧
          (dieNo s ≠ 0 → ∀ k, k < pageSize p / 128 → ∃ d, ∃ x ∈ (port t d).outq, x.2.body = .tier p.ia k true ∧ x.2.dest = dieOf s 0 ∧ x.2.dims = 7) ∧
          (t.m.offloadAsked = true ↔ s.m.offloadAsked = true ∧ 16 * freeOf s s.l.coord < 32768 * s.h.channels) ∧
          t = { s with m := { s.m with pages := t.m.pages, offloadAsked := t.m.offloadAsked }, l := { s.l with ports := t.l.ports } }) ∧
      (∀ i o, p.st = .offloading i o → tierLeft s p.ia = true → exec (.offloadComplete p.ia) s = notEnabled "OFFLOAD_COMPLETE") ∧
      (∀ i o, p.st = .offloading i o → awaited s p = false → tierLeft s p.ia = false → ∃ t : State, exec (.offloadComplete p.ia) s = .next t ∧ PageBecomes s t p { p with st := .offloaded i o } ∧
        freeOf t p.home = freeOf s p.home + frames p ∧ t = { s with m := { s.m with pages := t.m.pages, freeFrames := t.m.freeFrames } }) ∧
      (∀ i o, p.st = .returning i o →
        (frames p ≤ freeOf s p.home → (p.home = s.l.coord → dieNo s ≠ 0 → pageSize p / 128 ≤ mapGet 0 s.m.tier p.ia) →
          ∃ t : State, exec (.returnComplete p.ia true) s = .next t ∧ PageBecomes s t p { p with st := .resident, frame := Config.freeFrame s.fresh } ∧
          freeOf t p.home = freeOf s p.home - frames p ∧
          (∀ a, mapGet 0 t.m.tier a = if a = p.ia then 0 else mapGet 0 s.m.tier a) ∧
          t = { s with m := { s.m with pages := t.m.pages, freeFrames := t.m.freeFrames, tier := t.m.tier }, fresh := s.fresh + 1 }) ∧
        (∃ t : State, exec (.returnComplete p.ia false) s = .next t ∧ PageBecomes s t p { p with st := .offloaded i o } ∧ i ∈ t.h.lost ∧
          t = { s with m := { s.m with pages := t.m.pages }, h := { s.h with lost := t.h.lost } }) ∧
        (s.m.pages = [p] → mapHas s.h.regions i = true → i ∉ s.h.lost → exec (.regionLost i) s =
          .next { s with m := { s.m with pages := [{ p with st := .offloaded i o }] }, h := { s.h with lost := s.h.lost ++ [i] } }))

/-! ### Links -/

/-- 12 R228 to R234, 11 R213, R214, R220, 26 R419: what a link direction sends is sealed under its epoch and counter and kept until it is acknowledged; acknowledgements free
it, a NAK, a timeout and a failed check count toward the third that takes the link down; the key switch; authentication and bring-up, with their bounds; a failed lane;
shared lanes granted and released under a fence; parked and woken lanes; a flit out of its order is discarded, and of one pair no more
than 2^21 data flits stand unacknowledged (R222). The parts of the transcript (log 14), the
fast bring-up of a link without cached settings (log 28), what a link of dimensions 0 to 2 does after three failures, and whose depth and colour a grant goes by
(log 29) are the model's choice. -/
def Obligations.LinksSendAcknowledgeAndTrain : Prop :=
  ∀ (s : State) (d : Nat), let p := port s d
    let acked (e c : Nat) : List Flit := p.replay.filter fun f => !(f.epoch < e || (f.epoch = e && f.counter < c))
    let since (q : Port) (f : Flit) : Port := { q with replay := p.replay ++ [f], txCtr := p.txCtr + 1,
                                                       ackSince := if p.replay = [] then s.tick else p.ackSince }
    let room : Prop := p.replay.length < 1024 ∧ (d < 3 ∨ p.txCtr < 2 ^ 40)
    (∀ c st, d < 15 → EnginesRest s → ∃ t : State, exec (.linkStateNotice c d st) s = .next t ∧
      mapLink t c d = (if linkEnd c d ≠ linkEnd s.l.coord d then (if st = .up ∧ Config.linkInstalled (linkEnd c d) d = false then .dead else st) else if ownLink s d = .dead then .dead else if st = .up then ownLink s d else st) ∧
      (∀ a e, (linkEnd a e, e) ≠ (linkEnd c d, d) → mapLink t a e = mapLink s a e) ∧ t = { s with l := t.l }) ∧
    (LinkUp s d →
      (0 < p.rxSince → room → 2000 ≤ (s.tick - p.rxAckSince).toNat → ∃ (t : State) (f : Flit), exec (.acknowledgementInterval d) s = .next t ∧
        SealedFlit s d f 2 (.linkAck p.rxEpoch p.rxCtr false) ∧ OnlyPort s t d (since { p with nakDue := false, rxSince := 0, rxAckSince := s.tick, rxOldSlot := none } f)) ∧
      (∀ e c, e < p.txEpoch ∨ (e = p.txEpoch ∧ c ≤ p.txCtr) → p.nakDue = true → (acked e c).length < 1024 → d < 3 ∨ p.txCtr < 2 ^ 40 →
        ∃ (t : State) (f : Flit), exec (.ackReceived d e c) s = .next t ∧ SealedFlit s d f 2 (.linkAck p.rxEpoch p.rxCtr true) ∧
          (port t d).nakDue = false ∧ (port t d).replay = acked e c ++ [f]) ∧
      (∀ e c, e < p.txEpoch ∨ (e = p.txEpoch ∧ c ≤ p.txCtr) → p.nakDue = false → ∃ t : State, exec (.ackReceived d e c) s = .next t ∧
        OnlyPort s t d { p with replay := acked e c, oldSlot := (port t d).oldSlot, fails := (port t d).fails, ackSince := (port t d).ackSince }) ∧
      (∀ e c, p.fails = 0 → p.nakDue = false → (∃ f ∈ p.replay, f.epoch = e ∧ f.counter = c) → ∃ t : State, exec (.nakReplay d e c) s = .next t ∧
        OnlyPort s t d { p with replay := acked e c, oldSlot := (port t d).oldSlot, fails := 1, ackSince := s.tick }) ∧
      (p.replay ≠ [] → 40000 ≤ (s.tick - p.ackSince).toNat →
        (p.fails < 2 → ∃ t : State, exec (.ackTimeout d) s = .next t ∧ OnlyPort s t d { p with fails := p.fails + 1, ackSince := s.tick }) ∧
        (2 ≤ p.fails → EnginesRest s → ∃ t : State, exec (.ackTimeout d) s = .next t ∧ (port t d).dead = true ∧
          (port t d).stage = (if d < 3 then .down else .training) ∧ t = { s with l := t.l })) ∧
      (3 ≤ d → 2 ^ 39 ≤ p.txCtr → room → p.oldSlot = none → p.txEpoch + 1 ≠ 2 ^ 32 - 1 → ∃ (t : State) (f : Flit), exec (.keySwitch d) s = .next t ∧
        SealedFlit s d f 3 (.marker (p.txEpoch + 1)) ∧
        OnlyPort s t d { since p f with txEpoch := p.txEpoch + 1, txCtr := 0, oldSlot := some p.txEpoch }) ∧
      (1 < p.lanes → ∃ t : State, exec (.laneFailure d) s = .next t ∧
        port t d = { p with lanes := p.lanes - 1, ded := if p.lwid then min p.ded (p.lanes - 1) else p.ded, striped := (port t d).striped
                            ackSince := if p.replay = [] then p.ackSince else s.tick
                            cord := (port t d).cord, cordBack := (port t d).cordBack, cordSince := (port t d).cordSince } ∧
        (d < 3 → p.striped = p.lanes → (port t d).striped = p.lanes - 1) ∧
        (∀ m, m ≠ d → port t m = { port s m with cord := (port t m).cord, cordBack := (port t m).cordBack, cordSince := (port t m).cordSince }) ∧ t = { s with l := t.l }) ∧
      (let wake := p.lpctl.toNat / 2 ^ 48
       let park := min (p.lpctl.toNat / 2 ^ 32 % 2 ^ 16) (wake - 1)
       3 ≤ d →
        (wake ≠ 0 → p.outq.length ≤ park → 16 * (p.lpctl.toNat / 2 ^ 16 % 2 ^ 16) ≤ (s.tick - p.lowSince).toNat → max 1 (p.lpctl.toNat % 2 ^ 5) < p.striped →
          ∃ t : State, exec (.lanePark d) s = .next t ∧ OnlyPort s t d { p with striped := p.striped - 1, lowSince := s.tick }) ∧
        (wake ≤ p.outq.length → p.striped < stripeOf s d → ∃ t : State, exec (.laneWake d) s = .next t ∧
          OnlyPort s t d { p with striped := stripeOf s d })) ∧
      (p.installed = true → p.replay.length < 1024 → p.txCtr < 2 ^ 39 →
        (∀ (r : Requester) (x : Flit), p.outq = [(r, x)] → 2 ^ 21 ≤ pairUnacked s x → exec (.portSendsFlit d) s = notEnabled "PORT_SENDS_FLIT") ∧
        (∀ (r : Requester) (x : Flit), p.outq = [(r, x)] → pairUnacked s x < 2 ^ 21 → p.portFence = none → p.circFence = none → p.cord = [] → p.halfSent = false → x.numbered = false → x.orig = s.l.coord →
          ∃ (t : State) (f : Flit), exec (.portSendsFlit d) s = .next t ∧ SealedFlit s d f x.ftype x.body ∧ f.dest = x.dest ∧
            f.pseq = BitVec.ofNat 22 (lookupSeq s.l.txSeq x.dest) ∧ lookupSeq t.l.txSeq x.dest = (lookupSeq s.l.txSeq x.dest + 1) % 2 ^ 22 ∧
            port t d = { since p f with outq := [], last := r, cordGap := p.cordGap + 1, lowSince := (port t d).lowSince } ∧
            (∀ m, m ≠ d → port t m = port s m) ∧ (x.via.length ≠ 3 → t.l.detoured = s.l.detoured) ∧
            (x.via.length = 3 → ∃ g, t.l.detoured = s.l.detoured ++ [g] ∧ g.pseq = f.pseq ∧ g.dest = x.dest ∧ g.body = x.body ∧ g.via = x.via) ∧
            t = { s with l := { s.l with ports := t.l.ports, txSeq := t.l.txSeq, detoured := t.l.detoured } }) ∧
        (p.cord ≠ [] → p.outq = [] ∧ 8 ≤ (s.tick - p.cordSince).toNat ∨ 7 ≤ p.cordGap ∧ p.outq ≠ [] ∧ p.portFence = none ∧ p.circFence = none → ∃ (t : State) (f : Flit), exec (.controlFlitSend d) s = .next t ∧
          SealedFlit s d f 1 (.messages (p.cord.take 14)) ∧
          port t d = { since p f with cord := p.cord.drop 14, halfSent := false, cordGap := 0, cordSince := s.tick } ∧ (∀ m, m ≠ d → port t m = port s m) ∧
          (∀ m, m ∈ t.l.cordDetoured ↔ m ∈ s.l.cordDetoured ∨ m ∈ p.cord.take 14 ∧ m.via.length = 3 ∧ isAckMsg m.msg = false) ∧
          t = { s with l := { s.l with ports := t.l.ports, cordDetoured := t.l.cordDetoured } })) ∧
      (p.installed = true → ∀ f : Flit, f.ftype ≠ 4 →
        (f.epoch ≠ p.rxEpoch ∨ f.counter ≠ p.rxCtr → exec (.flitReceived d f) s = .next s) ∧
        (f.epoch = p.rxEpoch → f.counter = p.rxCtr → flitGood s d f = false → p.rxFails < 2 → room → ∃ (t : State) (g : Flit),
          exec (.flitReceived d f) s = .next t ∧ SealedFlit s d g 2 (.linkAck p.rxEpoch p.rxCtr true) ∧
          OnlyPort s t d (since { p with nakDue := false, rxSince := 0, rxAckSince := s.tick, rxOldSlot := none, rxFails := p.rxFails + 1 } g)) ∧
        (f.epoch = p.rxEpoch → f.counter = p.rxCtr → flitGood s d f = false → p.rxFails < 2 → ¬room → ∃ t : State,
          exec (.flitReceived d f) s = .next t ∧ OnlyPort s t d { p with nakDue := true, rxFails := p.rxFails + 1 }) ∧
        (f.epoch = p.rxEpoch → f.counter = p.rxCtr → flitGood s d f = true → p.rxSince < 15 →
          (∀ n, f.ftype = 3 → f.body = .marker n → ∃ t : State, exec (.flitReceived d f) s = .next t ∧
            OnlyPort s t d { p with rxEpoch := n, rxCtr := 0, rxOldSlot := some p.rxEpoch, rxSince := p.rxSince + 1, rxFails := 0, nakDue := false }) ∧
          ∀ (r : RemoteReq) (ia n : Nat) (rs : List (Nat × Nat)), f.ftype = 0 → f.ch = 0 → f.dest = s.l.coord → f.dims ≠ 7 → f.body = .request r →
            r.atom = none → r.runs = (ia, n) :: rs →
            f.pseq.toNat = lookupSeq s.l.rxSeq f.orig → ∃ (t : State) (l : List (Nat × Nat × Nat)), exec (.flitReceived d f) s = .next t ∧
              t.m.reqs = s.m.reqs ++ [⟨s.m.nextReq, .remote f.orig r.core r.id, 0, 0, 0, if r.write then .store r.bytes else .load, pageBase s ia,
                l, 0, r.owner, .sent, true, r.count, false, true⟩] ∧ l.map Prod.snd = r.runs ∧
              (∀ (k : Nat) (x : Nat × Nat × Nat), l[k]? = some x → x.1 = ((r.runs.take k).map Prod.snd).sum) ∧ lookupSeq t.l.rxSeq f.orig = (f.pseq.toNat + 1) % 2 ^ 22 ∧
              port t d = { p with rxCtr := p.rxCtr + 1, rxSince := p.rxSince + 1, rxFails := 0, nakDue := false, cord := (port t d).cord, cordSince := (port t d).cordSince } ∧
              ((∀ n, f.via = [n] → n < 15) → ∀ m, (port t m).cord = (port s m).cord ∧ (port t m).cordSince = (port s m).cordSince) ∧
              (∀ n, f.via = [n] → 15 ≤ n → ∃ m, ∃ x ∈ (port t m).cord, x.dest = partner s.l.coord (n - 15) ∧ x.msg = .detourAck f.orig f.dest f.pseq) ∧
              t.m.cells = s.m.cells ∧ t.r = s.r))) ∧
    (3 ≤ d → d < 15 →
      (∀ m : AuthMsg, p.stage = .aligned → EnginesRest s →
        let bytes := transcript s d (Config.ephemeral s.fresh) m
        let good : Prop := Config.chainOk m.chain = true ∧ Config.chainCoord m.chain = partner s.l.coord d ∧ Config.ecdsaOk (Config.chainKey m.chain) bytes m.signature = true
        ∃ t : State, exec (.authentication d m) s = .next t ∧ t = { s with l := t.l, fresh := s.fresh + 1 } ∧
          (∃ f, (port t d).auth = some f ∧ f.ftype = 4 ∧ f.body =
            .auth ⟨Config.ephemeral s.fresh, Config.ecdsaSign s.h.image.identity bytes, Config.ownChain s.h.image.identity⟩) ∧
          (good → (port t d).stage = .up ∧ (port t d).dead = false ∧ (port t d).txEpoch = 0 ∧ (port t d).txCtr = 0 ∧ (port t d).rxEpoch = 0 ∧
            (port t d).rxCtr = 0 ∧ (port t d).prk = some (Config.hkdfExtract (Config.sha384 bytes) (Config.shared s.fresh m.key))) ∧
          (¬good → (port t d).stage = .aligned)) ∧
      (p.stage = .down → p.installed = true → ∀ n, ∃ t : State, exec (.linkBringup d n p.eqCached) s = .next t ∧
        OnlyPort s t d { p with stage := if p.eqCached then .fast else .training, since := s.tick, fastFailed := if p.eqCached then none else some s.tick }) ∧
      (∀ n, 1 ≤ n → n ≤ (if d < 6 then 16 else 8) →
        (p.stage = .fast → p.installed = true → (s.tick - p.since).toNat ≤ 200000 → ∃ t : State, exec (.linkBringup d n true) s = .next t ∧
          OnlyPort s t d { p with stage := .aligned, since := s.tick, lanes := n }) ∧
        (p.stage = .training → (s.tick - p.since).toNat ≤ (if d < 6 then 50000000 else 16000000) → ∃ t : State, exec (.fullTrainingComplete d true n) s = .next t ∧
          OnlyPort s t d { p with stage := .aligned, since := s.tick, lanes := n, eqCached := true })) ∧
      (∀ n, p.stage = .training → EnginesRest s → ∃ t : State, exec (.fullTrainingComplete d false n) s = .next t ∧ (port t d).stage = .down ∧ (port t d).dead = true ∧
        t = { s with l := t.l }) ∧
      (p.stage = .fast → 200000 < (s.tick - p.since).toNat → ∃ t : State, exec (.fastBringupTimeout d) s = .next t ∧
        OnlyPort s t d { p with stage := .training, since := s.tick, fastFailed := some s.tick }) ∧
      (p.stage = .training ∨ p.stage = .aligned → p.dead = false → EnginesRest s →
        (∃ t0, p.fastFailed = some t0 ∧ 4000000 ≤ (s.tick - t0).toNat) ∨ (p.stage = .aligned ∧ 4000000 ≤ (s.tick - p.since).toNat) → ∃ t : State,
        exec (.bringupTimeout d) s = .next t ∧ (port t d).dead = true ∧ (port t d).stage = p.stage ∧ t = { s with l := t.l })) ∧
    ∀ g : Grant, g.grp < 3 →
      (24 ≤ g.fibre → g.fibre < 32 → s.l.grants = [] → s.l.retuning = [] → g.purpose = .widen d → 6 + 3 * g.grp ≤ d → d < 9 + 3 * g.grp →
        g.colour = (partner s.l.coord d).extractLsb' (6 + 3 * g.grp) 3 → p.lpctl.toNat / 2 ^ 48 ≠ 0 → p.lpctl.toNat / 2 ^ 48 ≤ p.outq.length → s.e.cmds = [] →
        (∀ x ∈ s.l.ports, (∀ y ∈ x.2.outq, y.2.via = []) ∧ ∀ m ∈ x.2.cord ++ x.2.cordBack, m.via = []) →
        p.circFence = none → ∃ t : State, exec (.sharedLaneGrant g) s = .next t ∧ t.l.grants = [g] ∧ t.l.retuning = [⟨g.grp, g.fibre, [d]⟩] ∧
          port t d = { p with circFence := some p.outq.length } ∧ (∀ m, m ≠ d → port t m = port s m) ∧
          t = { s with l := { s.l with grants := t.l.grants, retuning := t.l.retuning, ports := t.l.ports } }) ∧
      (s.l.grants = [g] → s.l.retuning = [] → g.purpose = .widen d → p.outq = [] → p.circFence = none → (p.lanes = 0 → ∃ t : State,
          exec (.sharedLaneRelease g.grp g.fibre) s = .next t ∧ t.l.grants = [] ∧ (port t d).dead = true ∧ (port t d).stage = .down) ∧
        (p.lanes ≠ 0 → ∃ t : State,
        exec (.sharedLaneRelease g.grp g.fibre) s = .next t ∧ t.l.grants = [] ∧ t.l.retuning = [⟨g.grp, g.fibre, [d]⟩] ∧ (port t d).circFence = some 0 ∧
          t = { s with l := { s.l with grants := t.l.grants, retuning := t.l.retuning, ports := t.l.ports } })) ∧
      (∀ ps : List Nat, s.l.retuning = [⟨g.grp, g.fibre, ps⟩] →
        (∀ m ∈ ps, (port s m).circFence = none ∨ (port s m).dead = true ∨ ((port s m).circFence = some 0 ∧ (port s m).replay = [])) →
        ∃ t : State, exec (.receiverRelock g.grp g.fibre) s = .next t ∧ t.l.retuning = [] ∧ (∀ m, m ∉ ps → port t m = port s m) ∧
          (∀ m ∈ ps, port t m = { port s m with circFence := none, striped := (port t m).striped }) ∧
          t = { s with l := { s.l with retuning := [], ports := t.l.ports } })

/-! ### The command processor -/

/-- 26 R401 to R404, R408 to R410, R412, 01 R35, 09 R194: the selection takes the head of a queue; a record that fails acceptance completes with its code; a
LAUNCH that is placed on this core starts it in its launch state; a BARRIER record waits; a record completes, with its message to the host; ageing; event
counters. -/
def Obligations.RecordsAreTakenLaunchedAndCompleted : Prop :=
  (∀ (s : State) (q : Nat) (r : Rec) (rs : List Rec) (p : Placement), p.far = none → OnlyHead s q r rs → imageHeld s r = false →
    (∀ c, acceptCode s r = some c → ∃ t : State, exec (.recordSelection p) s = .next t ∧ HeadTaken s t q rs ∧
      t.c.finished = s.c.finished ++ [⟨s.c.nextRun, q, r, none, BitVec.ofNat 256 c⟩] ∧ t.r = s.r ∧ t.x = s.x ∧ t.f = s.f ∧
      t.m = { s.m with counts := t.m.counts, pages := t.m.pages, migc := t.m.migc } ∧ (recType r ≠ 0 → t.m = s.m)) ∧
    (acceptCode s r = none → recType r = 1 → ∃ t : State, exec (.recordSelection p) s = .next t ∧ HeadTaken s t q rs ∧
      t.c.waiting = s.c.waiting ++ [⟨s.c.nextRun, q, r, none, 0⟩] ∧ t.r = s.r ∧ t.x = s.x ∧ t.f = s.f ∧ t.m = s.m) ∧
    ∀ id x, acceptCode s r = none → recType r = 0 → tenantOf s r.owner = some x → placementOk s r.owner (headerOf s r) p = true →
      placedAs s (headerOf s r) p = some id → s.l.early = [] →
      let h := headerOf s r
      let arg (i : Nat) : W64 := BitVec.ofNat 64 (recField r.bits (0x28 + 8 * i) 63 0)
      let entry : W64 := BitVec.ofNat 64 (kaddr r + hEntry h)
      ∃ t : State, exec (.recordSelection p) s = .next t ∧ HeadTaken s t q rs ∧
        (∃ y : Run, t.c.runs = s.c.runs ++ [y] ∧ y.here = true ∧ y.rcd = r ∧ y.killed = false ∧ y.suspended = false ∧ y.clusters = p.clusters) ∧
        t.f.fe = .run ∧ t.f.pc = entry ∧ t.f.handler = false ∧ t.f.bsn = 0 ∧ t.f.gate = [] ∧ t.f.asyncs = [] ∧ t.f.latches = [] ∧ t.f.wcount = s.tick ∧
        (∀ n, sreg t n = if n = 48 then arg 0 else if n = 49 then arg 1 else if n = 50 then arg 2 else 0) ∧
        (∀ n, n < 64 → preg t n = decide (n = 0)) ∧ (∀ n, vreg t n = 0 ∧ mreg t n = 0 ∧ token t n = Token.fresh ∧ chain t n = none ∧ claimed t n = false) ∧
        t.r.loops = [] ∧ t.x.coreid = id ∧ t.x.kndim = hNdim h ∧ t.x.fmtr = 0 ∧ t.x.perm = 0 ∧ t.x.stky = 0 ∧
        t.x.wdog = (if hdr h 0x0C 31 0 = 0 then s.c.wdogDefault else BitVec.ofNat 64 (1024 * hdr h 0x0C 31 0)) ∧ t.x.cbto = s.c.cbtoDefault ∧
        t.x.tvec = entry + BitVec.ofNat 64 (recField r.bits 0x20 63 0) ∧ t.kn.ver = hdr h 4 7 0 ∧ t.kn.owner = r.owner ∧ t.kn.codeBase = entry ∧
        t.kn.code = readBytes s.m.cells (iaBase + kaddr r + hEntry h) (hCodeLen h) ∧
        (∀ k, k < 2 ^ 20 → readByte t.m.cells k = if k < hDataLen h then readByte s.m.cells (iaBase + kaddr r + hDataOff h + k) else 0) ∧
        (∀ l, l < 2 ^ 13 → l ∉ t.m.empties) ∧ ∀ k ∈ t.m.bad, 2 ^ 20 ≤ k) ∧
  ∀ s : State,
    (∀ w : Waiting, s.c.finished = [w] → s.c.waiting = [] → s.c.runs = [] → s.h.power ≠ .ending → recSaddr w.rcd = 0 → recEc w.rcd 0x0E = none →
      w.queue < 16 → ∃ t : State, exec (.kernelCompletion 0) s = .next t ∧ Said s t (.compl w.rcd.tag w.queue (recTag w.rcd) w.status) ∧
      t.c.finished = [] ∧ t.c.contexts = (s.c.contexts.filter fun c => c.run != w.id) ∧ t = { s with c := t.c, l := t.l, fresh := s.fresh + 1 } ∧
      t.c = { s.c with out := t.c.out, finished := [], contexts := t.c.contexts }) ∧
    (∀ (x : Run) (st : EndStatus), s.c.runs = [x] → s.c.finished = [] → s.c.waiting = [] → s.h.power ≠ .ending → x.here = true → x.suspended = false →
      x.killed = false → x.unacked = [] → alone x = true → s.f.fe = .ended st → remoteAcked s = true → recSaddr x.rcd = 0 → recEc x.rcd 0x0E = none → x.queue < 16 →
      ∃ (t : State) (w : BitVec 256), exec (.kernelCompletion 0) s = .next t ∧ t.f.fe = .idle ∧ t.c.runs = [] ∧
        (∃ u : State, Said s u (.compl x.rcd.tag x.queue (recTag x.rcd) w) ∧ t.c.out = u.c.out ∧ t.l.ports = u.l.ports) ∧ t.r = s.r ∧
        t.m = { s.m with pages := t.m.pages } ∧ (x.pins = [] → t.m.pages = s.m.pages) ∧
        (st.fault = false → st.token = none → w = 0) ∧ (st.fault = true → w.toNat % 2 ^ 8 = 3) ∧
        (∀ k, st.fault = false → st.token = some k → w.toNat % 2 ^ 8 = 4)) ∧
    (∀ q r rs t0, q < 20 → mapGet [] s.c.queues q = r :: rs → (∀ n, n < 20 → n ≠ q → mapGet [] s.c.queues n = []) → r.eligible = some t0 →
      r.aged < (r.spent + (s.tick - t0).toNat) / 8000000 → ∃ t : State, exec .classAgeing s = .next t ∧
        mapGet [] t.c.queues q = { r with aged := (r.spent + (s.tick - t0).toNat) / 8000000 } :: rs ∧
        (∀ n, n ≠ q → mapGet [] t.c.queues n = mapGet [] s.c.queues n) ∧ t = { s with c := { s.c with queues := t.c.queues } }) ∧
    ∀ (n : Nat) (v : W64), n < 256 → ∃ t : State, exec (.ecIncrementMessage n v) s = .next t ∧
      (∀ m, ec t m = if m = n then ec s n + v else ec s m) ∧ t = { s with c := { s.c with ecs := t.c.ecs } }

/-! ### The package -/

/-- 27 R421 to R431, 12 R234, 14 R270: the messages of the host and of the management path, and the resets: what each does once it has been heard and its sender
may act, and where it draws REFUSE; a table of the package changes on every die, a window opens at the anchor once every home has pinned its pages, and a warm reset
goes on at every die. SPDM answers, the bring-up and a refused image. The reason code of a REFUSE is open. The model's choices: the response codes of SPDM are those
of DMTF SPDM and an SPDM message has its header in the field spdm (log 14); a command queue is bound by a management register, a second warm reset meanwhile draws REFUSE,
and the links within a held package are up (log 23); a read counts at the die that it names, and a region registered anew is no longer lost (log 24); a page entry and a
tenant are set by management registers (log 25). That the resets leave the registers of Regs.reset (log 6), an empty memory (log 4), and the values of Cp.reset and of
Port.reset that the spec does not give (log 7) is the model's choice as well: 27 R430 gives none of them. -/
def Obligations.PackageMessagesAndResets : Prop :=
  ∀ (s : State) (h : MsgHdr),
    let u := heard s h
    let same (t : State) : Prop := t.r = s.r ∧ t.x = s.x ∧ t.f = s.f ∧ t.e = s.e ∧ t.m.cells = s.m.cells
    (∀ cq o rcd, Heard s h 0x01 → h.die = dieNo s → mapFind s.c.bind cq = some o → cq < 16 → actsFor s h.qp o = true → s.h.power = .ready →
      (queueLen s cq < 256 → ∃ t : State, exec (.cqwr h cq rcd) s = .next t ∧ mapGet [] t.c.queues cq = mapGet [] s.c.queues cq ++ [⟨rcd, o, 0, h.tag, none, 0, 0⟩] ∧
        (∀ n, n ≠ cq → mapGet [] t.c.queues n = mapGet [] s.c.queues n) ∧ t = { u with c := { s.c with queues := t.c.queues } }) ∧
      (256 ≤ queueLen s cq → Refused (.cqwr h cq rcd) s h)) ∧
    (∀ cq rcd, s.h.power ≠ .held → dieNo s = 0 → h.reserved = false → h.mtype = 0x01 → h.die ≠ 0 → h.qp < 4096 → itsTurn s h = true →
      exec (.cqwr h cq rcd) s = .next (sendData { u with h := { u.h with relayed := u.h.relayed ++ [(h.qp, h.die)] } } 7 .memory (dieOf s h.die) (.host h (.cqwr cq rcd)))) ∧
    (HeardAny s h 0x02 → h.die = dieNo s → isMgmt s h.qp = true ∨ s.h.power = .held →
      (∀ d, Answers (.mgrd h (.lpctl d)) s u (.mgdata h.tag (port s d).lpctl)) ∧ Answers (.mgrd h .migc) s u (.mgdata h.tag s.m.migc) ∧
      Answers (.mgrd h .wdogDefault) s u (.mgdata h.tag s.c.wdogDefault) ∧ Answers (.mgrd h .cbtoDefault) s u (.mgdata h.tag (s.c.cbtoDefault.zeroExtend 64)) ∧
      (∃ v : W64, Answers (.mgrd h .pwrctl) s u (.mgdata h.tag v) ∧ v.toNat / 2 ^ 32 = s.c.draw.toNat ∧ v.toNat / 2 ^ 16 % 2 ^ 16 = s.c.limit.toNat ∧
        (v.toNat % 2 = 1 ↔ s.c.thr = true))) ∧
    (Heard s h 0x03 → isMgmt s h.qp = true → h.die = dieNo s → ∀ v : W64,
      let lim := BitVec.ofNat 16 (max 100 (min 600 (v.toNat / 2 ^ 16 % 2 ^ 16)))
      let thr := if s.c.thr then !(s.c.draw < lim) else lim < s.c.draw
      let limited (t : State) : Prop := t = { u with c := { s.c with limit := lim, thr := thr }, f := { s.f with asyncs := t.f.asyncs } } ∧
        (if s.c.thr = false ∧ thr = true ∧ running s = true ∧ s.kn.trapen = true then ∃ p ∈ t.f.asyncs, p.1 = 0x37 else t.f.asyncs = s.f.asyncs)
      let cleared (t : State) : Prop := t = { u with m := { s.m with migc := t.m.migc } } ∧
        t.m.migc.toNat / 2 ^ 48 = (if v.toNat / 2 ^ 48 = 0 then s.m.migc.toNat / 2 ^ 48 else 0) ∧
        t.m.migc.toNat / 2 ^ 32 % 2 ^ 16 = (if v.toNat / 2 ^ 32 % 2 ^ 16 = 0 then s.m.migc.toNat / 2 ^ 32 % 2 ^ 16 else 0) ∧
        t.m.migc.toNat % 2 ^ 32 = (if v.toNat % 2 ^ 32 = 0 then s.m.migc.toNat % 2 ^ 32 else 0)
      (∀ d, 3 ≤ d → d < 15 → ∃ t : State, exec (.mgwr h (.lpctl d) v) s = .next t ∧ OnlyPort u t d { port u d with lpctl := v &&& ~~~0xFFE0#64, lowSince := (port t d).lowSince }) ∧
      (∀ cq, cq < 16 → ∃ t : State, exec (.mgwr h (.bind cq) v) s = .next t ∧
        (∀ k, mapFind t.c.bind k = if k = cq then some (v.truncate 16) else mapFind s.c.bind k) ∧ t = { u with c := { s.c with bind := t.c.bind } }) ∧
      (∀ (ia : Nat) (e : PageDesc), let p : Page := ⟨ia, e.large, e.owner, e.frame, e.key, e.uncached, e.ro, .resident, [], none, 0, e.home, s.tick⟩
        (pageFits u p = true → ∃ t : State, exec (.mgwr h (.page ia (some e)) v) s = .next t ∧ t.m.pages = s.m.pages ++ [p] ∧
          freeOf t e.home = freeOf s e.home - frames p ∧ t = { u with m := { s.m with pages := t.m.pages, freeFrames := t.m.freeFrames, dir := t.m.dir }, l := t.l }) ∧
        (pageFits u p = false → Refused (.mgwr h (.page ia (some e)) v) s h)) ∧
      (∃ t : State, exec (.mgwr h .pwrctl v) s = .next t ∧ limited t) ∧ (∃ t : State, exec (.pwrctlWrite h v) s = .next t ∧ limited t) ∧
      (∃ t : State, exec (.mgwr h .migc v) s = .next t ∧ cleared t) ∧ (∃ t : State, exec (.migcClear h v) s = .next t ∧ cleared t) ∧
      exec (.mgwr h .wdogDefault v) s = .next { u with c := { s.c with wdogDefault := v } } ∧
      exec (.mgwr h .cbtoDefault v) s = .next { u with c := { s.c with cbtoDefault := v.truncate 32 } } ∧
      exec (.mgwr h .offload v) s = .next { u with m := { s.m with offloadAsked := true } } ∧ (∀ n, Refused (.mgwr h (.other n) v) s h) ∧
      ∀ o : BitVec 16,
        let rest := s.c.tenants.filter fun x => x.owner != o
        (∀ d : TenantDesc,
          let good : Prop := d.base &&& d.mask = 0 ∧ d.ranges.length ≤ 16 ∧ (∀ e ∈ d.ecs, e < 256) ∧
            (tenantUsed s o = true → ∀ x, tenantOf s o = some x → x.base = d.base ∧ x.mask = d.mask)
          (good → exec (.mgwr h (.tenant o (some d)) v) s =
            .next { u with c := { s.c with tenants := rest ++ [⟨o, d.base, d.mask, d.ranges.map fun r => ⟨r.1, r.2.1, r.2.2⟩, d.ecs⟩] } }) ∧
          (¬ good → Refused (.mgwr h (.tenant o (some d)) v) s h)) ∧
        (tenantUsed s o = false → exec (.mgwr h (.tenant o none) v) s = .next { u with c := { s.c with tenants := rest } }) ∧
        (tenantUsed s o = true → Refused (.mgwr h (.tenant o none) v) s h)) ∧
    (Heard s h 0x03 → isMgmt s h.qp = true → dieNo s = 0 →
      let begins (i : Instr) : Prop := ∃ t : State, exec i s = .next t ∧ WarmStarts u t ∧ t.h.inbox = s.h.inbox ++ [(h, .warmReset)] ∧
        t.h.relayed = s.h.relayed ++ ((List.range 7).map fun i => (h.qp, BitVec.ofNat 3 (i + 1))) ∧ SentToMates s t h .warmReset
      (s.h.power = .ready → begins (.warmReset h) ∧ ∀ v, begins (.mgwr h .warmReset v)) ∧
      (s.h.power ≠ .ready → Refused (.warmReset h) s h ∧ ∀ v, Refused (.mgwr h .warmReset v) s h)) ∧
    ((h, HostMsg.warmReset) ∈ s.h.inbox →
      (dieNo s ≠ 0 → s.h.power = .ready → ∃ t : State, exec (.warmReset h) s = .next t ∧ WarmStarts s t ∧ t.h.inbox = s.h.inbox) ∧
      (s.h.power = .ending → s.c.runs = [] → s.c.finished = [] → s.c.waiting = [] →
        (dieNo s ≠ 0 → exec (.warmReset h) s = .next { u with h := { u.h with power := .ended } }) ∧
        (dieNo s = 0 → (∀ x ∈ s.h.relayed, x.1 ≠ h.qp) → ∃ t : State, exec (.warmReset h) s = .next t ∧ SentToMates s t h .warmReset ∧
          t = { s with h := { s.h with power := .ended }, l := { s.l with ports := t.l.ports } })) ∧
      (s.h.power = .ended → matesQuiet s = true → ∃ t : State, exec (.warmReset h) s = .next t ∧ t.tick = 0 ∧ t.f.fe = .idle ∧ t.r = Regs.reset ∧ t.m.cells = [] ∧
        t.h.power = .ready ∧ t.h.inbox = [] ∧ t.l.coord = s.h.image.coord ∧ t.c.queues = [] ∧ t.c.out = s.c.out)) ∧
    (Heard s h 0x03 → isMgmt s h.qp = true → ∀ qp role,
      (qp < 4096 → ∃ t : State, exec (.qpBind h qp role) s = .next t ∧
        TellsAll { u with h := { u.h with qps := (s.h.qps.filter fun p => p.1 != qp) ++ [(qp, role)] } } t h (.qpBind qp role)) ∧
      (4096 ≤ qp → Refused (.qpBind h qp role) s h)) ∧
    (∀ (n : Nat) (w : Window),
      (Heard s h 0x04 → isMgmt s h.qp = true → n < 256 → mapHas s.h.windows n = false → w.iabase % 0x10000 = 0 → w.len % 0x10000 = 0 →
        pagesOwned s w.owner w.iabase w.len (s.m.pages.length + 1) = true → packageHas s w.owner = true → (∀ p ∈ s.m.pages, p.st = .resident) →
        (dieNo s ≠ 0 → ∃ t : State, exec (.wopen h n w) s = .next t ∧ (∀ k, mapFind t.h.windows k = if k = n then some w else mapFind s.h.windows k) ∧
          t = { u with h := { u.h with windows := t.h.windows } }) ∧
        (dieNo s = 0 → (∀ x ∈ s.h.inbox, ∀ v, x.2 ≠ .wopen n v) → ∃ t : State, exec (.wopen h n w) s = .next t ∧ t.h.inbox = s.h.inbox ++ [(h, .wopen n w)] ∧
          t.h.pinsDue = s.h.pinsDue ++ ((farDies s w.owner).map fun c => (n, c)) ∧
          t.h.relayed = s.h.relayed ++ ((List.range 7).map fun i => (h.qp, BitVec.ofNat 3 (i + 1))) ∧ SentToMates s t h (.wopen n w) ∧ SentToFar s t n w true ∧
          t = { u with h := { u.h with inbox := t.h.inbox, pinsDue := t.h.pinsDue, relayed := t.h.relayed }, l := { u.l with ports := t.l.ports } })) ∧
      (dieNo s = 0 → (h, HostMsg.wopen n w) ∈ s.h.inbox → (∀ x ∈ s.h.relayed, x.1 ≠ h.qp) → (∀ x ∈ s.h.pinsDue, x.1 ≠ n) → (∀ p ∈ s.m.pages, p.st = .resident) →
        ∃ t : State, exec (.wopen h n w) s = .next t ∧ (∀ k, mapFind t.h.windows k = if k = n then some w else mapFind s.h.windows k) ∧
          t = { s with h := { s.h with windows := t.h.windows, inbox := s.h.inbox.filter fun x => x.1 != h } }) ∧
      (Heard s h 0x05 → mapFind s.h.windows n = some w → actsFor s h.qp w.owner = true → windowBusy s n w = false →
        ∃ t : State, exec (.wclose h n) s = .next t ∧ (∀ k, mapFind t.h.windows k = if k = n then none else mapFind s.h.windows k) ∧
          (dieNo s = 0 → SentToFar s t n w false) ∧
          ∃ v : State, TellsAll { u with h := { u.h with windows := t.h.windows } } v h (.wclose n) ∧ t = { v with l := { v.l with ports := t.l.ports } } ∧
            (dieNo s ≠ 0 → t = v) ∧ (dieNo s = 0 → SentToMates s t h (.wclose n))) ∧
      (∀ e inc, Heard s h 0x06 → h.die = dieNo s → mapFind s.h.windows n = some w → actsFor s h.qp w.owner = true → (∀ r ∈ s.m.reqs, r.src ≠ .host h.qp) →
        (∃ x, tenantOf s w.owner = some x ∧ e ∈ x.ecs) → ∃ t : State, exec (.ingev h n e inc) s = .next t ∧
          (∀ m, ec t m = if m = e then ec s e + inc else ec s m) ∧ t = { u with c := { s.c with ecs := t.c.ecs } }) ∧
      (∀ c : NvRead, Heard s h 0x07 → mapFind s.h.windows c.win = some w → actsFor s h.qp w.owner = true → c.count ≤ 2048 → c.off + 512 * c.count ≤ w.len →
        (∃ x, tenantOf s w.owner = some x ∧ c.ec ∈ x.ecs) →
        (s.h.reads.length < 256 → exec (.nvrd h c) s =
          .next { u with h := { u.h with nextRead := s.h.nextRead + 1, reads := s.h.reads ++ [⟨s.h.nextRead, c, h.die, .reading⟩] } }) ∧
        (256 ≤ s.h.reads.length → Refused (.nvrd h c) s h)) ∧
      (∀ x, s.h.reads = [x] → mapFind s.h.windows x.cmd.win = some w →
        let writes (t : State) (ia : Nat) (bs : List Byte) : Prop :=
          0 < bs.length → ia % 0x10000 + bs.length ≤ 0x10000 → ∃ r : Req, Joins s t r ∧ r.src = .nvme x.id ∧ r.op = .store bs ∧ r.page = pageBase s ia ∧
            r.runs = [(0, ia, bs.length)] ∧ r.owner = w.owner
        (∀ st bytes, x.phase = .reading → (if st = 0 then bytes.length = 512 * x.cmd.count else bytes.length ≤ 512 * x.cmd.count) →
          ∃ t : State, exec (.nvrdComplete 0 st bytes) s = .next t ∧ t.h.reads = [{ x with phase := .data st false }] ∧
            writes t (w.iabase + x.cmd.off) bytes ∧ t.c = s.c ∧ same t) ∧
        (∀ st st' bytes refused, x.phase = .data st refused → nvBusy s x.id = false → (if refused then st' ≠ 0 else st' = st) →
          ∃ t : State, exec (.nvrdComplete 0 st' bytes) s = .next t ∧ t.h.reads = [{ x with phase := .status }] ∧
            writes t x.cmd.status (bytesLE st'.toNat 8) ∧ t.c = s.c ∧ same t) ∧
        (∀ st bytes, x.phase = .status → nvBusy s x.id = false →
          (x.die = dieNo s → ∃ t : State, exec (.nvrdComplete 0 st bytes) s = .next t ∧ (∀ m, ec t m = if m = x.cmd.ec then ec s m + 1 else ec s m) ∧
            t = { s with h := { s.h with reads := [] }, c := { s.c with ecs := t.c.ecs } }) ∧
          (x.die ≠ dieNo s → exec (.nvrdComplete 0 st bytes) s =
            .next { sendCord s 7 (dieOf s x.die) (.ec x.cmd.ec 1) with h := { s.h with reads := [] } })))) ∧
    (∀ (n qp : Nat) (w : Window) (rkey : BitVec 32) (ia : Nat) (bytes : List Byte), s.h.power ≠ .held → dieNo s = 0 →
      (4096 ≤ qp → exec (.rdmaWrite qp rkey ia bytes) s = .next s) ∧
      (qp < 4096 → s.h.windows = [(n, w)] → w.rkey = rkey → w.iabase ≤ ia → ia + bytes.length ≤ w.iabase + w.len → w.qpset.getLsbD qp = true → 0 < bytes.length →
        ia % 0x10000 + bytes.length ≤ 0x10000 → ∃ (t : State) (r : Req), exec (.rdmaWrite qp rkey ia bytes) s = .next t ∧ Joins s t r ∧
          r.src = .host qp ∧ r.op = .store bytes ∧ r.page = pageBase s ia ∧ r.runs = [(0, ia, bytes.length)] ∧ r.owner = w.owner ∧ same t) ∧
      (qp < 4096 → s.h.windows = [] → Answers (.rdmaWrite qp rkey ia bytes) s s (.nak qp))) ∧
    (∀ (n : Nat) (r : Region), Heard s h 0x09 → isMgmt s h.qp = true → n < 256 → regionUsed s n = false →
      (r.len ≠ 0 → r.len % 0x10000 = 0 → isMgmt s r.qp = true → (s.h.regions.filter fun x => x.1 != n && x.2.owner = r.owner).length < 16 →
        ∃ t : State, exec (.htreg h n r) s = .next t ∧ (∀ k, mapFind t.h.regions k = if k = n then some r else mapFind s.h.regions k) ∧ n ∉ t.h.lost ∧
          TellsAll { u with h := { u.h with regions := t.h.regions, lost := t.h.lost } } t h (.htreg n r)) ∧
      (r.len = 0 → ∃ t : State, exec (.htreg h n r) s = .next t ∧ mapFind t.h.regions n = none ∧ n ∉ t.h.lost ∧
        TellsAll { u with h := { u.h with regions := t.h.regions, lost := t.h.lost } } t h (.htreg n r))) ∧
    (let m := s.h.spdm
     let answers (i : Instr) (kind : Nat) (content : List Byte) : Prop := Answers i s (heard s m) (.spdm m.tag kind (Config.spdmBody kind content))
     let chain := Config.ownChain s.h.image.identity
     HeardAny s m 0x08 → m.die = dieNo s →
      answers .getVersion 0x04 [0x12, 0x13] ∧ answers .getCapabilities 0x61 [] ∧ answers (.negotiateAlgorithms true true) 0x63 [] ∧
      (∀ x y, (x && y) = false → answers (.negotiateAlgorithms x y) 0x7F []) ∧
      answers .getDigests 0x01 (bytesLE (Config.sha384 chain).toNat 48) ∧
      (∀ off len, answers (.getCertificate off len) 0x02 ((chain.drop off).take len)) ∧
      (∀ nonce : BitVec 256,
        let sign (bs : List Byte) : List Byte := bs ++ bytesLE (Config.ecdsaSign s.h.image.identity (Config.spdmTranscript nonce bs)).toNat 96
        answers (.challenge nonce) 0x03 (sign (bytesLE (Config.sha384 chain).toNat 48)) ∧
        answers (.getMeasurements nonce) 0x60 (sign (bytesLE (Config.sha384 (Config.imageBytes s.h.image)).toNat 48 ++ bytesLE Config.firmwareDigest.toNat 48)))) ∧
    ∀ img : ConfigImage, ∃ t : State, exec (.coldReset img) s = .next t ∧ t.tick = 0 ∧ t.r = Regs.reset ∧ t.f.fe = .idle ∧ t.m.cells = [] ∧ t.c = Cp.reset ∧
      t.h.image = img.map ∧
      (Config.ecdsaOk Config.ebsalKey (Config.imageBytes img.map) img.signature = true → t.h.power = .ready ∧ t.l.coord = img.map.coord ∧
        t.h.disabled = img.map.disabled ∧ t.h.channels = min img.map.channels (Config.trainedChannels s.fresh) ∧
        ∀ d, d < 15 → (port t d).installed = img.map.hasNeighbour.contains d) ∧
      (Config.ecdsaOk Config.ebsalKey (Config.imageBytes img.map) img.signature = false → t.h.power = .held ∧ t.l.coord = img.map.coord ∧ ∀ d, d < 15 →
        port t d = (if d < 3 then { Port.reset with installed := true, stage := .up, lanes := fullLanes d, striped := fullLanes d, eqCached := (port s d).eqCached }
                    else { Port.reset with eqCached := (port s d).eqCached }))
end

