-- ==== Sys2Proof/Laws/Files.lean ====
section
/-! SUPPORT. Sparse files and byte memory: what is read after a write, and that every operation keeps the canonical form. -/

namespace Sys2Proof.Machine

/-! ### Reading after writing -/

theorem mapGet_filter {α : Type} (d : α) (n k : Nat) (m : Map α) :
    mapGet d (m.filter fun p => p.1 != n) k = if k = n then d else mapGet d m k := by
  induction m with
  | nil => simp [mapGet]
  | cons p m ih =>
    obtain ⟨j, x⟩ := p
    by_cases hj : j = n <;> by_cases hk : k = n <;> by_cases hjk : j = k <;>
      simp_all [mapGet]
theorem mapGet_mapErase {α : Type} (d : α) (m : Map α) (n k : Nat) :
    mapGet d (mapErase m n) k = if k = n then d else mapGet d m k := mapGet_filter d n k m
theorem mapGet_mapIns {α : Type} (d : α) (m : Map α) (n : Nat) (x : α) (k : Nat) :
    mapGet d (mapIns m n x) k = if k = n then x else mapGet d m k := by
  induction m with
  | nil =>
    by_cases h : n = k
    · simp [mapIns, mapGet, h]
    · simp [mapIns, mapGet, h, Ne.symm h]
  | cons p m ih =>
    obtain ⟨j, y⟩ := p
    simp only [mapIns]
    split
    · by_cases h : k = n <;> simp [mapGet, h, eq_comm]
      intro h'; exact absurd h'.symm h
    · split
      · rename_i h1 h2; subst h2
        by_cases h : k = n
        · simp [mapGet, h]
        · have h' : ¬ n = k := fun e => h e.symm
          simp [mapGet, h, h']
      · rename_i h1 h2
        simp only [mapGet, ih]
        by_cases hj : j = k
        · subst hj; simp; intro e; exact absurd e.symm h2
        · simp [hj]
/-- A file holds what was written last, and elsewhere what it held. -/
theorem mapGet_mapPut {α : Type} [DecidableEq α] (d : α) (m : Map α) (n : Nat) (x : α) (k : Nat) :
    mapGet d (mapPut d m n x) k = if k = n then x else mapGet d m k := by
  unfold mapPut
  split
  · rename_i h; rw [mapGet_mapErase, h]
  · exact mapGet_mapIns d m n x k

theorem readByte_writeByte (c : List Host.Cell) (k : Nat) (b : Byte) (j : Nat) :
    readByte (writeByte c k b) j = if j = k then b else readByte c j := mapGet_mapPut _ _ _ _ _
/-- Bytes written from a key upward read back; every other byte reads as before. -/
theorem readByte_writeBytes (bs : List Byte) : ∀ (c : List Host.Cell) (k j : Nat),
    readByte (writeBytes c k bs) j = if k ≤ j ∧ j < k + bs.length then bs.getD (j - k) 0 else readByte c j := by
  induction bs with
  | nil => intro c k j; simp [writeBytes]
  | cons b bs ih =>
    intro c k j
    rw [writeBytes, ih, readByte_writeByte]
    by_cases h0 : j = k
    · subst h0; simp
    · by_cases h1 : k ≤ j ∧ j < k + (bs.length + 1)
      · have h2 : k + 1 ≤ j ∧ j < k + 1 + bs.length := by omega
        have h3 : j - k = (j - (k + 1)) + 1 := by omega
        simp [h1, h2, h3]
      · have h2 : ¬ (k + 1 ≤ j ∧ j < k + 1 + bs.length) := by omega
        have h3 : ¬ (k ≤ j ∧ j < k + (b :: bs).length) := by simpa using h1
        rw [if_neg h2, if_neg h3, if_neg h0]
theorem readByte_zeroBytes (c : List Host.Cell) (k n j : Nat) :
    readByte (zeroBytes c k n) j = if k ≤ j ∧ j < k + n then 0 else readByte c j := by
  induction c with
  | nil => simp [zeroBytes, readByte, mapGet]
  | cons p c ih =>
    obtain ⟨a, x⟩ := p
    simp only [zeroBytes, readByte, List.filter_cons] at ih ⊢
    by_cases h : a < k ∨ k + n ≤ a
    · simp only [h, Bool.or_eq_true, decide_eq_true_eq, if_true, mapGet]
      by_cases ha : a = j
      · subst ha; rw [if_pos rfl, if_neg (by omega)]; simp
      · rw [if_neg ha, if_neg ha, ih]
    · simp only [Bool.or_eq_true, decide_eq_true_eq, h, if_false, ih, mapGet]
      by_cases ha : a = j
      · subst ha; rw [if_pos (by omega), if_pos (by omega)]
      · rw [if_neg ha]
theorem readBytes_length (c : List Host.Cell) : ∀ (n k : Nat), (readBytes c k n).length = n
  | 0, _ => rfl
  | n + 1, k => by simp [readBytes, readBytes_length c n]

/-! ### The canonical form -/

theorem mapWfFrom_filter {α : Type} [DecidableEq α] (d : α) (q : Nat × α → Bool) :
    ∀ (m : Map α) (lo : Option Nat), mapWfFrom d lo m = true → mapWfFrom d lo (m.filter q) = true := by
  intro m
  induction m with
  | nil => intro lo _; simp [mapWfFrom]
  | cons p m ih =>
    obtain ⟨k, x⟩ := p
    intro lo h
    simp only [mapWfFrom, Bool.and_eq_true] at h
    simp only [List.filter_cons]
    split
    · simp only [mapWfFrom, Bool.and_eq_true]; exact ⟨h.1, ih _ h.2⟩
    · apply ih
      revert h
      cases m with
      | nil => simp [mapWfFrom]
      | cons p' m' =>
        obtain ⟨k', x'⟩ := p'
        cases lo with
        | none => simp [mapWfFrom]; intros; simp_all
        | some l => simp [mapWfFrom]; intros; refine ⟨⟨?_, by assumption⟩, by assumption⟩; omega
theorem mapWf_filter {α : Type} [DecidableEq α] (d : α) (q : Nat × α → Bool) (m : Map α) (h : mapWf d m = true) :
    mapWf d (m.filter q) = true := mapWfFrom_filter d q m none h
theorem mapWfFrom_mapIns {α : Type} [DecidableEq α] (d : α) (n : Nat) (x : α) (hx : x ≠ d) :
    ∀ (m : Map α) (lo : Option Nat), (∀ l, lo = some l → l < n) → mapWfFrom d lo m = true → mapWfFrom d lo (mapIns m n x) = true := by
  intro m
  induction m with
  | nil =>
    intro lo hlo _
    cases lo with
    | none => simp [mapIns, mapWfFrom, hx]
    | some l => simp [mapIns, mapWfFrom, hx, hlo l rfl]
  | cons p m ih =>
    obtain ⟨k, y⟩ := p
    intro lo hlo h
    simp only [mapWfFrom, Bool.and_eq_true] at h
    have hhead : mapWfFrom d lo [(n, x)] = true := by
      cases lo with
      | none => simp [mapWfFrom, hx]
      | some l => simp [mapWfFrom, hx, hlo l rfl]
    simp only [mapWfFrom, Bool.and_eq_true, and_true] at hhead
    simp only [mapIns]
    split
    · rename_i h1
      simp only [mapWfFrom, Bool.and_eq_true]
      exact ⟨hhead, ⟨by simpa using h1, h.1.2⟩, h.2⟩
    · split
      · rename_i h1 h2
        subst h2
        simp only [mapWfFrom, Bool.and_eq_true]
        exact ⟨hhead, h.2⟩
      · rename_i h1 h2
        simp only [mapWfFrom, Bool.and_eq_true]
        refine ⟨h.1, ih _ ?_ h.2⟩
        intro l hl; injection hl with hl; omega
/-- A write keeps the canonical form. -/
theorem mapWf_mapPut {α : Type} [DecidableEq α] (d : α) (m : Map α) (n : Nat) (x : α) (h : mapWf d m = true) :
    mapWf d (mapPut d m n x) = true := by
  unfold mapPut
  split
  · exact mapWf_filter d _ m h
  · rename_i hx; exact mapWfFrom_mapIns d n x hx m none (by simp) h
theorem wf_writeByte (c : List Host.Cell) (k : Nat) (b : Byte) (h : mapWf (0 : Byte) c = true) : mapWf (0 : Byte) (writeByte c k b) = true :=
  mapWf_mapPut 0 c k b h
theorem wf_writeBytes (bs : List Byte) : ∀ (c : List Host.Cell) (k : Nat), mapWf (0 : Byte) c = true → mapWf (0 : Byte) (writeBytes c k bs) = true := by
  induction bs with
  | nil => intro c k h; exact h
  | cons b bs ih => intro c k h; exact ih _ _ (wf_writeByte c k b h)
theorem wf_zeroBytes (c : List Host.Cell) (k n : Nat) (h : mapWf (0 : Byte) c = true) : mapWf (0 : Byte) (zeroBytes c k n) = true :=
  mapWf_filter 0 _ c h
/-- A scratchpad image in front of the memory above it is in the canonical form. -/
theorem wf_append (a b : List Host.Cell) (n : Nat) (ha : mapWf (0 : Byte) a = true) (hb : mapWf (0 : Byte) b = true)
    (h1 : ∀ p ∈ a, p.1 < n) (h2 : ∀ p ∈ b, n ≤ p.1) : mapWf (0 : Byte) (a ++ b) = true := by
  have raise : ∀ (b : List Host.Cell) (l : Nat), (∀ p ∈ b, l < p.1) → mapWfFrom (0 : Byte) none b = true → mapWfFrom (0 : Byte) (some l) b = true := by
    intro b l hl hb
    cases b with
    | nil => simp [mapWfFrom]
    | cons p b =>
      obtain ⟨k, x⟩ := p
      simp only [mapWfFrom, Bool.and_eq_true] at hb ⊢
      exact ⟨⟨by simpa using hl (k, x) (by simp), hb.1.2⟩, hb.2⟩
  have key : ∀ (a : List Host.Cell) (lo : Option Nat), mapWfFrom (0 : Byte) lo a = true → (∀ p ∈ a, p.1 < n) →
      (∀ l, lo = some l → l < n) → mapWfFrom (0 : Byte) lo (a ++ b) = true := by
    intro a
    induction a with
    | nil =>
      intro lo _ _ hlo
      cases lo with
      | none => exact hb
      | some l => exact raise b l (fun p hp => lt_of_lt_of_le (hlo l rfl) (h2 p hp)) hb
    | cons p a ih =>
      obtain ⟨k, x⟩ := p
      intro lo h ha _
      simp only [List.cons_append, mapWfFrom, Bool.and_eq_true] at h ⊢
      exact ⟨h.1, ih _ h.2 (fun p hp => ha p (by simp [hp])) (fun l hl => by injection hl with hl; subst hl; exact ha (k, x) (by simp))⟩
  exact key a none ha h1 (by simp)

end Sys2Proof.Machine
end

