-- ==== Sys2Proof/Laws/State.lean ====
section
/-! SUPPORT. What each update of the state leaves as it was: one lemma per update and part of the state. -/

namespace Sys2Proof.Machine

@[simp] theorem setJr_tick (s : State) (j : Journal) : (setJr s j).tick = s.tick := rfl
@[simp] theorem setJr_r (s : State) (j : Journal) : (setJr s j).r = s.r := rfl
@[simp] theorem setJr_x (s : State) (j : Journal) : (setJr s j).x = s.x := rfl
@[simp] theorem setJr_kn (s : State) (j : Journal) : (setJr s j).kn = s.kn := rfl
@[simp] theorem setJr_e (s : State) (j : Journal) : (setJr s j).e = s.e := rfl
@[simp] theorem setJr_m (s : State) (j : Journal) : (setJr s j).m = s.m := rfl
@[simp] theorem setJr_l (s : State) (j : Journal) : (setJr s j).l = s.l := rfl
@[simp] theorem setJr_c (s : State) (j : Journal) : (setJr s j).c = s.c := rfl
@[simp] theorem setJr_h (s : State) (j : Journal) : (setJr s j).h = s.h := rfl
@[simp] theorem setJr_agenda (s : State) (j : Journal) : (setJr s j).agenda = s.agenda := rfl
@[simp] theorem setJr_fresh (s : State) (j : Journal) : (setJr s j).fresh = s.fresh := rfl
@[simp] theorem setAcc_tick (s : State) (n : Nat) (a : AccImg) : (setAcc s n a).tick = s.tick := rfl
@[simp] theorem setAcc_x (s : State) (n : Nat) (a : AccImg) : (setAcc s n a).x = s.x := rfl
@[simp] theorem setAcc_f (s : State) (n : Nat) (a : AccImg) : (setAcc s n a).f = s.f := rfl
@[simp] theorem setAcc_kn (s : State) (n : Nat) (a : AccImg) : (setAcc s n a).kn = s.kn := rfl
@[simp] theorem setAcc_e (s : State) (n : Nat) (a : AccImg) : (setAcc s n a).e = s.e := rfl
@[simp] theorem setAcc_m (s : State) (n : Nat) (a : AccImg) : (setAcc s n a).m = s.m := rfl
@[simp] theorem setAcc_l (s : State) (n : Nat) (a : AccImg) : (setAcc s n a).l = s.l := rfl
@[simp] theorem setAcc_c (s : State) (n : Nat) (a : AccImg) : (setAcc s n a).c = s.c := rfl
@[simp] theorem setAcc_h (s : State) (n : Nat) (a : AccImg) : (setAcc s n a).h = s.h := rfl
@[simp] theorem setAcc_agenda (s : State) (n : Nat) (a : AccImg) : (setAcc s n a).agenda = s.agenda := rfl
@[simp] theorem setAcc_fresh (s : State) (n : Nat) (a : AccImg) : (setAcc s n a).fresh = s.fresh := rfl
@[simp] theorem setO_tick (s : State) (n : Nat) (a : OpImg) : (setO s n a).tick = s.tick := rfl
@[simp] theorem setO_x (s : State) (n : Nat) (a : OpImg) : (setO s n a).x = s.x := rfl
@[simp] theorem setO_f (s : State) (n : Nat) (a : OpImg) : (setO s n a).f = s.f := rfl
@[simp] theorem setO_kn (s : State) (n : Nat) (a : OpImg) : (setO s n a).kn = s.kn := rfl
@[simp] theorem setO_e (s : State) (n : Nat) (a : OpImg) : (setO s n a).e = s.e := rfl
@[simp] theorem setO_m (s : State) (n : Nat) (a : OpImg) : (setO s n a).m = s.m := rfl
@[simp] theorem setO_l (s : State) (n : Nat) (a : OpImg) : (setO s n a).l = s.l := rfl
@[simp] theorem setO_c (s : State) (n : Nat) (a : OpImg) : (setO s n a).c = s.c := rfl
@[simp] theorem setO_h (s : State) (n : Nat) (a : OpImg) : (setO s n a).h = s.h := rfl
@[simp] theorem setO_agenda (s : State) (n : Nat) (a : OpImg) : (setO s n a).agenda = s.agenda := rfl
@[simp] theorem setO_fresh (s : State) (n : Nat) (a : OpImg) : (setO s n a).fresh = s.fresh := rfl
@[simp] theorem setTok_tick (s : State) (n : Nat) (a : Token) : (setTok s n a).tick = s.tick := rfl
@[simp] theorem setTok_x (s : State) (n : Nat) (a : Token) : (setTok s n a).x = s.x := rfl
@[simp] theorem setTok_f (s : State) (n : Nat) (a : Token) : (setTok s n a).f = s.f := rfl
@[simp] theorem setTok_kn (s : State) (n : Nat) (a : Token) : (setTok s n a).kn = s.kn := rfl
@[simp] theorem setTok_e (s : State) (n : Nat) (a : Token) : (setTok s n a).e = s.e := rfl
@[simp] theorem setTok_m (s : State) (n : Nat) (a : Token) : (setTok s n a).m = s.m := rfl
@[simp] theorem setTok_l (s : State) (n : Nat) (a : Token) : (setTok s n a).l = s.l := rfl
@[simp] theorem setTok_c (s : State) (n : Nat) (a : Token) : (setTok s n a).c = s.c := rfl
@[simp] theorem setTok_h (s : State) (n : Nat) (a : Token) : (setTok s n a).h = s.h := rfl
@[simp] theorem setTok_agenda (s : State) (n : Nat) (a : Token) : (setTok s n a).agenda = s.agenda := rfl
@[simp] theorem setTok_fresh (s : State) (n : Nat) (a : Token) : (setTok s n a).fresh = s.fresh := rfl
@[simp] theorem setBB_tick (s : State) (n : Nat) (a : Bobbin) : (setBB s n a).tick = s.tick := rfl
@[simp] theorem setBB_x (s : State) (n : Nat) (a : Bobbin) : (setBB s n a).x = s.x := rfl
@[simp] theorem setBB_f (s : State) (n : Nat) (a : Bobbin) : (setBB s n a).f = s.f := rfl
@[simp] theorem setBB_kn (s : State) (n : Nat) (a : Bobbin) : (setBB s n a).kn = s.kn := rfl
@[simp] theorem setBB_e (s : State) (n : Nat) (a : Bobbin) : (setBB s n a).e = s.e := rfl
@[simp] theorem setBB_m (s : State) (n : Nat) (a : Bobbin) : (setBB s n a).m = s.m := rfl
@[simp] theorem setBB_l (s : State) (n : Nat) (a : Bobbin) : (setBB s n a).l = s.l := rfl
@[simp] theorem setBB_c (s : State) (n : Nat) (a : Bobbin) : (setBB s n a).c = s.c := rfl
@[simp] theorem setBB_h (s : State) (n : Nat) (a : Bobbin) : (setBB s n a).h = s.h := rfl
@[simp] theorem setBB_agenda (s : State) (n : Nat) (a : Bobbin) : (setBB s n a).agenda = s.agenda := rfl
@[simp] theorem setBB_fresh (s : State) (n : Nat) (a : Bobbin) : (setBB s n a).fresh = s.fresh := rfl
@[simp] theorem setW_tick (s : State) (n : Nat) (a : List Vec) : (setW s n a).tick = s.tick := rfl
@[simp] theorem setW_x (s : State) (n : Nat) (a : List Vec) : (setW s n a).x = s.x := rfl
@[simp] theorem setW_f (s : State) (n : Nat) (a : List Vec) : (setW s n a).f = s.f := rfl
@[simp] theorem setW_kn (s : State) (n : Nat) (a : List Vec) : (setW s n a).kn = s.kn := rfl
@[simp] theorem setW_e (s : State) (n : Nat) (a : List Vec) : (setW s n a).e = s.e := rfl
@[simp] theorem setW_m (s : State) (n : Nat) (a : List Vec) : (setW s n a).m = s.m := rfl
@[simp] theorem setW_l (s : State) (n : Nat) (a : List Vec) : (setW s n a).l = s.l := rfl
@[simp] theorem setW_c (s : State) (n : Nat) (a : List Vec) : (setW s n a).c = s.c := rfl
@[simp] theorem setW_h (s : State) (n : Nat) (a : List Vec) : (setW s n a).h = s.h := rfl
@[simp] theorem setW_agenda (s : State) (n : Nat) (a : List Vec) : (setW s n a).agenda = s.agenda := rfl
@[simp] theorem setW_fresh (s : State) (n : Nat) (a : List Vec) : (setW s n a).fresh = s.fresh := rfl
@[simp] theorem setCB_tick (s : State) (n : Nat) (a : BitVec 2048) : (setCB s n a).tick = s.tick := rfl
@[simp] theorem setCB_x (s : State) (n : Nat) (a : BitVec 2048) : (setCB s n a).x = s.x := rfl
@[simp] theorem setCB_f (s : State) (n : Nat) (a : BitVec 2048) : (setCB s n a).f = s.f := rfl
@[simp] theorem setCB_kn (s : State) (n : Nat) (a : BitVec 2048) : (setCB s n a).kn = s.kn := rfl
@[simp] theorem setCB_e (s : State) (n : Nat) (a : BitVec 2048) : (setCB s n a).e = s.e := rfl
@[simp] theorem setCB_m (s : State) (n : Nat) (a : BitVec 2048) : (setCB s n a).m = s.m := rfl
@[simp] theorem setCB_l (s : State) (n : Nat) (a : BitVec 2048) : (setCB s n a).l = s.l := rfl
@[simp] theorem setCB_c (s : State) (n : Nat) (a : BitVec 2048) : (setCB s n a).c = s.c := rfl
@[simp] theorem setCB_h (s : State) (n : Nat) (a : BitVec 2048) : (setCB s n a).h = s.h := rfl
@[simp] theorem setCB_agenda (s : State) (n : Nat) (a : BitVec 2048) : (setCB s n a).agenda = s.agenda := rfl
@[simp] theorem setCB_fresh (s : State) (n : Nat) (a : BitVec 2048) : (setCB s n a).fresh = s.fresh := rfl
@[simp] theorem setKN_tick (s : State) (n : Nat) (a : BitVec 128) : (setKN s n a).tick = s.tick := rfl
@[simp] theorem setKN_x (s : State) (n : Nat) (a : BitVec 128) : (setKN s n a).x = s.x := rfl
@[simp] theorem setKN_f (s : State) (n : Nat) (a : BitVec 128) : (setKN s n a).f = s.f := rfl
@[simp] theorem setKN_kn (s : State) (n : Nat) (a : BitVec 128) : (setKN s n a).kn = s.kn := rfl
@[simp] theorem setKN_e (s : State) (n : Nat) (a : BitVec 128) : (setKN s n a).e = s.e := rfl
@[simp] theorem setKN_m (s : State) (n : Nat) (a : BitVec 128) : (setKN s n a).m = s.m := rfl
@[simp] theorem setKN_l (s : State) (n : Nat) (a : BitVec 128) : (setKN s n a).l = s.l := rfl
@[simp] theorem setKN_c (s : State) (n : Nat) (a : BitVec 128) : (setKN s n a).c = s.c := rfl
@[simp] theorem setKN_h (s : State) (n : Nat) (a : BitVec 128) : (setKN s n a).h = s.h := rfl
@[simp] theorem setKN_agenda (s : State) (n : Nat) (a : BitVec 128) : (setKN s n a).agenda = s.agenda := rfl
@[simp] theorem setKN_fresh (s : State) (n : Nat) (a : BitVec 128) : (setKN s n a).fresh = s.fresh := rfl
@[simp] theorem setPort_tick (s : State) (d : Nat) (p : Port) : (setPort s d p).tick = s.tick := rfl
@[simp] theorem setPort_r (s : State) (d : Nat) (p : Port) : (setPort s d p).r = s.r := rfl
@[simp] theorem setPort_x (s : State) (d : Nat) (p : Port) : (setPort s d p).x = s.x := rfl
@[simp] theorem setPort_f (s : State) (d : Nat) (p : Port) : (setPort s d p).f = s.f := rfl
@[simp] theorem setPort_kn (s : State) (d : Nat) (p : Port) : (setPort s d p).kn = s.kn := rfl
@[simp] theorem setPort_e (s : State) (d : Nat) (p : Port) : (setPort s d p).e = s.e := rfl
@[simp] theorem setPort_m (s : State) (d : Nat) (p : Port) : (setPort s d p).m = s.m := rfl
@[simp] theorem setPort_c (s : State) (d : Nat) (p : Port) : (setPort s d p).c = s.c := rfl
@[simp] theorem setPort_h (s : State) (d : Nat) (p : Port) : (setPort s d p).h = s.h := rfl
@[simp] theorem setPort_agenda (s : State) (d : Nat) (p : Port) : (setPort s d p).agenda = s.agenda := rfl
@[simp] theorem setPort_fresh (s : State) (d : Nat) (p : Port) : (setPort s d p).fresh = s.fresh := rfl
@[simp] theorem setEc_tick (s : State) (n : Nat) (v : W64) : (setEc s n v).tick = s.tick := rfl
@[simp] theorem setEc_r (s : State) (n : Nat) (v : W64) : (setEc s n v).r = s.r := rfl
@[simp] theorem setEc_x (s : State) (n : Nat) (v : W64) : (setEc s n v).x = s.x := rfl
@[simp] theorem setEc_f (s : State) (n : Nat) (v : W64) : (setEc s n v).f = s.f := rfl
@[simp] theorem setEc_kn (s : State) (n : Nat) (v : W64) : (setEc s n v).kn = s.kn := rfl
@[simp] theorem setEc_e (s : State) (n : Nat) (v : W64) : (setEc s n v).e = s.e := rfl
@[simp] theorem setEc_m (s : State) (n : Nat) (v : W64) : (setEc s n v).m = s.m := rfl
@[simp] theorem setEc_l (s : State) (n : Nat) (v : W64) : (setEc s n v).l = s.l := rfl
@[simp] theorem setEc_h (s : State) (n : Nat) (v : W64) : (setEc s n v).h = s.h := rfl
@[simp] theorem setEc_agenda (s : State) (n : Nat) (v : W64) : (setEc s n v).agenda = s.agenda := rfl
@[simp] theorem setEc_fresh (s : State) (n : Nat) (v : W64) : (setEc s n v).fresh = s.fresh := rfl
@[simp] theorem setRange_tick (s : State) (j : Nat) (g : Range) : (setRange s j g).tick = s.tick := rfl
@[simp] theorem setRange_r (s : State) (j : Nat) (g : Range) : (setRange s j g).r = s.r := rfl
@[simp] theorem setRange_f (s : State) (j : Nat) (g : Range) : (setRange s j g).f = s.f := rfl
@[simp] theorem setRange_kn (s : State) (j : Nat) (g : Range) : (setRange s j g).kn = s.kn := rfl
@[simp] theorem setRange_e (s : State) (j : Nat) (g : Range) : (setRange s j g).e = s.e := rfl
@[simp] theorem setRange_m (s : State) (j : Nat) (g : Range) : (setRange s j g).m = s.m := rfl
@[simp] theorem setRange_l (s : State) (j : Nat) (g : Range) : (setRange s j g).l = s.l := rfl
@[simp] theorem setRange_c (s : State) (j : Nat) (g : Range) : (setRange s j g).c = s.c := rfl
@[simp] theorem setRange_h (s : State) (j : Nat) (g : Range) : (setRange s j g).h = s.h := rfl
@[simp] theorem setRange_agenda (s : State) (j : Nat) (g : Range) : (setRange s j g).agenda = s.agenda := rfl
@[simp] theorem setRange_fresh (s : State) (j : Nat) (g : Range) : (setRange s j g).fresh = s.fresh := rfl
@[simp] theorem setCur_tick (s : State) (c : Cur) : (setCur s c).tick = s.tick := rfl
@[simp] theorem setCur_r (s : State) (c : Cur) : (setCur s c).r = s.r := rfl
@[simp] theorem setCur_x (s : State) (c : Cur) : (setCur s c).x = s.x := rfl
@[simp] theorem setCur_kn (s : State) (c : Cur) : (setCur s c).kn = s.kn := rfl
@[simp] theorem setCur_e (s : State) (c : Cur) : (setCur s c).e = s.e := rfl
@[simp] theorem setCur_m (s : State) (c : Cur) : (setCur s c).m = s.m := rfl
@[simp] theorem setCur_l (s : State) (c : Cur) : (setCur s c).l = s.l := rfl
@[simp] theorem setCur_c (s : State) (c : Cur) : (setCur s c).c = s.c := rfl
@[simp] theorem setCur_h (s : State) (c : Cur) : (setCur s c).h = s.h := rfl
@[simp] theorem setCur_agenda (s : State) (c : Cur) : (setCur s c).agenda = s.agenda := rfl
@[simp] theorem setCur_fresh (s : State) (c : Cur) : (setCur s c).fresh = s.fresh := rfl
@[simp] theorem setCtl_tick (s : State) (c : Ctl) : (setCtl s c).tick = s.tick := rfl
@[simp] theorem setCtl_r (s : State) (c : Ctl) : (setCtl s c).r = s.r := rfl
@[simp] theorem setCtl_x (s : State) (c : Ctl) : (setCtl s c).x = s.x := rfl
@[simp] theorem setCtl_kn (s : State) (c : Ctl) : (setCtl s c).kn = s.kn := rfl
@[simp] theorem setCtl_e (s : State) (c : Ctl) : (setCtl s c).e = s.e := rfl
@[simp] theorem setCtl_m (s : State) (c : Ctl) : (setCtl s c).m = s.m := rfl
@[simp] theorem setCtl_l (s : State) (c : Ctl) : (setCtl s c).l = s.l := rfl
@[simp] theorem setCtl_c (s : State) (c : Ctl) : (setCtl s c).c = s.c := rfl
@[simp] theorem setCtl_h (s : State) (c : Ctl) : (setCtl s c).h = s.h := rfl
@[simp] theorem setCtl_agenda (s : State) (c : Ctl) : (setCtl s c).agenda = s.agenda := rfl
@[simp] theorem setCtl_fresh (s : State) (c : Ctl) : (setCtl s c).fresh = s.fresh := rfl
@[simp] theorem setAct_tick (s : State) (a : ScAct) : (setAct s a).tick = s.tick := rfl
@[simp] theorem setAct_r (s : State) (a : ScAct) : (setAct s a).r = s.r := rfl
@[simp] theorem setAct_x (s : State) (a : ScAct) : (setAct s a).x = s.x := rfl
@[simp] theorem setAct_kn (s : State) (a : ScAct) : (setAct s a).kn = s.kn := rfl
@[simp] theorem setAct_e (s : State) (a : ScAct) : (setAct s a).e = s.e := rfl
@[simp] theorem setAct_m (s : State) (a : ScAct) : (setAct s a).m = s.m := rfl
@[simp] theorem setAct_l (s : State) (a : ScAct) : (setAct s a).l = s.l := rfl
@[simp] theorem setAct_c (s : State) (a : ScAct) : (setAct s a).c = s.c := rfl
@[simp] theorem setAct_h (s : State) (a : ScAct) : (setAct s a).h = s.h := rfl
@[simp] theorem setAct_agenda (s : State) (a : ScAct) : (setAct s a).agenda = s.agenda := rfl
@[simp] theorem setAct_fresh (s : State) (a : ScAct) : (setAct s a).fresh = s.fresh := rfl
@[simp] theorem setFe_tick (s : State) (a : Fe) : (setFe s a).tick = s.tick := rfl
@[simp] theorem setFe_r (s : State) (a : Fe) : (setFe s a).r = s.r := rfl
@[simp] theorem setFe_x (s : State) (a : Fe) : (setFe s a).x = s.x := rfl
@[simp] theorem setFe_kn (s : State) (a : Fe) : (setFe s a).kn = s.kn := rfl
@[simp] theorem setFe_e (s : State) (a : Fe) : (setFe s a).e = s.e := rfl
@[simp] theorem setFe_m (s : State) (a : Fe) : (setFe s a).m = s.m := rfl
@[simp] theorem setFe_l (s : State) (a : Fe) : (setFe s a).l = s.l := rfl
@[simp] theorem setFe_c (s : State) (a : Fe) : (setFe s a).c = s.c := rfl
@[simp] theorem setFe_h (s : State) (a : Fe) : (setFe s a).h = s.h := rfl
@[simp] theorem setFe_agenda (s : State) (a : Fe) : (setFe s a).agenda = s.agenda := rfl
@[simp] theorem setFe_fresh (s : State) (a : Fe) : (setFe s a).fresh = s.fresh := rfl
@[simp] theorem setCells_tick (s : State) (c : List Host.Cell) : (setCells s c).tick = s.tick := rfl
@[simp] theorem setCells_r (s : State) (c : List Host.Cell) : (setCells s c).r = s.r := rfl
@[simp] theorem setCells_x (s : State) (c : List Host.Cell) : (setCells s c).x = s.x := rfl
@[simp] theorem setCells_f (s : State) (c : List Host.Cell) : (setCells s c).f = s.f := rfl
@[simp] theorem setCells_kn (s : State) (c : List Host.Cell) : (setCells s c).kn = s.kn := rfl
@[simp] theorem setCells_e (s : State) (c : List Host.Cell) : (setCells s c).e = s.e := rfl
@[simp] theorem setCells_l (s : State) (c : List Host.Cell) : (setCells s c).l = s.l := rfl
@[simp] theorem setCells_c (s : State) (c : List Host.Cell) : (setCells s c).c = s.c := rfl
@[simp] theorem setCells_h (s : State) (c : List Host.Cell) : (setCells s c).h = s.h := rfl
@[simp] theorem setCells_agenda (s : State) (c : List Host.Cell) : (setCells s c).agenda = s.agenda := rfl
@[simp] theorem setCells_fresh (s : State) (c : List Host.Cell) : (setCells s c).fresh = s.fresh := rfl
@[simp] theorem setQ_tick (s : State) (q : Queue) (l : List QEntry) : (setQ s q l).tick = s.tick := rfl
@[simp] theorem setQ_r (s : State) (q : Queue) (l : List QEntry) : (setQ s q l).r = s.r := rfl
@[simp] theorem setQ_x (s : State) (q : Queue) (l : List QEntry) : (setQ s q l).x = s.x := rfl
@[simp] theorem setQ_kn (s : State) (q : Queue) (l : List QEntry) : (setQ s q l).kn = s.kn := rfl
@[simp] theorem setQ_e (s : State) (q : Queue) (l : List QEntry) : (setQ s q l).e = s.e := rfl
@[simp] theorem setQ_m (s : State) (q : Queue) (l : List QEntry) : (setQ s q l).m = s.m := rfl
@[simp] theorem setQ_l (s : State) (q : Queue) (l : List QEntry) : (setQ s q l).l = s.l := rfl
@[simp] theorem setQ_c (s : State) (q : Queue) (l : List QEntry) : (setQ s q l).c = s.c := rfl
@[simp] theorem setQ_h (s : State) (q : Queue) (l : List QEntry) : (setQ s q l).h = s.h := rfl
@[simp] theorem setQ_agenda (s : State) (q : Queue) (l : List QEntry) : (setQ s q l).agenda = s.agenda := rfl
@[simp] theorem setQ_fresh (s : State) (q : Queue) (l : List QEntry) : (setQ s q l).fresh = s.fresh := rfl
@[simp] theorem placePending_tick (s : State) (a : File) (n b : Nat) : (placePending s a n b).tick = s.tick := rfl
@[simp] theorem placePending_r (s : State) (a : File) (n b : Nat) : (placePending s a n b).r = s.r := rfl
@[simp] theorem placePending_x (s : State) (a : File) (n b : Nat) : (placePending s a n b).x = s.x := rfl
@[simp] theorem placePending_kn (s : State) (a : File) (n b : Nat) : (placePending s a n b).kn = s.kn := rfl
@[simp] theorem placePending_e (s : State) (a : File) (n b : Nat) : (placePending s a n b).e = s.e := rfl
@[simp] theorem placePending_m (s : State) (a : File) (n b : Nat) : (placePending s a n b).m = s.m := rfl
@[simp] theorem placePending_l (s : State) (a : File) (n b : Nat) : (placePending s a n b).l = s.l := rfl
@[simp] theorem placePending_c (s : State) (a : File) (n b : Nat) : (placePending s a n b).c = s.c := rfl
@[simp] theorem placePending_h (s : State) (a : File) (n b : Nat) : (placePending s a n b).h = s.h := rfl
@[simp] theorem placePending_agenda (s : State) (a : File) (n b : Nat) : (placePending s a n b).agenda = s.agenda := rfl
@[simp] theorem placePending_fresh (s : State) (a : File) (n b : Nat) : (placePending s a n b).fresh = s.fresh := rfl
@[simp] theorem clearPending_tick (s : State) (a : File) (n b : Nat) : (clearPending s a n b).tick = s.tick := rfl
@[simp] theorem clearPending_r (s : State) (a : File) (n b : Nat) : (clearPending s a n b).r = s.r := rfl
@[simp] theorem clearPending_x (s : State) (a : File) (n b : Nat) : (clearPending s a n b).x = s.x := rfl
@[simp] theorem clearPending_kn (s : State) (a : File) (n b : Nat) : (clearPending s a n b).kn = s.kn := rfl
@[simp] theorem clearPending_e (s : State) (a : File) (n b : Nat) : (clearPending s a n b).e = s.e := rfl
@[simp] theorem clearPending_m (s : State) (a : File) (n b : Nat) : (clearPending s a n b).m = s.m := rfl
@[simp] theorem clearPending_l (s : State) (a : File) (n b : Nat) : (clearPending s a n b).l = s.l := rfl
@[simp] theorem clearPending_c (s : State) (a : File) (n b : Nat) : (clearPending s a n b).c = s.c := rfl
@[simp] theorem clearPending_h (s : State) (a : File) (n b : Nat) : (clearPending s a n b).h = s.h := rfl
@[simp] theorem clearPending_agenda (s : State) (a : File) (n b : Nat) : (clearPending s a n b).agenda = s.agenda := rfl
@[simp] theorem clearPending_fresh (s : State) (a : File) (n b : Nat) : (clearPending s a n b).fresh = s.fresh := rfl
@[simp] theorem putBytes_tick (s : State) (k : Nat) (b : List Byte) : (putBytes s k b).tick = s.tick := rfl
@[simp] theorem putBytes_r (s : State) (k : Nat) (b : List Byte) : (putBytes s k b).r = s.r := rfl
@[simp] theorem putBytes_x (s : State) (k : Nat) (b : List Byte) : (putBytes s k b).x = s.x := rfl
@[simp] theorem putBytes_f (s : State) (k : Nat) (b : List Byte) : (putBytes s k b).f = s.f := rfl
@[simp] theorem putBytes_kn (s : State) (k : Nat) (b : List Byte) : (putBytes s k b).kn = s.kn := rfl
@[simp] theorem putBytes_e (s : State) (k : Nat) (b : List Byte) : (putBytes s k b).e = s.e := rfl
@[simp] theorem putBytes_l (s : State) (k : Nat) (b : List Byte) : (putBytes s k b).l = s.l := rfl
@[simp] theorem putBytes_c (s : State) (k : Nat) (b : List Byte) : (putBytes s k b).c = s.c := rfl
@[simp] theorem putBytes_h (s : State) (k : Nat) (b : List Byte) : (putBytes s k b).h = s.h := rfl
@[simp] theorem putBytes_agenda (s : State) (k : Nat) (b : List Byte) : (putBytes s k b).agenda = s.agenda := rfl
@[simp] theorem putBytes_fresh (s : State) (k : Nat) (b : List Byte) : (putBytes s k b).fresh = s.fresh := rfl
@[simp] theorem setCount_tick (s : State) (d : Coord) (b n : Nat) : (setCount s d b n).tick = s.tick := rfl
@[simp] theorem setCount_r (s : State) (d : Coord) (b n : Nat) : (setCount s d b n).r = s.r := rfl
@[simp] theorem setCount_x (s : State) (d : Coord) (b n : Nat) : (setCount s d b n).x = s.x := rfl
@[simp] theorem setCount_kn (s : State) (d : Coord) (b n : Nat) : (setCount s d b n).kn = s.kn := rfl
@[simp] theorem setCount_e (s : State) (d : Coord) (b n : Nat) : (setCount s d b n).e = s.e := rfl
@[simp] theorem setCount_m (s : State) (d : Coord) (b n : Nat) : (setCount s d b n).m = s.m := rfl
@[simp] theorem setCount_l (s : State) (d : Coord) (b n : Nat) : (setCount s d b n).l = s.l := rfl
@[simp] theorem setCount_c (s : State) (d : Coord) (b n : Nat) : (setCount s d b n).c = s.c := rfl
@[simp] theorem setCount_h (s : State) (d : Coord) (b n : Nat) : (setCount s d b n).h = s.h := rfl
@[simp] theorem setCount_agenda (s : State) (d : Coord) (b n : Nat) : (setCount s d b n).agenda = s.agenda := rfl
@[simp] theorem setCount_fresh (s : State) (d : Coord) (b n : Nat) : (setCount s d b n).fresh = s.fresh := rfl
@[simp] theorem clearCount_tick (s : State) (d : Coord) (b : Nat) : (clearCount s d b).tick = s.tick := rfl
@[simp] theorem clearCount_r (s : State) (d : Coord) (b : Nat) : (clearCount s d b).r = s.r := rfl
@[simp] theorem clearCount_x (s : State) (d : Coord) (b : Nat) : (clearCount s d b).x = s.x := rfl
@[simp] theorem clearCount_kn (s : State) (d : Coord) (b : Nat) : (clearCount s d b).kn = s.kn := rfl
@[simp] theorem clearCount_e (s : State) (d : Coord) (b : Nat) : (clearCount s d b).e = s.e := rfl
@[simp] theorem clearCount_m (s : State) (d : Coord) (b : Nat) : (clearCount s d b).m = s.m := rfl
@[simp] theorem clearCount_l (s : State) (d : Coord) (b : Nat) : (clearCount s d b).l = s.l := rfl
@[simp] theorem clearCount_c (s : State) (d : Coord) (b : Nat) : (clearCount s d b).c = s.c := rfl
@[simp] theorem clearCount_h (s : State) (d : Coord) (b : Nat) : (clearCount s d b).h = s.h := rfl
@[simp] theorem clearCount_agenda (s : State) (d : Coord) (b : Nat) : (clearCount s d b).agenda = s.agenda := rfl
@[simp] theorem clearCount_fresh (s : State) (d : Coord) (b : Nat) : (clearCount s d b).fresh = s.fresh := rfl
@[simp] theorem setGroup_tick (s : State) (g : Nat) (x : Group) : (setGroup s g x).tick = s.tick := rfl
@[simp] theorem setGroup_r (s : State) (g : Nat) (x : Group) : (setGroup s g x).r = s.r := rfl
@[simp] theorem setGroup_x (s : State) (g : Nat) (x : Group) : (setGroup s g x).x = s.x := rfl
@[simp] theorem setGroup_kn (s : State) (g : Nat) (x : Group) : (setGroup s g x).kn = s.kn := rfl
@[simp] theorem setGroup_e (s : State) (g : Nat) (x : Group) : (setGroup s g x).e = s.e := rfl
@[simp] theorem setGroup_m (s : State) (g : Nat) (x : Group) : (setGroup s g x).m = s.m := rfl
@[simp] theorem setGroup_l (s : State) (g : Nat) (x : Group) : (setGroup s g x).l = s.l := rfl
@[simp] theorem setGroup_c (s : State) (g : Nat) (x : Group) : (setGroup s g x).c = s.c := rfl
@[simp] theorem setGroup_h (s : State) (g : Nat) (x : Group) : (setGroup s g x).h = s.h := rfl
@[simp] theorem setGroup_agenda (s : State) (g : Nat) (x : Group) : (setGroup s g x).agenda = s.agenda := rfl
@[simp] theorem setGroup_fresh (s : State) (g : Nat) (x : Group) : (setGroup s g x).fresh = s.fresh := rfl
@[simp] theorem deliver_tick (s : State) (a : File) (n : Nat) (v w : Vec) (b : BitVec 4) : (deliver s a n v w b).tick = s.tick := rfl
@[simp] theorem deliver_r (s : State) (a : File) (n : Nat) (v w : Vec) (b : BitVec 4) : (deliver s a n v w b).r = s.r := rfl
@[simp] theorem deliver_x (s : State) (a : File) (n : Nat) (v w : Vec) (b : BitVec 4) : (deliver s a n v w b).x = s.x := rfl
@[simp] theorem deliver_kn (s : State) (a : File) (n : Nat) (v w : Vec) (b : BitVec 4) : (deliver s a n v w b).kn = s.kn := rfl
@[simp] theorem deliver_e (s : State) (a : File) (n : Nat) (v w : Vec) (b : BitVec 4) : (deliver s a n v w b).e = s.e := rfl
@[simp] theorem deliver_m (s : State) (a : File) (n : Nat) (v w : Vec) (b : BitVec 4) : (deliver s a n v w b).m = s.m := rfl
@[simp] theorem deliver_l (s : State) (a : File) (n : Nat) (v w : Vec) (b : BitVec 4) : (deliver s a n v w b).l = s.l := rfl
@[simp] theorem deliver_c (s : State) (a : File) (n : Nat) (v w : Vec) (b : BitVec 4) : (deliver s a n v w b).c = s.c := rfl
@[simp] theorem deliver_h (s : State) (a : File) (n : Nat) (v w : Vec) (b : BitVec 4) : (deliver s a n v w b).h = s.h := rfl
@[simp] theorem deliver_agenda (s : State) (a : File) (n : Nat) (v w : Vec) (b : BitVec 4) : (deliver s a n v w b).agenda = s.agenda := rfl
@[simp] theorem deliver_fresh (s : State) (a : File) (n : Nat) (v w : Vec) (b : BitVec 4) : (deliver s a n v w b).fresh = s.fresh := rfl
@[simp] theorem endWait_tick (s : State) (k b : Nat) : (endWait s k b).tick = s.tick := rfl
@[simp] theorem endWait_r (s : State) (k b : Nat) : (endWait s k b).r = s.r := rfl
@[simp] theorem endWait_x (s : State) (k b : Nat) : (endWait s k b).x = s.x := rfl
@[simp] theorem endWait_kn (s : State) (k b : Nat) : (endWait s k b).kn = s.kn := rfl
@[simp] theorem endWait_e (s : State) (k b : Nat) : (endWait s k b).e = s.e := rfl
@[simp] theorem endWait_m (s : State) (k b : Nat) : (endWait s k b).m = s.m := rfl
@[simp] theorem endWait_l (s : State) (k b : Nat) : (endWait s k b).l = s.l := rfl
@[simp] theorem endWait_c (s : State) (k b : Nat) : (endWait s k b).c = s.c := rfl
@[simp] theorem endWait_h (s : State) (k b : Nat) : (endWait s k b).h = s.h := rfl
@[simp] theorem endWait_agenda (s : State) (k b : Nat) : (endWait s k b).agenda = s.agenda := rfl
@[simp] theorem endWait_fresh (s : State) (k b : Nat) : (endWait s k b).fresh = s.fresh := rfl
@[simp] theorem recordFault_tick (s : State) (i : TrapInfo) : (recordFault s i).tick = s.tick := rfl
@[simp] theorem recordFault_r (s : State) (i : TrapInfo) : (recordFault s i).r = s.r := rfl
@[simp] theorem recordFault_x (s : State) (i : TrapInfo) : (recordFault s i).x = s.x := rfl
@[simp] theorem recordFault_kn (s : State) (i : TrapInfo) : (recordFault s i).kn = s.kn := rfl
@[simp] theorem recordFault_e (s : State) (i : TrapInfo) : (recordFault s i).e = s.e := rfl
@[simp] theorem recordFault_m (s : State) (i : TrapInfo) : (recordFault s i).m = s.m := rfl
@[simp] theorem recordFault_l (s : State) (i : TrapInfo) : (recordFault s i).l = s.l := rfl
@[simp] theorem recordFault_c (s : State) (i : TrapInfo) : (recordFault s i).c = s.c := rfl
@[simp] theorem recordFault_h (s : State) (i : TrapInfo) : (recordFault s i).h = s.h := rfl
@[simp] theorem recordFault_agenda (s : State) (i : TrapInfo) : (recordFault s i).agenda = s.agenda := rfl
@[simp] theorem recordFault_fresh (s : State) (i : TrapInfo) : (recordFault s i).fresh = s.fresh := rfl
@[simp] theorem reinject_tick (s : State) (l : List LatchRec) : (reinject s l).tick = s.tick := rfl
@[simp] theorem reinject_r (s : State) (l : List LatchRec) : (reinject s l).r = s.r := rfl
@[simp] theorem reinject_x (s : State) (l : List LatchRec) : (reinject s l).x = s.x := rfl
@[simp] theorem reinject_kn (s : State) (l : List LatchRec) : (reinject s l).kn = s.kn := rfl
@[simp] theorem reinject_e (s : State) (l : List LatchRec) : (reinject s l).e = s.e := rfl
@[simp] theorem reinject_m (s : State) (l : List LatchRec) : (reinject s l).m = s.m := rfl
@[simp] theorem reinject_l (s : State) (l : List LatchRec) : (reinject s l).l = s.l := rfl
@[simp] theorem reinject_c (s : State) (l : List LatchRec) : (reinject s l).c = s.c := rfl
@[simp] theorem reinject_h (s : State) (l : List LatchRec) : (reinject s l).h = s.h := rfl
@[simp] theorem reinject_agenda (s : State) (l : List LatchRec) : (reinject s l).agenda = s.agenda := rfl
@[simp] theorem reinject_fresh (s : State) (l : List LatchRec) : (reinject s l).fresh = s.fresh := rfl
@[simp] theorem removeReq_tick (s : State) (k : Nat) : (removeReq s k).tick = s.tick := rfl
@[simp] theorem removeReq_r (s : State) (k : Nat) : (removeReq s k).r = s.r := rfl
@[simp] theorem removeReq_x (s : State) (k : Nat) : (removeReq s k).x = s.x := rfl
@[simp] theorem removeReq_f (s : State) (k : Nat) : (removeReq s k).f = s.f := rfl
@[simp] theorem removeReq_kn (s : State) (k : Nat) : (removeReq s k).kn = s.kn := rfl
@[simp] theorem removeReq_e (s : State) (k : Nat) : (removeReq s k).e = s.e := rfl
@[simp] theorem removeReq_l (s : State) (k : Nat) : (removeReq s k).l = s.l := rfl
@[simp] theorem removeReq_c (s : State) (k : Nat) : (removeReq s k).c = s.c := rfl
@[simp] theorem removeReq_h (s : State) (k : Nat) : (removeReq s k).h = s.h := rfl
@[simp] theorem removeReq_agenda (s : State) (k : Nat) : (removeReq s k).agenda = s.agenda := rfl
@[simp] theorem removeReq_fresh (s : State) (k : Nat) : (removeReq s k).fresh = s.fresh := rfl
@[simp] theorem setPage_tick (s : State) (p : Page) : (setPage s p).tick = s.tick := rfl
@[simp] theorem setPage_r (s : State) (p : Page) : (setPage s p).r = s.r := rfl
@[simp] theorem setPage_x (s : State) (p : Page) : (setPage s p).x = s.x := rfl
@[simp] theorem setPage_f (s : State) (p : Page) : (setPage s p).f = s.f := rfl
@[simp] theorem setPage_kn (s : State) (p : Page) : (setPage s p).kn = s.kn := rfl
@[simp] theorem setPage_e (s : State) (p : Page) : (setPage s p).e = s.e := rfl
@[simp] theorem setPage_l (s : State) (p : Page) : (setPage s p).l = s.l := rfl
@[simp] theorem setPage_c (s : State) (p : Page) : (setPage s p).c = s.c := rfl
@[simp] theorem setPage_h (s : State) (p : Page) : (setPage s p).h = s.h := rfl
@[simp] theorem setPage_agenda (s : State) (p : Page) : (setPage s p).agenda = s.agenda := rfl
@[simp] theorem setPage_fresh (s : State) (p : Page) : (setPage s p).fresh = s.fresh := rfl
@[simp] theorem setFree_tick (s : State) (d : Coord) (n : Nat) : (setFree s d n).tick = s.tick := rfl
@[simp] theorem setFree_r (s : State) (d : Coord) (n : Nat) : (setFree s d n).r = s.r := rfl
@[simp] theorem setFree_x (s : State) (d : Coord) (n : Nat) : (setFree s d n).x = s.x := rfl
@[simp] theorem setFree_f (s : State) (d : Coord) (n : Nat) : (setFree s d n).f = s.f := rfl
@[simp] theorem setFree_kn (s : State) (d : Coord) (n : Nat) : (setFree s d n).kn = s.kn := rfl
@[simp] theorem setFree_e (s : State) (d : Coord) (n : Nat) : (setFree s d n).e = s.e := rfl
@[simp] theorem setFree_l (s : State) (d : Coord) (n : Nat) : (setFree s d n).l = s.l := rfl
@[simp] theorem setFree_c (s : State) (d : Coord) (n : Nat) : (setFree s d n).c = s.c := rfl
@[simp] theorem setFree_h (s : State) (d : Coord) (n : Nat) : (setFree s d n).h = s.h := rfl
@[simp] theorem setFree_agenda (s : State) (d : Coord) (n : Nat) : (setFree s d n).agenda = s.agenda := rfl
@[simp] theorem setFree_fresh (s : State) (d : Coord) (n : Nat) : (setFree s d n).fresh = s.fresh := rfl
@[simp] theorem setCmd_tick (s : State) (c : Cmd) : (setCmd s c).tick = s.tick := rfl
@[simp] theorem setCmd_r (s : State) (c : Cmd) : (setCmd s c).r = s.r := rfl
@[simp] theorem setCmd_x (s : State) (c : Cmd) : (setCmd s c).x = s.x := rfl
@[simp] theorem setCmd_f (s : State) (c : Cmd) : (setCmd s c).f = s.f := rfl
@[simp] theorem setCmd_kn (s : State) (c : Cmd) : (setCmd s c).kn = s.kn := rfl
@[simp] theorem setCmd_m (s : State) (c : Cmd) : (setCmd s c).m = s.m := rfl
@[simp] theorem setCmd_l (s : State) (c : Cmd) : (setCmd s c).l = s.l := rfl
@[simp] theorem setCmd_c (s : State) (c : Cmd) : (setCmd s c).c = s.c := rfl
@[simp] theorem setCmd_h (s : State) (c : Cmd) : (setCmd s c).h = s.h := rfl
@[simp] theorem setCmd_agenda (s : State) (c : Cmd) : (setCmd s c).agenda = s.agenda := rfl
@[simp] theorem setCmd_fresh (s : State) (c : Cmd) : (setCmd s c).fresh = s.fresh := rfl
@[simp] theorem enqueueRec_tick (s : State) (n : Nat) (a : Rec) : (enqueueRec s n a).tick = s.tick := rfl
@[simp] theorem enqueueRec_r (s : State) (n : Nat) (a : Rec) : (enqueueRec s n a).r = s.r := rfl
@[simp] theorem enqueueRec_x (s : State) (n : Nat) (a : Rec) : (enqueueRec s n a).x = s.x := rfl
@[simp] theorem enqueueRec_f (s : State) (n : Nat) (a : Rec) : (enqueueRec s n a).f = s.f := rfl
@[simp] theorem enqueueRec_kn (s : State) (n : Nat) (a : Rec) : (enqueueRec s n a).kn = s.kn := rfl
@[simp] theorem enqueueRec_e (s : State) (n : Nat) (a : Rec) : (enqueueRec s n a).e = s.e := rfl
@[simp] theorem enqueueRec_m (s : State) (n : Nat) (a : Rec) : (enqueueRec s n a).m = s.m := rfl
@[simp] theorem enqueueRec_l (s : State) (n : Nat) (a : Rec) : (enqueueRec s n a).l = s.l := rfl
@[simp] theorem enqueueRec_h (s : State) (n : Nat) (a : Rec) : (enqueueRec s n a).h = s.h := rfl
@[simp] theorem enqueueRec_agenda (s : State) (n : Nat) (a : Rec) : (enqueueRec s n a).agenda = s.agenda := rfl
@[simp] theorem enqueueRec_fresh (s : State) (n : Nat) (a : Rec) : (enqueueRec s n a).fresh = s.fresh := rfl
@[simp] theorem setRun_tick (s : State) (x : Run) : (setRun s x).tick = s.tick := rfl
@[simp] theorem setRun_r (s : State) (x : Run) : (setRun s x).r = s.r := rfl
@[simp] theorem setRun_x (s : State) (x : Run) : (setRun s x).x = s.x := rfl
@[simp] theorem setRun_f (s : State) (x : Run) : (setRun s x).f = s.f := rfl
@[simp] theorem setRun_kn (s : State) (x : Run) : (setRun s x).kn = s.kn := rfl
@[simp] theorem setRun_e (s : State) (x : Run) : (setRun s x).e = s.e := rfl
@[simp] theorem setRun_m (s : State) (x : Run) : (setRun s x).m = s.m := rfl
@[simp] theorem setRun_l (s : State) (x : Run) : (setRun s x).l = s.l := rfl
@[simp] theorem setRun_h (s : State) (x : Run) : (setRun s x).h = s.h := rfl
@[simp] theorem setRun_agenda (s : State) (x : Run) : (setRun s x).agenda = s.agenda := rfl
@[simp] theorem setRun_fresh (s : State) (x : Run) : (setRun s x).fresh = s.fresh := rfl
@[simp] theorem releaseHold_tick (s : State) : (releaseHold s).tick = s.tick := rfl
@[simp] theorem releaseHold_r (s : State) : (releaseHold s).r = s.r := rfl
@[simp] theorem releaseHold_x (s : State) : (releaseHold s).x = s.x := rfl
@[simp] theorem releaseHold_kn (s : State) : (releaseHold s).kn = s.kn := rfl
@[simp] theorem releaseHold_e (s : State) : (releaseHold s).e = s.e := rfl
@[simp] theorem releaseHold_m (s : State) : (releaseHold s).m = s.m := rfl
@[simp] theorem releaseHold_l (s : State) : (releaseHold s).l = s.l := rfl
@[simp] theorem releaseHold_c (s : State) : (releaseHold s).c = s.c := rfl
@[simp] theorem releaseHold_h (s : State) : (releaseHold s).h = s.h := rfl
@[simp] theorem releaseHold_agenda (s : State) : (releaseHold s).agenda = s.agenda := rfl
@[simp] theorem releaseHold_fresh (s : State) : (releaseHold s).fresh = s.fresh := rfl
@[simp] theorem pushOut_tick (s : State) (d : Nat) (a : Requester) (y : Flit) : (pushOut s d a y).tick = s.tick := rfl
@[simp] theorem pushOut_r (s : State) (d : Nat) (a : Requester) (y : Flit) : (pushOut s d a y).r = s.r := rfl
@[simp] theorem pushOut_x (s : State) (d : Nat) (a : Requester) (y : Flit) : (pushOut s d a y).x = s.x := rfl
@[simp] theorem pushOut_f (s : State) (d : Nat) (a : Requester) (y : Flit) : (pushOut s d a y).f = s.f := rfl
@[simp] theorem pushOut_kn (s : State) (d : Nat) (a : Requester) (y : Flit) : (pushOut s d a y).kn = s.kn := rfl
@[simp] theorem pushOut_e (s : State) (d : Nat) (a : Requester) (y : Flit) : (pushOut s d a y).e = s.e := rfl
@[simp] theorem pushOut_m (s : State) (d : Nat) (a : Requester) (y : Flit) : (pushOut s d a y).m = s.m := rfl
@[simp] theorem pushOut_c (s : State) (d : Nat) (a : Requester) (y : Flit) : (pushOut s d a y).c = s.c := rfl
@[simp] theorem pushOut_h (s : State) (d : Nat) (a : Requester) (y : Flit) : (pushOut s d a y).h = s.h := rfl
@[simp] theorem pushOut_agenda (s : State) (d : Nat) (a : Requester) (y : Flit) : (pushOut s d a y).agenda = s.agenda := rfl
@[simp] theorem pushOut_fresh (s : State) (d : Nat) (a : Requester) (y : Flit) : (pushOut s d a y).fresh = s.fresh := rfl
@[simp] theorem sendData_tick (s : State) (m : BitVec 15) (a : Requester) (d : Coord) (b : Body) : (sendData s m a d b).tick = s.tick := rfl
@[simp] theorem sendData_r (s : State) (m : BitVec 15) (a : Requester) (d : Coord) (b : Body) : (sendData s m a d b).r = s.r := rfl
@[simp] theorem sendData_x (s : State) (m : BitVec 15) (a : Requester) (d : Coord) (b : Body) : (sendData s m a d b).x = s.x := rfl
@[simp] theorem sendData_f (s : State) (m : BitVec 15) (a : Requester) (d : Coord) (b : Body) : (sendData s m a d b).f = s.f := rfl
@[simp] theorem sendData_kn (s : State) (m : BitVec 15) (a : Requester) (d : Coord) (b : Body) : (sendData s m a d b).kn = s.kn := rfl
@[simp] theorem sendData_e (s : State) (m : BitVec 15) (a : Requester) (d : Coord) (b : Body) : (sendData s m a d b).e = s.e := rfl
@[simp] theorem sendData_m (s : State) (m : BitVec 15) (a : Requester) (d : Coord) (b : Body) : (sendData s m a d b).m = s.m := rfl
@[simp] theorem sendData_c (s : State) (m : BitVec 15) (a : Requester) (d : Coord) (b : Body) : (sendData s m a d b).c = s.c := rfl
@[simp] theorem sendData_h (s : State) (m : BitVec 15) (a : Requester) (d : Coord) (b : Body) : (sendData s m a d b).h = s.h := rfl
@[simp] theorem sendData_agenda (s : State) (m : BitVec 15) (a : Requester) (d : Coord) (b : Body) : (sendData s m a d b).agenda = s.agenda := rfl
@[simp] theorem sendData_fresh (s : State) (m : BitVec 15) (a : Requester) (d : Coord) (b : Body) : (sendData s m a d b).fresh = s.fresh := rfl
@[simp] theorem say_tick (s : State) (a : Reply) : (say s a).tick = s.tick := by unfold say; split <;> rfl
@[simp] theorem say_r (s : State) (a : Reply) : (say s a).r = s.r := by unfold say; split <;> rfl
@[simp] theorem say_x (s : State) (a : Reply) : (say s a).x = s.x := by unfold say; split <;> rfl
@[simp] theorem say_f (s : State) (a : Reply) : (say s a).f = s.f := by unfold say; split <;> rfl
@[simp] theorem say_kn (s : State) (a : Reply) : (say s a).kn = s.kn := by unfold say; split <;> rfl
@[simp] theorem say_e (s : State) (a : Reply) : (say s a).e = s.e := by unfold say; split <;> rfl
@[simp] theorem say_m (s : State) (a : Reply) : (say s a).m = s.m := by unfold say; split <;> rfl
@[simp] theorem say_h (s : State) (a : Reply) : (say s a).h = s.h := by unfold say; split <;> rfl
@[simp] theorem say_agenda (s : State) (a : Reply) : (say s a).agenda = s.agenda := by unfold say; split <;> rfl
@[simp] theorem say_fresh (s : State) (a : Reply) : (say s a).fresh = s.fresh := by unfold say; split <;> rfl
@[simp] theorem clearBad_tick (s : State) (k n : Nat) : (clearBad s k n).tick = s.tick := rfl
@[simp] theorem clearBad_r (s : State) (k n : Nat) : (clearBad s k n).r = s.r := rfl
@[simp] theorem clearBad_x (s : State) (k n : Nat) : (clearBad s k n).x = s.x := rfl
@[simp] theorem clearBad_f (s : State) (k n : Nat) : (clearBad s k n).f = s.f := rfl
@[simp] theorem clearBad_kn (s : State) (k n : Nat) : (clearBad s k n).kn = s.kn := rfl
@[simp] theorem clearBad_e (s : State) (k n : Nat) : (clearBad s k n).e = s.e := rfl
@[simp] theorem clearBad_l (s : State) (k n : Nat) : (clearBad s k n).l = s.l := rfl
@[simp] theorem clearBad_c (s : State) (k n : Nat) : (clearBad s k n).c = s.c := rfl
@[simp] theorem clearBad_h (s : State) (k n : Nat) : (clearBad s k n).h = s.h := rfl
@[simp] theorem clearBad_agenda (s : State) (k n : Nat) : (clearBad s k n).agenda = s.agenda := rfl
@[simp] theorem clearBad_fresh (s : State) (k n : Nat) : (clearBad s k n).fresh = s.fresh := rfl
@[simp] theorem cacheHome_tick (s : State) (p : Nat) (a : Coord) : (cacheHome s p a).tick = s.tick := rfl
@[simp] theorem cacheHome_r (s : State) (p : Nat) (a : Coord) : (cacheHome s p a).r = s.r := rfl
@[simp] theorem cacheHome_x (s : State) (p : Nat) (a : Coord) : (cacheHome s p a).x = s.x := rfl
@[simp] theorem cacheHome_f (s : State) (p : Nat) (a : Coord) : (cacheHome s p a).f = s.f := rfl
@[simp] theorem cacheHome_kn (s : State) (p : Nat) (a : Coord) : (cacheHome s p a).kn = s.kn := rfl
@[simp] theorem cacheHome_e (s : State) (p : Nat) (a : Coord) : (cacheHome s p a).e = s.e := rfl
@[simp] theorem cacheHome_l (s : State) (p : Nat) (a : Coord) : (cacheHome s p a).l = s.l := rfl
@[simp] theorem cacheHome_c (s : State) (p : Nat) (a : Coord) : (cacheHome s p a).c = s.c := rfl
@[simp] theorem cacheHome_h (s : State) (p : Nat) (a : Coord) : (cacheHome s p a).h = s.h := rfl
@[simp] theorem cacheHome_agenda (s : State) (p : Nat) (a : Coord) : (cacheHome s p a).agenda = s.agenda := rfl
@[simp] theorem cacheHome_fresh (s : State) (p : Nat) (a : Coord) : (cacheHome s p a).fresh = s.fresh := rfl
@[simp] theorem setTurn_tick (s : State) (n : Nat) (t : BitVec 32) : (setTurn s n t).tick = s.tick := rfl
@[simp] theorem setTurn_r (s : State) (n : Nat) (t : BitVec 32) : (setTurn s n t).r = s.r := rfl
@[simp] theorem setTurn_x (s : State) (n : Nat) (t : BitVec 32) : (setTurn s n t).x = s.x := rfl
@[simp] theorem setTurn_f (s : State) (n : Nat) (t : BitVec 32) : (setTurn s n t).f = s.f := rfl
@[simp] theorem setTurn_kn (s : State) (n : Nat) (t : BitVec 32) : (setTurn s n t).kn = s.kn := rfl
@[simp] theorem setTurn_e (s : State) (n : Nat) (t : BitVec 32) : (setTurn s n t).e = s.e := rfl
@[simp] theorem setTurn_m (s : State) (n : Nat) (t : BitVec 32) : (setTurn s n t).m = s.m := rfl
@[simp] theorem setTurn_l (s : State) (n : Nat) (t : BitVec 32) : (setTurn s n t).l = s.l := rfl
@[simp] theorem setTurn_c (s : State) (n : Nat) (t : BitVec 32) : (setTurn s n t).c = s.c := rfl
@[simp] theorem setTurn_agenda (s : State) (n : Nat) (t : BitVec 32) : (setTurn s n t).agenda = s.agenda := rfl
@[simp] theorem setTurn_fresh (s : State) (n : Nat) (t : BitVec 32) : (setTurn s n t).fresh = s.fresh := rfl
@[simp] theorem heard_tick (s : State) (a : MsgHdr) : (heard s a).tick = s.tick := by unfold heard; split <;> rfl
@[simp] theorem heard_r (s : State) (a : MsgHdr) : (heard s a).r = s.r := by unfold heard; split <;> rfl
@[simp] theorem heard_x (s : State) (a : MsgHdr) : (heard s a).x = s.x := by unfold heard; split <;> rfl
@[simp] theorem heard_f (s : State) (a : MsgHdr) : (heard s a).f = s.f := by unfold heard; split <;> rfl
@[simp] theorem heard_kn (s : State) (a : MsgHdr) : (heard s a).kn = s.kn := by unfold heard; split <;> rfl
@[simp] theorem heard_e (s : State) (a : MsgHdr) : (heard s a).e = s.e := by unfold heard; split <;> rfl
@[simp] theorem heard_m (s : State) (a : MsgHdr) : (heard s a).m = s.m := by unfold heard; split <;> rfl
/-- The anchor tells no die that it has heard a message. -/
theorem heard_l (s : State) (a : MsgHdr) (h : dieNo s = 0) : (heard s a).l = s.l := by unfold heard; rw [if_pos h]; rfl
@[simp] theorem heard_c (s : State) (a : MsgHdr) : (heard s a).c = s.c := by unfold heard; split <;> rfl
@[simp] theorem heard_agenda (s : State) (a : MsgHdr) : (heard s a).agenda = s.agenda := by unfold heard; split <;> rfl
@[simp] theorem heard_fresh (s : State) (a : MsgHdr) : (heard s a).fresh = s.fresh := by unfold heard; split <;> rfl
@[simp] theorem dropPartials_tick (s : State) (p : Partial → Bool) : (dropPartials s p).tick = s.tick := rfl
@[simp] theorem dropPartials_r (s : State) (p : Partial → Bool) : (dropPartials s p).r = s.r := rfl
@[simp] theorem dropPartials_x (s : State) (p : Partial → Bool) : (dropPartials s p).x = s.x := rfl
@[simp] theorem dropPartials_f (s : State) (p : Partial → Bool) : (dropPartials s p).f = s.f := rfl
@[simp] theorem dropPartials_kn (s : State) (p : Partial → Bool) : (dropPartials s p).kn = s.kn := rfl
@[simp] theorem dropPartials_e (s : State) (p : Partial → Bool) : (dropPartials s p).e = s.e := rfl
@[simp] theorem dropPartials_m (s : State) (p : Partial → Bool) : (dropPartials s p).m = s.m := rfl
@[simp] theorem dropPartials_c (s : State) (p : Partial → Bool) : (dropPartials s p).c = s.c := rfl
@[simp] theorem dropPartials_h (s : State) (p : Partial → Bool) : (dropPartials s p).h = s.h := rfl
@[simp] theorem dropPartials_agenda (s : State) (p : Partial → Bool) : (dropPartials s p).agenda = s.agenda := rfl
@[simp] theorem dropPartials_fresh (s : State) (p : Partial → Bool) : (dropPartials s p).fresh = s.fresh := rfl
@[simp] theorem keepEarly_tick (s : State) (q : Contribution) : (keepEarly s q).tick = s.tick := rfl
@[simp] theorem keepEarly_r (s : State) (q : Contribution) : (keepEarly s q).r = s.r := rfl
@[simp] theorem keepEarly_x (s : State) (q : Contribution) : (keepEarly s q).x = s.x := rfl
@[simp] theorem keepEarly_f (s : State) (q : Contribution) : (keepEarly s q).f = s.f := rfl
@[simp] theorem keepEarly_kn (s : State) (q : Contribution) : (keepEarly s q).kn = s.kn := rfl
@[simp] theorem keepEarly_e (s : State) (q : Contribution) : (keepEarly s q).e = s.e := rfl
@[simp] theorem keepEarly_m (s : State) (q : Contribution) : (keepEarly s q).m = s.m := rfl
@[simp] theorem keepEarly_c (s : State) (q : Contribution) : (keepEarly s q).c = s.c := rfl
@[simp] theorem keepEarly_h (s : State) (q : Contribution) : (keepEarly s q).h = s.h := rfl
@[simp] theorem keepEarly_agenda (s : State) (q : Contribution) : (keepEarly s q).agenda = s.agenda := rfl
@[simp] theorem keepEarly_fresh (s : State) (q : Contribution) : (keepEarly s q).fresh = s.fresh := rfl
@[simp] theorem dropOld_tick (s : State) (g : Nat) (i : GroupId) : (dropOld s g i).tick = s.tick := rfl
@[simp] theorem dropOld_r (s : State) (g : Nat) (i : GroupId) : (dropOld s g i).r = s.r := rfl
@[simp] theorem dropOld_x (s : State) (g : Nat) (i : GroupId) : (dropOld s g i).x = s.x := rfl
@[simp] theorem dropOld_f (s : State) (g : Nat) (i : GroupId) : (dropOld s g i).f = s.f := rfl
@[simp] theorem dropOld_kn (s : State) (g : Nat) (i : GroupId) : (dropOld s g i).kn = s.kn := rfl
@[simp] theorem dropOld_e (s : State) (g : Nat) (i : GroupId) : (dropOld s g i).e = s.e := rfl
@[simp] theorem dropOld_m (s : State) (g : Nat) (i : GroupId) : (dropOld s g i).m = s.m := rfl
@[simp] theorem dropOld_c (s : State) (g : Nat) (i : GroupId) : (dropOld s g i).c = s.c := rfl
@[simp] theorem dropOld_h (s : State) (g : Nat) (i : GroupId) : (dropOld s g i).h = s.h := rfl
@[simp] theorem dropOld_agenda (s : State) (g : Nat) (i : GroupId) : (dropOld s g i).agenda = s.agenda := rfl
@[simp] theorem dropOld_fresh (s : State) (g : Nat) (i : GroupId) : (dropOld s g i).fresh = s.fresh := rfl
@[simp] theorem setPhase_tick (s : State) (n : Nat) (p : NvPhase) : (setPhase s n p).tick = s.tick := rfl
@[simp] theorem setPhase_r (s : State) (n : Nat) (p : NvPhase) : (setPhase s n p).r = s.r := rfl
@[simp] theorem setPhase_x (s : State) (n : Nat) (p : NvPhase) : (setPhase s n p).x = s.x := rfl
@[simp] theorem setPhase_f (s : State) (n : Nat) (p : NvPhase) : (setPhase s n p).f = s.f := rfl
@[simp] theorem setPhase_kn (s : State) (n : Nat) (p : NvPhase) : (setPhase s n p).kn = s.kn := rfl
@[simp] theorem setPhase_e (s : State) (n : Nat) (p : NvPhase) : (setPhase s n p).e = s.e := rfl
@[simp] theorem setPhase_m (s : State) (n : Nat) (p : NvPhase) : (setPhase s n p).m = s.m := rfl
@[simp] theorem setPhase_l (s : State) (n : Nat) (p : NvPhase) : (setPhase s n p).l = s.l := rfl
@[simp] theorem setPhase_c (s : State) (n : Nat) (p : NvPhase) : (setPhase s n p).c = s.c := rfl
@[simp] theorem setPhase_agenda (s : State) (n : Nat) (p : NvPhase) : (setPhase s n p).agenda = s.agenda := rfl
@[simp] theorem setPhase_fresh (s : State) (n : Nat) (p : NvPhase) : (setPhase s n p).fresh = s.fresh := rfl
@[simp] theorem relayTo_tick (s : State) (a : MsgHdr) (m : HostMsg) (n : BitVec 3) : (relayTo a m s n).tick = s.tick := rfl
@[simp] theorem relayTo_r (s : State) (a : MsgHdr) (m : HostMsg) (n : BitVec 3) : (relayTo a m s n).r = s.r := rfl
@[simp] theorem relayTo_x (s : State) (a : MsgHdr) (m : HostMsg) (n : BitVec 3) : (relayTo a m s n).x = s.x := rfl
@[simp] theorem relayTo_f (s : State) (a : MsgHdr) (m : HostMsg) (n : BitVec 3) : (relayTo a m s n).f = s.f := rfl
@[simp] theorem relayTo_kn (s : State) (a : MsgHdr) (m : HostMsg) (n : BitVec 3) : (relayTo a m s n).kn = s.kn := rfl
@[simp] theorem relayTo_e (s : State) (a : MsgHdr) (m : HostMsg) (n : BitVec 3) : (relayTo a m s n).e = s.e := rfl
@[simp] theorem relayTo_m (s : State) (a : MsgHdr) (m : HostMsg) (n : BitVec 3) : (relayTo a m s n).m = s.m := rfl
@[simp] theorem relayTo_c (s : State) (a : MsgHdr) (m : HostMsg) (n : BitVec 3) : (relayTo a m s n).c = s.c := rfl
@[simp] theorem relayTo_agenda (s : State) (a : MsgHdr) (m : HostMsg) (n : BitVec 3) : (relayTo a m s n).agenda = s.agenda := rfl
@[simp] theorem relayTo_fresh (s : State) (a : MsgHdr) (m : HostMsg) (n : BitVec 3) : (relayTo a m s n).fresh = s.fresh := rfl
@[simp] theorem setS_tick (s : State) (n : Nat) (v : W64) : (setS s n v).tick = s.tick := by
  unfold setS journalS; (repeat' split) <;> rfl
@[simp] theorem setS_x (s : State) (n : Nat) (v : W64) : (setS s n v).x = s.x := by
  unfold setS journalS; (repeat' split) <;> rfl
@[simp] theorem setS_kn (s : State) (n : Nat) (v : W64) : (setS s n v).kn = s.kn := by
  unfold setS journalS; (repeat' split) <;> rfl
@[simp] theorem setS_e (s : State) (n : Nat) (v : W64) : (setS s n v).e = s.e := by
  unfold setS journalS; (repeat' split) <;> rfl
@[simp] theorem setS_m (s : State) (n : Nat) (v : W64) : (setS s n v).m = s.m := by
  unfold setS journalS; (repeat' split) <;> rfl
@[simp] theorem setS_l (s : State) (n : Nat) (v : W64) : (setS s n v).l = s.l := by
  unfold setS journalS; (repeat' split) <;> rfl
@[simp] theorem setS_c (s : State) (n : Nat) (v : W64) : (setS s n v).c = s.c := by
  unfold setS journalS; (repeat' split) <;> rfl
@[simp] theorem setS_h (s : State) (n : Nat) (v : W64) : (setS s n v).h = s.h := by
  unfold setS journalS; (repeat' split) <;> rfl
@[simp] theorem setS_agenda (s : State) (n : Nat) (v : W64) : (setS s n v).agenda = s.agenda := by
  unfold setS journalS; (repeat' split) <;> rfl
@[simp] theorem setS_fresh (s : State) (n : Nat) (v : W64) : (setS s n v).fresh = s.fresh := by
  unfold setS journalS; (repeat' split) <;> rfl
@[simp] theorem setP_tick (s : State) (n : Nat) (b : Bool) : (setP s n b).tick = s.tick := by
  unfold setP journalP; (repeat' split) <;> rfl
@[simp] theorem setP_x (s : State) (n : Nat) (b : Bool) : (setP s n b).x = s.x := by
  unfold setP journalP; (repeat' split) <;> rfl
@[simp] theorem setP_kn (s : State) (n : Nat) (b : Bool) : (setP s n b).kn = s.kn := by
  unfold setP journalP; (repeat' split) <;> rfl
@[simp] theorem setP_e (s : State) (n : Nat) (b : Bool) : (setP s n b).e = s.e := by
  unfold setP journalP; (repeat' split) <;> rfl
@[simp] theorem setP_m (s : State) (n : Nat) (b : Bool) : (setP s n b).m = s.m := by
  unfold setP journalP; (repeat' split) <;> rfl
@[simp] theorem setP_l (s : State) (n : Nat) (b : Bool) : (setP s n b).l = s.l := by
  unfold setP journalP; (repeat' split) <;> rfl
@[simp] theorem setP_c (s : State) (n : Nat) (b : Bool) : (setP s n b).c = s.c := by
  unfold setP journalP; (repeat' split) <;> rfl
@[simp] theorem setP_h (s : State) (n : Nat) (b : Bool) : (setP s n b).h = s.h := by
  unfold setP journalP; (repeat' split) <;> rfl
@[simp] theorem setP_agenda (s : State) (n : Nat) (b : Bool) : (setP s n b).agenda = s.agenda := by
  unfold setP journalP; (repeat' split) <;> rfl
@[simp] theorem setP_fresh (s : State) (n : Nat) (b : Bool) : (setP s n b).fresh = s.fresh := by
  unfold setP journalP; (repeat' split) <;> rfl
@[simp] theorem setV_tick (s : State) (n : Nat) (v : Vec) : (setV s n v).tick = s.tick := by
  unfold setV journalV; (repeat' split) <;> rfl
@[simp] theorem setV_x (s : State) (n : Nat) (v : Vec) : (setV s n v).x = s.x := by
  unfold setV journalV; (repeat' split) <;> rfl
@[simp] theorem setV_kn (s : State) (n : Nat) (v : Vec) : (setV s n v).kn = s.kn := by
  unfold setV journalV; (repeat' split) <;> rfl
@[simp] theorem setV_e (s : State) (n : Nat) (v : Vec) : (setV s n v).e = s.e := by
  unfold setV journalV; (repeat' split) <;> rfl
@[simp] theorem setV_m (s : State) (n : Nat) (v : Vec) : (setV s n v).m = s.m := by
  unfold setV journalV; (repeat' split) <;> rfl
@[simp] theorem setV_l (s : State) (n : Nat) (v : Vec) : (setV s n v).l = s.l := by
  unfold setV journalV; (repeat' split) <;> rfl
@[simp] theorem setV_c (s : State) (n : Nat) (v : Vec) : (setV s n v).c = s.c := by
  unfold setV journalV; (repeat' split) <;> rfl
@[simp] theorem setV_h (s : State) (n : Nat) (v : Vec) : (setV s n v).h = s.h := by
  unfold setV journalV; (repeat' split) <;> rfl
@[simp] theorem setV_agenda (s : State) (n : Nat) (v : Vec) : (setV s n v).agenda = s.agenda := by
  unfold setV journalV; (repeat' split) <;> rfl
@[simp] theorem setV_fresh (s : State) (n : Nat) (v : Vec) : (setV s n v).fresh = s.fresh := by
  unfold setV journalV; (repeat' split) <;> rfl
@[simp] theorem setM_tick (s : State) (n : Nat) (v : MaskReg) : (setM s n v).tick = s.tick := by
  unfold setM journalM; (repeat' split) <;> rfl
@[simp] theorem setM_x (s : State) (n : Nat) (v : MaskReg) : (setM s n v).x = s.x := by
  unfold setM journalM; (repeat' split) <;> rfl
@[simp] theorem setM_kn (s : State) (n : Nat) (v : MaskReg) : (setM s n v).kn = s.kn := by
  unfold setM journalM; (repeat' split) <;> rfl
@[simp] theorem setM_e (s : State) (n : Nat) (v : MaskReg) : (setM s n v).e = s.e := by
  unfold setM journalM; (repeat' split) <;> rfl
@[simp] theorem setM_m (s : State) (n : Nat) (v : MaskReg) : (setM s n v).m = s.m := by
  unfold setM journalM; (repeat' split) <;> rfl
@[simp] theorem setM_l (s : State) (n : Nat) (v : MaskReg) : (setM s n v).l = s.l := by
  unfold setM journalM; (repeat' split) <;> rfl
@[simp] theorem setM_c (s : State) (n : Nat) (v : MaskReg) : (setM s n v).c = s.c := by
  unfold setM journalM; (repeat' split) <;> rfl
@[simp] theorem setM_h (s : State) (n : Nat) (v : MaskReg) : (setM s n v).h = s.h := by
  unfold setM journalM; (repeat' split) <;> rfl
@[simp] theorem setM_agenda (s : State) (n : Nat) (v : MaskReg) : (setM s n v).agenda = s.agenda := by
  unfold setM journalM; (repeat' split) <;> rfl
@[simp] theorem setM_fresh (s : State) (n : Nat) (v : MaskReg) : (setM s n v).fresh = s.fresh := by
  unfold setM journalM; (repeat' split) <;> rfl
@[simp] theorem setGen_tick (s : State) (n : Nat) (g : Gen) : (setGen s n g).tick = s.tick := by
  unfold setGen journalAG; (repeat' split) <;> rfl
@[simp] theorem setGen_x (s : State) (n : Nat) (g : Gen) : (setGen s n g).x = s.x := by
  unfold setGen journalAG; (repeat' split) <;> rfl
@[simp] theorem setGen_kn (s : State) (n : Nat) (g : Gen) : (setGen s n g).kn = s.kn := by
  unfold setGen journalAG; (repeat' split) <;> rfl
@[simp] theorem setGen_e (s : State) (n : Nat) (g : Gen) : (setGen s n g).e = s.e := by
  unfold setGen journalAG; (repeat' split) <;> rfl
@[simp] theorem setGen_m (s : State) (n : Nat) (g : Gen) : (setGen s n g).m = s.m := by
  unfold setGen journalAG; (repeat' split) <;> rfl
@[simp] theorem setGen_l (s : State) (n : Nat) (g : Gen) : (setGen s n g).l = s.l := by
  unfold setGen journalAG; (repeat' split) <;> rfl
@[simp] theorem setGen_c (s : State) (n : Nat) (g : Gen) : (setGen s n g).c = s.c := by
  unfold setGen journalAG; (repeat' split) <;> rfl
@[simp] theorem setGen_h (s : State) (n : Nat) (g : Gen) : (setGen s n g).h = s.h := by
  unfold setGen journalAG; (repeat' split) <;> rfl
@[simp] theorem setGen_agenda (s : State) (n : Nat) (g : Gen) : (setGen s n g).agenda = s.agenda := by
  unfold setGen journalAG; (repeat' split) <;> rfl
@[simp] theorem setGen_fresh (s : State) (n : Nat) (g : Gen) : (setGen s n g).fresh = s.fresh := by
  unfold setGen journalAG; (repeat' split) <;> rfl
@[simp] theorem setLoops_tick (s : State) (l : List Loop) : (setLoops s l).tick = s.tick := by
  unfold setLoops; (repeat' split) <;> rfl
@[simp] theorem setLoops_x (s : State) (l : List Loop) : (setLoops s l).x = s.x := by
  unfold setLoops; (repeat' split) <;> rfl
@[simp] theorem setLoops_kn (s : State) (l : List Loop) : (setLoops s l).kn = s.kn := by
  unfold setLoops; (repeat' split) <;> rfl
@[simp] theorem setLoops_e (s : State) (l : List Loop) : (setLoops s l).e = s.e := by
  unfold setLoops; (repeat' split) <;> rfl
@[simp] theorem setLoops_m (s : State) (l : List Loop) : (setLoops s l).m = s.m := by
  unfold setLoops; (repeat' split) <;> rfl
@[simp] theorem setLoops_l (s : State) (l : List Loop) : (setLoops s l).l = s.l := by
  unfold setLoops; (repeat' split) <;> rfl
@[simp] theorem setLoops_c (s : State) (l : List Loop) : (setLoops s l).c = s.c := by
  unfold setLoops; (repeat' split) <;> rfl
@[simp] theorem setLoops_h (s : State) (l : List Loop) : (setLoops s l).h = s.h := by
  unfold setLoops; (repeat' split) <;> rfl
@[simp] theorem setLoops_agenda (s : State) (l : List Loop) : (setLoops s l).agenda = s.agenda := by
  unfold setLoops; (repeat' split) <;> rfl
@[simp] theorem setLoops_fresh (s : State) (l : List Loop) : (setLoops s l).fresh = s.fresh := by
  unfold setLoops; (repeat' split) <;> rfl
@[simp] theorem setLsscl_tick (s : State) (v : BitVec 8) : (setLsscl s v).tick = s.tick := by
  unfold setLsscl; (repeat' split) <;> rfl
@[simp] theorem setLsscl_r (s : State) (v : BitVec 8) : (setLsscl s v).r = s.r := by
  unfold setLsscl; (repeat' split) <;> rfl
@[simp] theorem setLsscl_kn (s : State) (v : BitVec 8) : (setLsscl s v).kn = s.kn := by
  unfold setLsscl; (repeat' split) <;> rfl
@[simp] theorem setLsscl_e (s : State) (v : BitVec 8) : (setLsscl s v).e = s.e := by
  unfold setLsscl; (repeat' split) <;> rfl
@[simp] theorem setLsscl_m (s : State) (v : BitVec 8) : (setLsscl s v).m = s.m := by
  unfold setLsscl; (repeat' split) <;> rfl
@[simp] theorem setLsscl_l (s : State) (v : BitVec 8) : (setLsscl s v).l = s.l := by
  unfold setLsscl; (repeat' split) <;> rfl
@[simp] theorem setLsscl_c (s : State) (v : BitVec 8) : (setLsscl s v).c = s.c := by
  unfold setLsscl; (repeat' split) <;> rfl
@[simp] theorem setLsscl_h (s : State) (v : BitVec 8) : (setLsscl s v).h = s.h := by
  unfold setLsscl; (repeat' split) <;> rfl
@[simp] theorem setLsscl_agenda (s : State) (v : BitVec 8) : (setLsscl s v).agenda = s.agenda := by
  unfold setLsscl; (repeat' split) <;> rfl
@[simp] theorem setLsscl_fresh (s : State) (v : BitVec 8) : (setLsscl s v).fresh = s.fresh := by
  unfold setLsscl; (repeat' split) <;> rfl
@[simp] theorem setLscnt_tick (s : State) (v : BitVec 32) : (setLscnt s v).tick = s.tick := by
  unfold setLscnt; (repeat' split) <;> rfl
@[simp] theorem setLscnt_r (s : State) (v : BitVec 32) : (setLscnt s v).r = s.r := by
  unfold setLscnt; (repeat' split) <;> rfl
@[simp] theorem setLscnt_kn (s : State) (v : BitVec 32) : (setLscnt s v).kn = s.kn := by
  unfold setLscnt; (repeat' split) <;> rfl
@[simp] theorem setLscnt_e (s : State) (v : BitVec 32) : (setLscnt s v).e = s.e := by
  unfold setLscnt; (repeat' split) <;> rfl
@[simp] theorem setLscnt_m (s : State) (v : BitVec 32) : (setLscnt s v).m = s.m := by
  unfold setLscnt; (repeat' split) <;> rfl
@[simp] theorem setLscnt_l (s : State) (v : BitVec 32) : (setLscnt s v).l = s.l := by
  unfold setLscnt; (repeat' split) <;> rfl
@[simp] theorem setLscnt_c (s : State) (v : BitVec 32) : (setLscnt s v).c = s.c := by
  unfold setLscnt; (repeat' split) <;> rfl
@[simp] theorem setLscnt_h (s : State) (v : BitVec 32) : (setLscnt s v).h = s.h := by
  unfold setLscnt; (repeat' split) <;> rfl
@[simp] theorem setLscnt_agenda (s : State) (v : BitVec 32) : (setLscnt s v).agenda = s.agenda := by
  unfold setLscnt; (repeat' split) <;> rfl
@[simp] theorem setLscnt_fresh (s : State) (v : BitVec 32) : (setLscnt s v).fresh = s.fresh := by
  unfold setLscnt; (repeat' split) <;> rfl
@[simp] theorem setStky_tick (s : State) (v : BitVec 4) : (setStky s v).tick = s.tick := by
  unfold setStky; (repeat' split) <;> rfl
@[simp] theorem setStky_r (s : State) (v : BitVec 4) : (setStky s v).r = s.r := by
  unfold setStky; (repeat' split) <;> rfl
@[simp] theorem setStky_kn (s : State) (v : BitVec 4) : (setStky s v).kn = s.kn := by
  unfold setStky; (repeat' split) <;> rfl
@[simp] theorem setStky_e (s : State) (v : BitVec 4) : (setStky s v).e = s.e := by
  unfold setStky; (repeat' split) <;> rfl
@[simp] theorem setStky_m (s : State) (v : BitVec 4) : (setStky s v).m = s.m := by
  unfold setStky; (repeat' split) <;> rfl
@[simp] theorem setStky_l (s : State) (v : BitVec 4) : (setStky s v).l = s.l := by
  unfold setStky; (repeat' split) <;> rfl
@[simp] theorem setStky_c (s : State) (v : BitVec 4) : (setStky s v).c = s.c := by
  unfold setStky; (repeat' split) <;> rfl
@[simp] theorem setStky_h (s : State) (v : BitVec 4) : (setStky s v).h = s.h := by
  unfold setStky; (repeat' split) <;> rfl
@[simp] theorem setStky_agenda (s : State) (v : BitVec 4) : (setStky s v).agenda = s.agenda := by
  unfold setStky; (repeat' split) <;> rfl
@[simp] theorem setStky_fresh (s : State) (v : BitVec 4) : (setStky s v).fresh = s.fresh := by
  unfold setStky; (repeat' split) <;> rfl
@[simp] theorem setClaim_tick (s : State) (n : Nat) (b : Bool) : (setClaim s n b).tick = s.tick := by
  unfold setClaim; (repeat' split) <;> rfl
@[simp] theorem setClaim_x (s : State) (n : Nat) (b : Bool) : (setClaim s n b).x = s.x := by
  unfold setClaim; (repeat' split) <;> rfl
@[simp] theorem setClaim_kn (s : State) (n : Nat) (b : Bool) : (setClaim s n b).kn = s.kn := by
  unfold setClaim; (repeat' split) <;> rfl
@[simp] theorem setClaim_e (s : State) (n : Nat) (b : Bool) : (setClaim s n b).e = s.e := by
  unfold setClaim; (repeat' split) <;> rfl
@[simp] theorem setClaim_m (s : State) (n : Nat) (b : Bool) : (setClaim s n b).m = s.m := by
  unfold setClaim; (repeat' split) <;> rfl
@[simp] theorem setClaim_l (s : State) (n : Nat) (b : Bool) : (setClaim s n b).l = s.l := by
  unfold setClaim; (repeat' split) <;> rfl
@[simp] theorem setClaim_c (s : State) (n : Nat) (b : Bool) : (setClaim s n b).c = s.c := by
  unfold setClaim; (repeat' split) <;> rfl
@[simp] theorem setClaim_h (s : State) (n : Nat) (b : Bool) : (setClaim s n b).h = s.h := by
  unfold setClaim; (repeat' split) <;> rfl
@[simp] theorem setClaim_agenda (s : State) (n : Nat) (b : Bool) : (setClaim s n b).agenda = s.agenda := by
  unfold setClaim; (repeat' split) <;> rfl
@[simp] theorem setClaim_fresh (s : State) (n : Nat) (b : Bool) : (setClaim s n b).fresh = s.fresh := by
  unfold setClaim; (repeat' split) <;> rfl
@[simp] theorem setChain_tick (s : State) (n : Nat) (c : Option Chain) : (setChain s n c).tick = s.tick := by
  unfold setChain; (repeat' split) <;> rfl
@[simp] theorem setChain_x (s : State) (n : Nat) (c : Option Chain) : (setChain s n c).x = s.x := by
  unfold setChain; (repeat' split) <;> rfl
@[simp] theorem setChain_kn (s : State) (n : Nat) (c : Option Chain) : (setChain s n c).kn = s.kn := by
  unfold setChain; (repeat' split) <;> rfl
@[simp] theorem setChain_e (s : State) (n : Nat) (c : Option Chain) : (setChain s n c).e = s.e := by
  unfold setChain; (repeat' split) <;> rfl
@[simp] theorem setChain_m (s : State) (n : Nat) (c : Option Chain) : (setChain s n c).m = s.m := by
  unfold setChain; (repeat' split) <;> rfl
@[simp] theorem setChain_l (s : State) (n : Nat) (c : Option Chain) : (setChain s n c).l = s.l := by
  unfold setChain; (repeat' split) <;> rfl
@[simp] theorem setChain_c (s : State) (n : Nat) (c : Option Chain) : (setChain s n c).c = s.c := by
  unfold setChain; (repeat' split) <;> rfl
@[simp] theorem setChain_h (s : State) (n : Nat) (c : Option Chain) : (setChain s n c).h = s.h := by
  unfold setChain; (repeat' split) <;> rfl
@[simp] theorem setChain_agenda (s : State) (n : Nat) (c : Option Chain) : (setChain s n c).agenda = s.agenda := by
  unfold setChain; (repeat' split) <;> rfl
@[simp] theorem setChain_fresh (s : State) (n : Nat) (c : Option Chain) : (setChain s n c).fresh = s.fresh := by
  unfold setChain; (repeat' split) <;> rfl
@[simp] theorem setBindA_tick (s : State) (b : Binding) : (setBindA s b).tick = s.tick := by
  unfold setBindA; (repeat' split) <;> rfl
@[simp] theorem setBindA_x (s : State) (b : Binding) : (setBindA s b).x = s.x := by
  unfold setBindA; (repeat' split) <;> rfl
@[simp] theorem setBindA_kn (s : State) (b : Binding) : (setBindA s b).kn = s.kn := by
  unfold setBindA; (repeat' split) <;> rfl
@[simp] theorem setBindA_e (s : State) (b : Binding) : (setBindA s b).e = s.e := by
  unfold setBindA; (repeat' split) <;> rfl
@[simp] theorem setBindA_m (s : State) (b : Binding) : (setBindA s b).m = s.m := by
  unfold setBindA; (repeat' split) <;> rfl
@[simp] theorem setBindA_l (s : State) (b : Binding) : (setBindA s b).l = s.l := by
  unfold setBindA; (repeat' split) <;> rfl
@[simp] theorem setBindA_c (s : State) (b : Binding) : (setBindA s b).c = s.c := by
  unfold setBindA; (repeat' split) <;> rfl
@[simp] theorem setBindA_h (s : State) (b : Binding) : (setBindA s b).h = s.h := by
  unfold setBindA; (repeat' split) <;> rfl
@[simp] theorem setBindA_agenda (s : State) (b : Binding) : (setBindA s b).agenda = s.agenda := by
  unfold setBindA; (repeat' split) <;> rfl
@[simp] theorem setBindA_fresh (s : State) (b : Binding) : (setBindA s b).fresh = s.fresh := by
  unfold setBindA; (repeat' split) <;> rfl
@[simp] theorem setBindB_tick (s : State) (b : Binding) : (setBindB s b).tick = s.tick := by
  unfold setBindB; (repeat' split) <;> rfl
@[simp] theorem setBindB_x (s : State) (b : Binding) : (setBindB s b).x = s.x := by
  unfold setBindB; (repeat' split) <;> rfl
@[simp] theorem setBindB_kn (s : State) (b : Binding) : (setBindB s b).kn = s.kn := by
  unfold setBindB; (repeat' split) <;> rfl
@[simp] theorem setBindB_e (s : State) (b : Binding) : (setBindB s b).e = s.e := by
  unfold setBindB; (repeat' split) <;> rfl
@[simp] theorem setBindB_m (s : State) (b : Binding) : (setBindB s b).m = s.m := by
  unfold setBindB; (repeat' split) <;> rfl
@[simp] theorem setBindB_l (s : State) (b : Binding) : (setBindB s b).l = s.l := by
  unfold setBindB; (repeat' split) <;> rfl
@[simp] theorem setBindB_c (s : State) (b : Binding) : (setBindB s b).c = s.c := by
  unfold setBindB; (repeat' split) <;> rfl
@[simp] theorem setBindB_h (s : State) (b : Binding) : (setBindB s b).h = s.h := by
  unfold setBindB; (repeat' split) <;> rfl
@[simp] theorem setBindB_agenda (s : State) (b : Binding) : (setBindB s b).agenda = s.agenda := by
  unfold setBindB; (repeat' split) <;> rfl
@[simp] theorem setBindB_fresh (s : State) (b : Binding) : (setBindB s b).fresh = s.fresh := by
  unfold setBindB; (repeat' split) <;> rfl
@[simp] theorem setBars_tick (s : State) (b : Four Nat) : (setBars s b).tick = s.tick := by
  unfold setBars; (repeat' split) <;> rfl
@[simp] theorem setBars_r (s : State) (b : Four Nat) : (setBars s b).r = s.r := by
  unfold setBars; (repeat' split) <;> rfl
@[simp] theorem setBars_x (s : State) (b : Four Nat) : (setBars s b).x = s.x := by
  unfold setBars; (repeat' split) <;> rfl
@[simp] theorem setBars_kn (s : State) (b : Four Nat) : (setBars s b).kn = s.kn := by
  unfold setBars; (repeat' split) <;> rfl
@[simp] theorem setBars_e (s : State) (b : Four Nat) : (setBars s b).e = s.e := by
  unfold setBars; (repeat' split) <;> rfl
@[simp] theorem setBars_m (s : State) (b : Four Nat) : (setBars s b).m = s.m := by
  unfold setBars; (repeat' split) <;> rfl
@[simp] theorem setBars_l (s : State) (b : Four Nat) : (setBars s b).l = s.l := by
  unfold setBars; (repeat' split) <;> rfl
@[simp] theorem setBars_c (s : State) (b : Four Nat) : (setBars s b).c = s.c := by
  unfold setBars; (repeat' split) <;> rfl
@[simp] theorem setBars_h (s : State) (b : Four Nat) : (setBars s b).h = s.h := by
  unfold setBars; (repeat' split) <;> rfl
@[simp] theorem setBars_agenda (s : State) (b : Four Nat) : (setBars s b).agenda = s.agenda := by
  unfold setBars; (repeat' split) <;> rfl
@[simp] theorem setBars_fresh (s : State) (b : Four Nat) : (setBars s b).fresh = s.fresh := by
  unfold setBars; (repeat' split) <;> rfl

@[simp] theorem setUsed_tick (s : State) (l n : Nat) : (setUsed s l n).tick = s.tick := rfl
@[simp] theorem setUsed_r (s : State) (l n : Nat) : (setUsed s l n).r = s.r := rfl
@[simp] theorem setUsed_x (s : State) (l n : Nat) : (setUsed s l n).x = s.x := rfl
@[simp] theorem setUsed_f (s : State) (l n : Nat) : (setUsed s l n).f = s.f := rfl
@[simp] theorem setUsed_kn (s : State) (l n : Nat) : (setUsed s l n).kn = s.kn := rfl
@[simp] theorem setUsed_m (s : State) (l n : Nat) : (setUsed s l n).m = s.m := rfl
@[simp] theorem setUsed_l (s : State) (l n : Nat) : (setUsed s l n).l = s.l := rfl
@[simp] theorem setUsed_c (s : State) (l n : Nat) : (setUsed s l n).c = s.c := rfl
@[simp] theorem setUsed_h (s : State) (l n : Nat) : (setUsed s l n).h = s.h := rfl
@[simp] theorem setUsed_agenda (s : State) (l n : Nat) : (setUsed s l n).agenda = s.agenda := rfl
@[simp] theorem setUsed_fresh (s : State) (l n : Nat) : (setUsed s l n).fresh = s.fresh := rfl
@[simp] theorem setStage_tick (s : State) (id : Nat) (g : ReqStage) : (setStage s id g).tick = s.tick := rfl
@[simp] theorem setStage_r (s : State) (id : Nat) (g : ReqStage) : (setStage s id g).r = s.r := rfl
@[simp] theorem setStage_x (s : State) (id : Nat) (g : ReqStage) : (setStage s id g).x = s.x := rfl
@[simp] theorem setStage_f (s : State) (id : Nat) (g : ReqStage) : (setStage s id g).f = s.f := rfl
@[simp] theorem setStage_kn (s : State) (id : Nat) (g : ReqStage) : (setStage s id g).kn = s.kn := rfl
@[simp] theorem setStage_e (s : State) (id : Nat) (g : ReqStage) : (setStage s id g).e = s.e := rfl
@[simp] theorem setStage_l (s : State) (id : Nat) (g : ReqStage) : (setStage s id g).l = s.l := rfl
@[simp] theorem setStage_c (s : State) (id : Nat) (g : ReqStage) : (setStage s id g).c = s.c := rfl
@[simp] theorem setStage_h (s : State) (id : Nat) (g : ReqStage) : (setStage s id g).h = s.h := rfl
@[simp] theorem setStage_agenda (s : State) (id : Nat) (g : ReqStage) : (setStage s id g).agenda = s.agenda := rfl
@[simp] theorem setStage_fresh (s : State) (id : Nat) (g : ReqStage) : (setStage s id g).fresh = s.fresh := rfl
@[simp] theorem setPerformed_tick (s : State) (d : Coord) (c : BitVec 6) (n : Nat) : (setPerformed s d c n).tick = s.tick := rfl
@[simp] theorem setPerformed_r (s : State) (d : Coord) (c : BitVec 6) (n : Nat) : (setPerformed s d c n).r = s.r := rfl
@[simp] theorem setPerformed_x (s : State) (d : Coord) (c : BitVec 6) (n : Nat) : (setPerformed s d c n).x = s.x := rfl
@[simp] theorem setPerformed_f (s : State) (d : Coord) (c : BitVec 6) (n : Nat) : (setPerformed s d c n).f = s.f := rfl
@[simp] theorem setPerformed_kn (s : State) (d : Coord) (c : BitVec 6) (n : Nat) : (setPerformed s d c n).kn = s.kn := rfl
@[simp] theorem setPerformed_e (s : State) (d : Coord) (c : BitVec 6) (n : Nat) : (setPerformed s d c n).e = s.e := rfl
@[simp] theorem setPerformed_m (s : State) (d : Coord) (c : BitVec 6) (n : Nat) : (setPerformed s d c n).m = s.m := rfl
@[simp] theorem setPerformed_c (s : State) (d : Coord) (c : BitVec 6) (n : Nat) : (setPerformed s d c n).c = s.c := rfl
@[simp] theorem setPerformed_h (s : State) (d : Coord) (c : BitVec 6) (n : Nat) : (setPerformed s d c n).h = s.h := rfl
@[simp] theorem setPerformed_agenda (s : State) (d : Coord) (c : BitVec 6) (n : Nat) : (setPerformed s d c n).agenda = s.agenda := rfl
@[simp] theorem setPerformed_fresh (s : State) (d : Coord) (c : BitVec 6) (n : Nat) : (setPerformed s d c n).fresh = s.fresh := rfl
@[simp] theorem dropCmd_tick (s : State) (id : Nat) : (dropCmd s id).tick = s.tick := rfl
@[simp] theorem dropCmd_r (s : State) (id : Nat) : (dropCmd s id).r = s.r := rfl
@[simp] theorem dropCmd_x (s : State) (id : Nat) : (dropCmd s id).x = s.x := rfl
@[simp] theorem dropCmd_f (s : State) (id : Nat) : (dropCmd s id).f = s.f := rfl
@[simp] theorem dropCmd_kn (s : State) (id : Nat) : (dropCmd s id).kn = s.kn := rfl
@[simp] theorem dropCmd_m (s : State) (id : Nat) : (dropCmd s id).m = s.m := rfl
@[simp] theorem dropCmd_l (s : State) (id : Nat) : (dropCmd s id).l = s.l := rfl
@[simp] theorem dropCmd_c (s : State) (id : Nat) : (dropCmd s id).c = s.c := rfl
@[simp] theorem dropCmd_h (s : State) (id : Nat) : (dropCmd s id).h = s.h := rfl
@[simp] theorem dropCmd_agenda (s : State) (id : Nat) : (dropCmd s id).agenda = s.agenda := rfl
@[simp] theorem dropCmd_fresh (s : State) (id : Nat) : (dropCmd s id).fresh = s.fresh := rfl
@[simp] theorem takeBack_tick (s : State) (ids : List Nat) : (takeBack s ids).tick = s.tick := rfl
@[simp] theorem takeBack_r (s : State) (ids : List Nat) : (takeBack s ids).r = s.r := rfl
@[simp] theorem takeBack_x (s : State) (ids : List Nat) : (takeBack s ids).x = s.x := rfl
@[simp] theorem takeBack_f (s : State) (ids : List Nat) : (takeBack s ids).f = s.f := rfl
@[simp] theorem takeBack_kn (s : State) (ids : List Nat) : (takeBack s ids).kn = s.kn := rfl
@[simp] theorem takeBack_e (s : State) (ids : List Nat) : (takeBack s ids).e = s.e := rfl
@[simp] theorem takeBack_m (s : State) (ids : List Nat) : (takeBack s ids).m = s.m := rfl
@[simp] theorem takeBack_c (s : State) (ids : List Nat) : (takeBack s ids).c = s.c := rfl
@[simp] theorem takeBack_h (s : State) (ids : List Nat) : (takeBack s ids).h = s.h := rfl
@[simp] theorem takeBack_agenda (s : State) (ids : List Nat) : (takeBack s ids).agenda = s.agenda := rfl
@[simp] theorem takeBack_fresh (s : State) (ids : List Nat) : (takeBack s ids).fresh = s.fresh := rfl

/-! ### The fields of an update of the executing slot -/

@[simp] theorem setAct_act (s : State) (a : ScAct) : (setAct s a).f.cur.act = a := rfl
@[simp] theorem setAct_ctl (s : State) (a : ScAct) : (setAct s a).f.cur.ctl = s.f.cur.ctl := rfl
@[simp] theorem setCtl_ctl (s : State) (c : Ctl) : (setCtl s c).f.cur.ctl = c := rfl
@[simp] theorem setFe_fe (s : State) (a : Fe) : (setFe s a).f.fe = a := rfl
@[simp] theorem setFe_handler (s : State) (a : Fe) : (setFe s a).f.handler = s.f.handler := rfl
@[simp] theorem setCur_cur (s : State) (c : Cur) : (setCur s c).f.cur = c := rfl
@[simp] theorem setCells_cells (s : State) (c : List Host.Cell) : (setCells s c).m.cells = c := rfl
@[simp] theorem setFe_cells (s : State) (a : Fe) : (setFe s a).m.cells = s.m.cells := rfl
end Sys2Proof.Machine
end

