-- ==== Sys2Proof/Laws/Memory.lean ====
section
/-! SUPPORT. What the memory operations leave: every one keeps the canonical form, and the bytes it does not write; and the memory after reset. -/

namespace Sys2Proof.Machine

/-- A property of states that every round of a fold keeps holds behind it. -/
theorem foldl_keeps {α : Type} (P : State → Prop) (g : State → α → State) (h : ∀ s x, P s → P (g s x)) :
    ∀ (l : List α) (s : State), P s → P (l.foldl g s) := by
  intro l
  induction l with
  | nil => intro s hs; exact hs
  | cons x l ih => intro s hs; exact ih _ (h s x hs)
/-- The same of a write of two arguments that the round takes from its element. -/
theorem foldl_keeps_at {α β γ : Type} (P : State → Prop) (g : State → β → γ → State) (k : α → β) (v : α → γ) (h : ∀ s x y, P s → P (g s x y)) (l : List α) (s : State)
    (hs : P s) : P (l.foldl (fun s x => g s (k x) (v x)) s) := foldl_keeps P (fun s x => g s (k x) (v x)) (fun s x => h s (k x) (v x)) l s hs
/-- A fold whose rounds leave a part of the state alone leaves it alone. -/
theorem foldl_same {α β : Type} (p : State → β) (g : State → α → State) (h : ∀ s x, p (g s x) = p s) (l : List α) (s : State) :
    p (l.foldl g s) = p s := foldl_keeps (fun t => p t = p s) g (fun t x e => (h t x).trans e) l s rfl

/-! ### What leaves the cells alone -/

@[simp] theorem fillLine_cells (s : State) (k : Nat) : (fillLine s k).m.cells = s.m.cells := by unfold fillLine; split <;> rfl
@[simp] theorem setCount_cells (s : State) (d : Coord) (b n : Nat) : (setCount s d b n).m.cells = s.m.cells := rfl
@[simp] theorem countWrites_cells (s : State) (d : Coord) (b n : Nat) : (countWrites s d b n).m.cells = s.m.cells := rfl
@[simp] theorem meetPage_cells (s : State) (a : Nat) : (meetPage s a).m.cells = s.m.cells := by
  unfold meetPage bumpMigc setPage; repeat' split <;> try rfl
@[simp] theorem countAccess_cells (s : State) (p : Nat) (d : Coord) (n : Nat) : (countAccess s p d n).m.cells = s.m.cells := rfl
@[simp] theorem meetLoc_cells (s : State) (p : Piece) : (meetLoc s p).m.cells = s.m.cells := by
  unfold meetLoc; split
  · rfl
  · exact foldl_same (fun s => s.m.cells) _ (by rintro s ⟨i, a, m⟩; simp) _ _
@[simp] theorem countSector_cells (s : State) (b : Nat) (x : Sect) : (countSector s b x).m.cells = s.m.cells := by unfold countSector; split <;> rfl
@[simp] theorem readImage_cells : ∀ (n : Nat) (s : State) (a len : Nat), (readImage s a len n).m.cells = s.m.cells
  | 0, _, _, _ => rfl
  | n + 1, s, a, len => by
    unfold readImage
    repeat' split
    · rfl
    · rfl
    · simp [readImage_cells n]
@[simp] theorem readParts_cells (s : State) (r : Rec) (all : Bool) : (readParts s r all).m.cells = s.m.cells :=
  foldl_same (fun s => s.m.cells) _ (fun _ _ => readImage_cells _ _ _ _) _ _
@[simp] theorem fillDone_cells (s : State) (x : Sect) (segs : List (List Sect)) : (fillDone s x segs).m.cells = s.m.cells :=
  foldl_same (fun s => s.m.cells) _ (by intro s p; split <;> simp) _ _
@[simp] theorem setStage_cells (s : State) (id : Nat) (g : ReqStage) : (setStage s id g).m.cells = s.m.cells := rfl
@[simp] theorem removeReq_cells (s : State) (id : Nat) : (removeReq s id).m.cells = s.m.cells := rfl
@[simp] theorem putRuns_cells (s : State) (r : Req) (rs : List (Nat × Nat × Nat)) : (putRuns s r rs).m.cells = s.m.cells := by
  unfold putRuns; split <;> rfl
@[simp] theorem meetReq_cells (s : State) (r : Req) : (meetReq s r).m.cells = s.m.cells :=
  foldl_same (fun s => s.m.cells) _ (fun _ _ => by simp) _ _
@[simp] theorem passChecks_cells (s : State) (rs : List Req) : (passChecks s rs).m.cells = s.m.cells :=
  foldl_same (fun s => s.m.cells) _ (fun _ _ => by simp) _ _
@[simp] theorem clearBad_cells (s : State) (k n : Nat) : (clearBad s k n).m.cells = s.m.cells := rfl
@[simp] theorem cacheHome_cells (s : State) (p : Nat) (h : Coord) : (cacheHome s p h).m.cells = s.m.cells := rfl
@[simp] theorem learnPage_cells (s : State) (p : Nat) : (learnPage s p).m.cells = s.m.cells := by unfold learnPage; split <;> rfl
@[simp] theorem learnPlace_cells (s : State) (k : Nat) : (learnPlace s k).m.cells = s.m.cells := by
  unfold learnPlace; split
  · rfl
  · exact learnPage_cells _ _
theorem askHome_cells (s t : State) (k : Nat) (h : askHome s k = .next t) : t.m.cells = s.m.cells := by
  simp only [askHome, when] at h
  split at h
  · cases h; rfl
  · cases h
@[simp] theorem learnHome_cells (s : State) (r : Req) : (learnHome s r).m.cells = s.m.cells := learnPage_cells s _
@[simp] theorem answerPart_cells (s : State) (r : Req) (x : Nat) (last : Bool) : (answerPart s r x last).m.cells = s.m.cells := by
  unfold answerPart; repeat' split <;> try rfl
@[simp] theorem awaitAck_cells (s : State) (r : Req) (h : Coord) : (awaitAck s r h).m.cells = s.m.cells := by unfold awaitAck; split <;> rfl
@[simp] theorem countPerformed_cells (s : State) (r : Req) : (countPerformed s r).m.cells = s.m.cells := by
  unfold countPerformed; repeat' split <;> try rfl

/-! ### The canonical form -/

/-- Memory in the canonical form. -/
abbrev MemOk (s : State) : Prop := s.m.wf = true
theorem memOk_of_cells {s t : State} (h : t.m.cells = s.m.cells) (hs : MemOk s) : MemOk t := by
  unfold MemOk Mem.wf at *; rwa [h]
theorem reset_memOk : MemOk State.reset := rfl
theorem memOk_setCells (s : State) (c : List Host.Cell) (h : mapWf (0 : Byte) c = true) : MemOk (setCells s c) := h
theorem memOk_putBytes (s : State) (k : Nat) (bs : List Byte) (h : MemOk s) : MemOk (putBytes s k bs) := wf_writeBytes bs _ _ h
theorem performStore_cells (s : State) (k : Nat) (bs : List Byte) : (performStore s k bs).m.cells = writeBytes s.m.cells k bs :=
  foldl_same (fun s => s.m.cells) _ (fun _ _ => fillLine_cells _ _) _ _
theorem memOk_performStore (s : State) (k : Nat) (bs : List Byte) (h : MemOk s) : MemOk (performStore s k bs) := by
  unfold MemOk Mem.wf; rw [performStore_cells]; exact wf_writeBytes bs _ _ h
theorem performGate_cells (s : State) :
    (performGate s).m.cells = s.f.gate.foldl (fun c g => writeBytes c g.key g.bytes) s.m.cells := by
  unfold performGate
  simp only
  rw [foldl_same (fun s => s.m.cells) _ (fun _ _ => countWrites_cells _ _ _ _)]
  generalize s.f.gate = l
  induction l generalizing s with
  | nil => rfl
  | cons g l ih => simp only [List.foldl_cons, ih, performStore_cells]
theorem wf_foldl {α : Type} (g : List Host.Cell → α → List Host.Cell) (h : ∀ c x, mapWf (0 : Byte) c = true → mapWf (0 : Byte) (g c x) = true) :
    ∀ (l : List α) (c : List Host.Cell), mapWf (0 : Byte) c = true → mapWf (0 : Byte) (l.foldl g c) = true := by
  intro l
  induction l with
  | nil => intro c hc; exact hc
  | cons x l ih => intro c hc; exact ih _ (h c x hc)
theorem memOk_performGate (s : State) (h : MemOk s) : MemOk (performGate s) := by
  unfold MemOk Mem.wf; rw [performGate_cells]
  exact wf_foldl _ (fun c g hc => wf_writeBytes g.bytes c g.key hc) _ _ h
theorem memOk_setMark (s : State) (h : MemOk s) : MemOk (setMark s) := memOk_of_cells (s := performGate s) rfl (memOk_performGate s h)
theorem wf_putRecord (c : List Host.Cell) (k : Nat) (r : LatchRec) (h : mapWf (0 : Byte) c = true) : mapWf (0 : Byte) (putRecord c k r) = true :=
  wf_writeBytes _ _ _ (wf_writeBytes _ _ _ h)
theorem wf_putRecords (rs : List (LatchRec × Nat)) (c : List Host.Cell) (h : mapWf (0 : Byte) c = true) :
    mapWf (0 : Byte) (rs.foldl (fun c x => putRecord c x.2 x.1) c) = true :=
  wf_foldl (fun c (x : LatchRec × Nat) => putRecord c x.2 x.1) (fun c x hc => wf_putRecord c x.2 x.1 hc) _ _ h
theorem memOk_writeFrame (s : State) (i : TrapInfo) (b : Bool) (p : W64) (rs : List LatchRec) (h : MemOk s) : MemOk (writeFrame s i b p rs) :=
  memOk_of_cells (clearBad_cells _ _ _) (memOk_setCells s _ (wf_putRecords _ _ (wf_writeBytes _ _ _ (wf_zeroBytes _ _ _ h))))
theorem memOk_enterHandler (s : State) (i : TrapInfo) (b : Bool) (p : W64) (rs : List LatchRec) (h : MemOk s) : MemOk (enterHandler s i b p rs) :=
  memOk_of_cells (s := writeFrame s i b p rs) rfl (memOk_writeFrame s i b p rs h)
theorem memOk_engPut (s : State) (k : Nat) (b : Byte) (h : MemOk s) : MemOk (engPut s k b) := by
  unfold engPut
  simp only
  split
  · exact memOk_putBytes s _ _ h
  · exact h
theorem engPutElem_cells (s : State) (n i : Nat) (bs : List (Nat × Byte)) : (engPutElem s n i bs).m.cells = s.m.cells := by
  unfold engPutElem
  simp only
  split <;> rfl
theorem memOk_engPuts (s : State) (k : Nat) (bs : List Byte) (h : MemOk s) : MemOk (engPuts s k bs) := by
  unfold engPuts
  simp only
  split
  · exact foldl_keeps MemOk _ (fun s _ hs => memOk_of_cells (engPutElem_cells s _ _ _) hs) _ _ h
  · exact foldl_keeps MemOk _ (by rintro s ⟨b, i⟩ hs; exact memOk_engPut s _ b hs) _ _ h
/-- The parts of a sector are written. -/
theorem memOk_putParts (s : State) (ps : List (Piece × List Byte)) (h : MemOk s) : MemOk (ps.foldl (fun s p => engPuts s p.1.key p.2) s) :=
  foldl_keeps_at MemOk engPuts (fun p : Piece × List Byte => p.1.key) Prod.snd memOk_engPuts _ _ h
/-- Some bytes of a sector of registers are written ahead of the others. -/
theorem memOk_writeSome (s : State) (ps : List (Piece × List Byte)) (x : Sect) (h : MemOk s) : MemOk (writeSome s ps x) :=
  foldl_keeps_at MemOk engPut Prod.fst Prod.snd memOk_engPut _ _ (memOk_of_cells (s := s) rfl h)
/-- Pieces of a store to scratchpads perform. -/
theorem memOk_performPads (s : State) (d : List Byte) (rs : List (Nat × Nat × Nat)) (h : MemOk s) :
    MemOk (rs.foldl (fun s (i, k, n) => performStore s k ((d.drop i).take n)) s) :=
  foldl_keeps MemOk _ (by rintro s ⟨i, k, n⟩ hs; exact memOk_performStore s _ _ hs) _ _ h
/-- What the homes of a sector's parts count leaves memory alone. -/
theorem memOk_meetParts (s : State) (ps : List Piece) (h : MemOk s) : MemOk (ps.foldl meetLoc s) :=
  foldl_keeps MemOk _ (fun s p hs => memOk_of_cells (meetLoc_cells s p) hs) _ _ h
theorem memOk_writeRuns (s : State) (runs : List (Nat × Nat × Nat)) (d : List Byte) (h : MemOk s) : MemOk (writeRuns s runs d) :=
  foldl_keeps MemOk _ (by rintro s ⟨i, a, n⟩ hs; exact memOk_putBytes s _ _ hs) _ _ h
theorem memOk_writeUnder (s : State) (o : BitVec 16) (a : Nat) (bs : List Byte) (rs : List (Nat × Nat × Nat)) (h : MemOk s) :
    MemOk (writeUnder s o a bs rs) := by
  unfold writeUnder; split
  · exact memOk_putBytes _ _ _ (foldl_keeps MemOk _ (fun s _ hs => memOk_of_cells (s := s) (by simp) hs) _ _ h)
  · exact h
theorem memOk_writeStatus (s : State) (o : BitVec 16) (a : Nat) (bs : List Byte) (h : MemOk s) : MemOk (writeStatus s o a bs) :=
  memOk_writeUnder s o a bs _ h
theorem memOk_writeFlagPart (m : FlagMsg) (s : State) (p : Nat × Nat × Nat) (h : MemOk s) : MemOk (writeFlagPart m s p) := by
  unfold writeFlagPart
  simp only
  split
  · exact memOk_performStore _ _ _ h
  · exact memOk_putBytes _ _ _ (memOk_of_cells (s := s) (by simp) h)
theorem memOk_writeFlag (s : State) (m : FlagMsg) (h : MemOk s) : MemOk (writeFlag s m) :=
  foldl_keeps MemOk _ (fun s p hs => memOk_writeFlagPart m s p hs) _ _ h
theorem memOk_freshSpads (s : State) (cs : W64) (own : BitVec 6) (d : List Byte) (h : MemOk s) : MemOk (freshSpads s cs own d) :=
  memOk_setCells _ _ (wf_foldl _ (fun _ _ hc => wf_writeBytes _ _ _ hc) _ _ (wf_zeroBytes _ _ _ (wf_zeroBytes _ _ _ h)))
/-- A context that was saved in its canonical form comes back in it. -/
theorem wf_restored (s : State) (c : List Host.Cell) (h : MemOk s) (hc : SpadWf c) :
    mapWf (0 : Byte) (c ++ s.m.cells.filter fun a => spadSize ≤ a.1) = true :=
  wf_append _ _ spadSize hc.1 (mapWf_filter 0 _ _ h) hc.2 (by intro p hp; simpa using (List.mem_filter.mp hp).2)
/-- What is saved of the scratchpad is in its canonical form. -/
theorem spadWf_ownCells (s : State) (h : MemOk s) : SpadWf (ownCells s) :=
  ⟨mapWf_filter 0 _ _ h, by intro p hp; simpa using (List.mem_filter.mp hp).2⟩

/-! ### What is read behind a write -/

theorem readByte_putBytes (s : State) (k : Nat) (bs : List Byte) (j : Nat) :
    readByte (putBytes s k bs).m.cells j = if k ≤ j ∧ j < k + bs.length then bs.getD (j - k) 0 else readByte s.m.cells j :=
  readByte_writeBytes bs _ _ _
theorem readByte_performStore (s : State) (k : Nat) (bs : List Byte) (j : Nat) :
    readByte (performStore s k bs).m.cells j = if k ≤ j ∧ j < k + bs.length then bs.getD (j - k) 0 else readByte s.m.cells j := by
  rw [performStore_cells, readByte_writeBytes]
/-- The gate performs what the core saw. -/
theorem readByte_performGate (s : State) (k : Nat) : readByte (performGate s).m.cells k = (seenByte s k).1 := by
  rw [performGate_cells]
  unfold seenByte
  have key : ∀ (l : List GateStore) (c : List Host.Cell) (r : Byte × Bool), readByte c k = r.1 →
      readByte (l.foldl (fun c g => writeBytes c g.key g.bytes) c) k =
        (l.foldl (fun r g => if g.key ≤ k && k < g.key + g.bytes.length then (g.bytes.getD (k - g.key) 0, true) else r) r).1 := by
    intro l
    induction l with
    | nil => intro c r h; exact h
    | cons g l ih =>
      intro c r h
      simp only [List.foldl_cons]
      apply ih
      rw [readByte_writeBytes]
      by_cases hg : g.key ≤ k ∧ k < g.key + g.bytes.length
      · simp [hg]
      · rw [if_neg hg, if_neg (by simpa using hg)]; exact h
  exact key _ _ _ rfl

end Sys2Proof.Machine
end

