-- ==== Sys2Proof/Laws/Registers.lean ====
section
/-! SUPPORT. What a write of a register does, said once: the register, and that nothing else changes but the journal. -/

namespace Sys2Proof.Machine

/-- A write of a scalar register is a frame of the statements. -/
theorem wroteScalar_setS (s : State) (d : Nat) (v : W64) : WroteScalar s (setS s d v) d v := by
  unfold setS
  split
  · rename_i h; subst h
    exact ⟨fun n => by by_cases hn : n = 0 <;> simp [sreg, hn], rfl⟩
  · rename_i h
    constructor
    · intro n
      have hr : (journalS s d).r = s.r := by unfold journalS setJr; split <;> rfl
      simp only [sreg, hr, mapGet_mapPut]
      by_cases hn : n = 0
      · simp [hn]
      · by_cases hd : n = d <;> simp [hn, hd, h]
    · unfold journalS setJr; split <;> rfl
@[simp] theorem sreg_setS (s : State) (d : Nat) (v : W64) (n : Nat) :
    sreg (setS s d v) n = if n = d ∧ n ≠ 0 then v else sreg s n := (wroteScalar_setS s d v).1 n
@[simp] theorem preg_setS (s : State) (d : Nat) (v : W64) (n : Nat) : preg (setS s d v) n = preg s n := by
  rw [(wroteScalar_setS s d v).2]; rfl
/-- Writing what a scalar register holds anyway is a frame too. -/
theorem wroteScalar_refl (s : State) (d : Nat) : WroteScalar s s d (sreg s d) :=
  ⟨fun n => by by_cases h : n = d <;> simp [h]; , rfl⟩

theorem shiftOne_getLsbD (n i : Nat) : (1#64 <<< n).getLsbD i = (decide (i < 64) && decide (i = n)) := by
  by_cases h : i = n
  · subst h; by_cases hi : i < 64 <;> simp [hi]
  · by_cases hi : i < n
    · simp [hi, h]
    · have : ¬ i - n = 0 := by omega
      simp [hi, h, this]
/-- A write of a predicate is a frame of the statements. -/
theorem wrotePred_setP (s : State) (d : Nat) (b : Bool) : WrotePred s (setP s d b) d b := by
  unfold setP
  split
  · rename_i h; subst h
    exact ⟨fun n _ => by by_cases hn : n = 0 <;> simp [hn], rfl⟩
  · rename_i h
    have hr : (journalP s d).r = s.r := by unfold journalP setJr; split <;> rfl
    constructor
    · intro n hn
      simp only [preg, hr]
      by_cases h0 : n = 0
      · simp [h0]
      · by_cases hd : n = d
        · subst hd
          cases b <;> simp [h0, hn]
        · cases b <;> simp [h0, hd] <;> omega
    · unfold journalP setJr; split <;> rfl
theorem preg_setP (s : State) (d : Nat) (b : Bool) (n : Nat) (hn : n < 64) :
    preg (setP s d b) n = if n = d ∧ n ≠ 0 then b else preg s n := (wrotePred_setP s d b).1 n hn
@[simp] theorem sreg_setP (s : State) (d : Nat) (b : Bool) (n : Nat) : sreg (setP s d b) n = sreg s n := by
  rw [(wrotePred_setP s d b).2]; rfl
/-- Two frames of predicates in a row. -/
theorem wrotePreds_trans (s t u : State) (v w : Nat → Bool) (h1 : WrotePreds s t v) (h2 : WrotePreds t u w) : WrotePreds s u w := by
  refine ⟨h2.1, ?_⟩
  rw [h2.2, h1.2]

@[simp] theorem vreg_setV (s : State) (d : Nat) (x : Vec) (n : Nat) : vreg (setV s d x) n = if n = d then x else vreg s n := by
  have hr : (journalV s d).r = s.r := by unfold journalV setJr; split <;> rfl
  simp only [setV, vreg, hr, mapGet_mapPut]
@[simp] theorem mreg_setM (s : State) (d : Nat) (x : MaskReg) (n : Nat) : mreg (setM s d x) n = if n = d then x else mreg s n := by
  have hr : (journalM s d).r = s.r := by unfold journalM setJr; split <;> rfl
  simp only [setM, mreg, hr, mapGet_mapPut]
@[simp] theorem gen_setGen (s : State) (d : Nat) (g : Gen) (n : Nat) : gen (setGen s d g) n = if n = d then g else gen s n := by
  have hr : (journalAG s d).r = s.r := by unfold journalAG setJr; split <;> rfl
  simp only [setGen, gen, hr, mapGet_mapPut]
@[simp] theorem acc_setAcc (s : State) (d : Nat) (x : AccImg) (n : Nat) : acc (setAcc s d x) n = if n = d then x else acc s n := by
  simp [setAcc, acc, mapGet_mapPut]
@[simp] theorem oslot_setO (s : State) (d : Nat) (x : OpImg) (n : Nat) : oslot (setO s d x) n = if n = d then x else oslot s n := by
  simp [setO, oslot, mapGet_mapPut]
@[simp] theorem token_setTok (s : State) (d : Nat) (x : Token) (n : Nat) : token (setTok s d x) n = if n = d then x else token s n := by
  simp [setTok, token, mapGet_mapPut]
@[simp] theorem bobbin_setBB (s : State) (d : Nat) (x : Bobbin) (n : Nat) : bobbin (setBB s d x) n = if n = d then x else bobbin s n := by
  simp [setBB, bobbin, mapGet_mapPut]
@[simp] theorem stream_setW (s : State) (d : Nat) (x : List Vec) (n : Nat) : stream (setW s d x) n = if n = d then x else stream s n := by
  simp [setW, stream, mapGet_mapPut]
@[simp] theorem codebook_setCB (s : State) (d : Nat) (x : BitVec 2048) (n : Nat) : codebook (setCB s d x) n = if n = d then x else codebook s n := by
  simp [setCB, codebook, mapGet_mapPut]
@[simp] theorem knots_setKN (s : State) (d : Nat) (x : BitVec 128) (n : Nat) : knots (setKN s d x) n = if n = d then x else knots s n := by
  simp [setKN, knots, mapGet_mapPut]
@[simp] theorem ec_setEc (s : State) (d : Nat) (x : W64) (n : Nat) : ec (setEc s d x) n = if n = d then x else ec s n := by
  simp [setEc, ec, mapGet_mapPut]
@[simp] theorem port_setPort (s : State) (d : Nat) (p : Port) (n : Nat) : port (setPort s d p) n = if n = d then p else port s n := by
  simp [setPort, port, mapGet_mapIns]
@[simp] theorem range_setRange (s : State) (d : Nat) (g : Range) (n : Nat) : range (setRange s d g) n = if n = d then g else range s n := by
  simp [setRange, range, mapGet_mapPut]
theorem mapFind_mapIns {α : Type} (m : Map α) (n : Nat) (x : α) (k : Nat) :
    mapFind (mapIns m n x) k = if k = n then some x else mapFind m k := by
  have h : ∀ (m : Map α) (j : Nat), mapFind m j = mapGet none (m.map fun p => (p.1, some p.2)) j := by
    intro m j
    induction m with
    | nil => rfl
    | cons p m ih => obtain ⟨i, y⟩ := p; simp [mapFind, mapGet, ih]
  have h2 : (mapIns m n x).map (fun p => (p.1, some p.2)) = mapIns (m.map fun p => (p.1, some p.2)) n (some x) := by
    induction m with
    | nil => rfl
    | cons p m ih => obtain ⟨i, y⟩ := p; simp only [mapIns, List.map_cons]; repeat' split <;> simp_all
  rw [h, h2, mapGet_mapIns, h]
theorem mapFind_mapErase {α : Type} (m : Map α) (n k : Nat) : mapFind (mapErase m n) k = if k = n then none else mapFind m k := by
  induction m with
  | nil => simp [mapErase, mapFind]
  | cons p m ih =>
    obtain ⟨j, x⟩ := p
    simp only [mapErase] at ih ⊢
    by_cases hj : j = n <;> by_cases hk : k = n <;> by_cases hjk : j = k <;> simp_all [mapFind]
@[simp] theorem chain_setChain (s : State) (d : Nat) (c : Option Chain) (n : Nat) : chain (setChain s d c) n = if n = d then c else chain s n := by
  unfold setChain
  cases c <;> simp only [chain] <;> split <;> simp only [setJr, mapFind_mapErase, mapFind_mapIns]

end Sys2Proof.Machine
end

