-- ==== Sys2Proof/Laws/Scalar.lean ====
section
/-! SUPPORT. The scalar operations of 03 R65 as functions of numbers: one lemma for each operation. -/

namespace Sys2Proof.Machine

/-- A scalar instruction whose result goes to S[D] completes in the frame of a scalar write. -/
theorem toS_completes (s : State) (d : BitVec 8) (x y : W64) (h : s.f.cur.q = true) (e : x = y) :
    ∃ t, toS s d x = .next t ∧ WroteScalar s t d.toNat y :=
  ⟨setS s d.toNat x, by simp [toS, ifQ, h], by rw [e]; exact wroteScalar_setS s _ _⟩
/-- Where q is false, such an instruction changes nothing. -/
theorem toS_false (s : State) (d : BitVec 8) (x : W64) (h : s.f.cur.q = false) : toS s d x = .next s := by simp [toS, ifQ, h]
theorem toP_completes (s : State) (d : BitVec 8) (b : Bool) (h : s.f.cur.q = true) :
    ∃ t, toP s d b = .next t ∧ WrotePred s t d.toNat b := ⟨_, by simp [toP, ifQ, h], wrotePred_setP s _ _⟩

/-- An ALU operation that is a signed function at each width gives the signed result. -/
theorem alu_signed (o : RRR) (op : (w : Nat) → BitVec w → BitVec w → BitVec w) (f : Nat → Int → Int → Int) (a b : W64)
    (h : ∀ w, w = 32 ∨ w = 64 → ∀ x y : BitVec w, op w x y = BitVec.ofInt w (f w x.toInt y.toInt)) :
    alu o.ef op a b = signedWord o f a b := by
  unfold alu signedWord; split
  · rw [h 32 (.inl rfl)]
  · rw [h 64 (.inr rfl)]
theorem alu_unsigned (o : RRR) (op : (w : Nat) → BitVec w → BitVec w → BitVec w) (f : Nat → Nat → Nat → Nat) (a b : W64)
    (h : ∀ w, w = 32 ∨ w = 64 → ∀ x y : BitVec w, op w x y = BitVec.ofNat w (f w x.toNat y.toNat)) :
    alu o.ef op a b = unsignedWord o f a b := by
  unfold alu unsignedWord; split
  · rw [h 32 (.inl rfl)]
  · rw [h 64 (.inr rfl)]

theorem emod_sq_ediv (x m : Int) (hm : 0 < m) : x % (m * m) / m % m = x / m % m := by
  rw [Int.emod_def x (m * m), mul_assoc, sub_eq_add_neg, ← mul_neg, Int.add_mul_ediv_left _ _ hm.ne', ← mul_neg, Int.add_mul_emod_self_left]
theorem opMulh_eq (w : Nat) (a b : BitVec w) : opMulh w a b = BitVec.ofInt w (a.toInt * b.toInt / 2 ^ w) := by
  have h2 : ((2 : Int) ^ (2 * w)) = 2 ^ w * 2 ^ w := by rw [← pow_add]; congr 1; omega
  have hp : (0 : Int) < 2 ^ w := by positivity
  unfold opMulh
  rw [BitVec.signExtend, BitVec.signExtend, ← BitVec.ofInt_mul]
  apply BitVec.eq_of_toNat_eq
  simp only [BitVec.extractLsb'_toNat, BitVec.toNat_ofInt, Nat.shiftRight_eq_div_pow]
  zify
  rw [h2, Int.toNat_of_nonneg (Int.emod_nonneg _ (by positivity)), Int.toNat_of_nonneg (Int.emod_nonneg _ (by positivity))]
  exact emod_sq_ediv _ _ hp
theorem ofInt_toInt_min (w : Nat) (a b : BitVec w) : opMin w a b = BitVec.ofInt w (min a.toInt b.toInt) := by
  unfold opMin; rw [BitVec.slt_eq_decide]
  by_cases h : a.toInt < b.toInt
  · simp [h, min_eq_left h.le]
  · simp [h, min_eq_right (not_lt.mp h)]
theorem ofInt_toInt_max (w : Nat) (a b : BitVec w) : opMax w a b = BitVec.ofInt w (max a.toInt b.toInt) := by
  unfold opMax; rw [BitVec.slt_eq_decide]
  by_cases h : a.toInt < b.toInt
  · simp [h, max_eq_right h.le]
  · simp [h, max_eq_left (not_lt.mp h)]
theorem opAbs_eq (w : Nat) (a b : BitVec w) : opAbs w a b = BitVec.ofInt w |a.toInt| := by
  unfold opAbs; rw [BitVec.msb_eq_toInt]
  by_cases h : a.toInt < 0
  · simp [h, abs_of_neg h, BitVec.ofInt_neg]
  · simp [h, abs_of_nonneg (not_lt.mp h)]
theorem shadd_eq (w n : Nat) (a b : BitVec w) : (a <<< n) + b = BitVec.ofInt w (a.toInt * 2 ^ n + b.toInt) := by
  rw [BitVec.ofInt_add, BitVec.ofInt_mul, BitVec.ofInt_toInt, BitVec.ofInt_toInt]
  congr 1
  have : BitVec.ofInt w (2 ^ n) = BitVec.ofNat w (2 ^ n) := by
    rw [← BitVec.ofInt_natCast]; push_cast; rfl
  rw [this, BitVec.shiftLeft_eq_mul_twoPow]
  congr 1
  apply BitVec.eq_of_toNat_eq
  rw [BitVec.toNat_twoPow, BitVec.toNat_ofNat]
theorem opDiv_eq (w : Nat) (a b : BitVec w) : opDiv w a b = BitVec.ofInt w (if b.toInt = 0 then -1 else a.toInt.tdiv b.toInt) := by
  unfold opDiv
  have hb : b = 0 ↔ b.toInt = 0 := by
    constructor
    · rintro rfl; simp
    · intro h; apply BitVec.eq_of_toInt_eq; simpa using h
  by_cases h : b = 0
  · rw [if_pos h, if_pos (hb.mp h)]; simp [BitVec.neg_one_eq_allOnes, BitVec.ofInt_neg]
  · rw [if_neg h, if_neg (fun e => h (hb.mpr e))]
    apply BitVec.eq_of_toInt_eq
    rw [BitVec.toInt_sdiv, BitVec.toInt_ofInt]
theorem opRem_eq (w : Nat) (a b : BitVec w) :
    opRem w a b = BitVec.ofInt w (if b.toInt = 0 then a.toInt else a.toInt - b.toInt * a.toInt.tdiv b.toInt) := by
  unfold opRem
  have hb : b = 0 ↔ b.toInt = 0 := by
    constructor
    · rintro rfl; simp
    · intro h; apply BitVec.eq_of_toInt_eq; simpa using h
  by_cases h : b = 0
  · rw [if_pos h, if_pos (hb.mp h)]; simp
  · rw [if_neg h, if_neg (fun e => h (hb.mpr e)), ← Int.tmod_def]
    apply BitVec.eq_of_toInt_eq
    rw [← BitVec.toInt_srem, BitVec.ofInt_toInt]
theorem opDivu_eq (w : Nat) (a b : BitVec w) : opDivu w a b = BitVec.ofNat w (if b.toNat = 0 then 2 ^ w - 1 else a.toNat / b.toNat) := by
  unfold opDivu
  have hb : b = 0 ↔ b.toNat = 0 := ⟨fun e => by simp [e], fun e => BitVec.eq_of_toNat_eq (by simpa using e)⟩
  by_cases h : b = 0
  · rw [if_pos h, if_pos (hb.mp h)]; apply BitVec.eq_of_toNat_eq; simp
  · rw [if_neg h, if_neg (fun e => h (hb.mpr e))]; apply BitVec.eq_of_toNat_eq
    simp only [BitVec.toNat_udiv, BitVec.toNat_ofNat, BitVec.udiv_eq]
    exact (Nat.mod_eq_of_lt (lt_of_le_of_lt (Nat.div_le_self _ _) a.isLt)).symm
theorem opRemu_eq (w : Nat) (a b : BitVec w) :
    opRemu w a b = BitVec.ofNat w (if b.toNat = 0 then a.toNat else a.toNat - b.toNat * (a.toNat / b.toNat)) := by
  unfold opRemu
  have hb : b = 0 ↔ b.toNat = 0 := ⟨fun e => by simp [e], fun e => BitVec.eq_of_toNat_eq (by simpa using e)⟩
  by_cases h : b = 0
  · rw [if_pos h, if_pos (hb.mp h)]; simp
  · rw [if_neg h, if_neg (fun e => h (hb.mpr e))]; apply BitVec.eq_of_toNat_eq
    have : a.toNat - b.toNat * (a.toNat / b.toNat) = a.toNat % b.toNat := by
      have := Nat.div_add_mod a.toNat b.toNat; omega
    rw [this]
    simp only [BitVec.toNat_umod, BitVec.toNat_ofNat, BitVec.umod_eq]
    exact (Nat.mod_eq_of_lt (lt_of_le_of_lt (Nat.mod_le _ _) a.isLt)).symm
theorem opMinu_eq (w : Nat) (a b : BitVec w) : opMinu w a b = BitVec.ofNat w (min a.toNat b.toNat) := by
  unfold opMinu; rw [BitVec.ult]
  by_cases h : a.toNat < b.toNat
  · simp [h, min_eq_left h.le]
  · simp [h, min_eq_right (not_lt.mp h)]
theorem opMaxu_eq (w : Nat) (a b : BitVec w) : opMaxu w a b = BitVec.ofNat w (max a.toNat b.toNat) := by
  unfold opMaxu; rw [BitVec.ult]
  by_cases h : a.toNat < b.toNat
  · simp [h, max_eq_right h.le]
  · simp [h, max_eq_left (not_lt.mp h)]
theorem popN_eq (n : Nat) : ∀ x : Nat, popN n x = (List.range n).countP x.testBit := by
  induction n with
  | zero => intro x; rfl
  | succ n ih =>
    intro x
    rw [popN, ih, List.range_succ_eq_map, List.countP_cons, List.countP_map, add_comm]
    congr 1
    · congr 1; funext i; simp [Nat.testBit_succ]
    · simp only [Nat.testBit_zero, decide_eq_true_eq]; split <;> omega
theorem clz_eq (w : Nat) (a b : BitVec w) : opClz w a b = BitVec.ofNat w (w - a.toNat.size) := by
  unfold opClz
  by_cases h : a = 0
  · simp [h]
  · rw [if_neg h]
    have h0 : a.toNat ≠ 0 := fun e => h (BitVec.eq_of_toNat_eq (by simpa using e))
    have : a.toNat.size = Nat.log2 a.toNat + 1 := by
      apply le_antisymm
      · exact Nat.size_le.mpr ((Nat.log2_lt h0).mp (Nat.lt_succ_self _))
      · exact Nat.lt_size.mpr (Nat.log2_self_le h0)
    rw [this]; congr 1; omega
theorem ctzN_eq (n : Nat) : ∀ x : Nat, x < 2 ^ n → ctzN n x = if x = 0 then n else padicValNat 2 x := by
  induction n with
  | zero => intro x h; simp at h; simp [ctzN, h]
  | succ n ih =>
    intro x h
    rw [ctzN]
    split
    · rename_i h1
      rw [if_neg (by omega), padicValNat.eq_zero_of_not_dvd (by omega)]
    · rename_i h1
      rw [ih (x / 2) (by rw [pow_succ] at h; omega)]
      by_cases h0 : x = 0
      · subst h0; simp; omega
      · rw [if_neg (by omega), if_neg h0]
        have hx : x = 2 * (x / 2) := by omega
        conv_rhs => rw [hx]
        rw [padicValNat.mul (by norm_num) (by omega), padicValNat.self (by norm_num)]

end Sys2Proof.Machine
end

