-- ==== Sys2Proof/Tests/Slice0.lean ====
section
/-! SUPPORT. Tests, each a named theorem about one step or one word.

Slots written out from the encoding tables of 02 decode to the instruction they stand for, and back. Ill-formed terms, one for each check, are refused. Results
are those that the rules named beside them give; witnesses show states that meet the hypotheses of the statements. -/

namespace Sys2Proof.Tests
open Sys2Proof Sys2Proof.Machine

-- One test after another: many at once take more memory than the check allows.
set_option Elab.async false

/-- 02 R44, 01 R15, R20: words written out from the opcode map and the layouts. -/
theorem test_decode_scalar_1 : ∀ x ∈ ([
  (0x8036050607009003, ⟨true, 0, false, false, .shadd ⟨5, 6, 7, 0, 0x9003⟩⟩),
  (0x0001058123456789, ⟨false, 0, false, false, .movi ⟨5, 0x8123456789⟩⟩),
  (0x96400C98A0C0E000, ⟨true, 11, false, false, .cmp ⟨3, 9, 4, 5, 6, 7, 0⟩⟩),
  (0x0002050689ABCDEF, ⟨false, 0, false, false, .movhi ⟨5, 6, 0x89abcdef⟩⟩),
  (0x81410C9C40DFFFFB, ⟨true, 0, true, false, .cmpi ⟨3, 9, 6, 2, 6, 0x1ffffb⟩⟩),
  (0x1610050607008000, ⟨false, 11, false, false, .add ⟨5, 6, 7, 0, 0x8000⟩⟩),
  (0x80420C98A0C0E000, ⟨true, 0, false, false, .cmpu ⟨3, 9, 4, 5, 6, 7, 0⟩⟩),
  (0x0011050607008000, ⟨false, 0, false, false, .sub ⟨5, 6, 7, 0, 0x8000⟩⟩),
  (0x96430C9C40DFFFFB, ⟨true, 11, false, false, .cmpui ⟨3, 9, 6, 2, 6, 0x1ffffb⟩⟩),
  (0x0112050607008000, ⟨false, 0, true, false, .mul ⟨5, 6, 7, 0, 0x8000⟩⟩),
  (0x8044050607000000, ⟨true, 0, false, false, .pand ⟨5, 6, 7, 0, 0⟩⟩),
  (0x1613050607008000, ⟨false, 11, false, false, .mulh ⟨5, 6, 7, 0, 0x8000⟩⟩),
  (0x8045050607000000, ⟨true, 0, false, false, .por ⟨5, 6, 7, 0, 0⟩⟩),
  (0x0014050689ABCDEF, ⟨false, 0, false, false, .addi ⟨5, 6, 0x89abcdef⟩⟩),
  (0x9746050607000000, ⟨true, 11, true, false, .pxor ⟨5, 6, 7, 0, 0⟩⟩),
  (0x0015050689ABCDEF, ⟨false, 0, false, false, .muli ⟨5, 6, 0x89abcdef⟩⟩),
  (0x8047050607000000, ⟨true, 0, false, false, .pandn ⟨5, 6, 7, 0, 0⟩⟩),
  (0x1616050607008000, ⟨false, 11, false, false, .div ⟨5, 6, 7, 0, 0x8000⟩⟩),
  (0x8048000607000000, ⟨true, 0, false, false, .movsp ⟨0, 6, 7, 0, 0⟩⟩),
  (0x0117050607008000, ⟨false, 0, true, false, .divu ⟨5, 6, 7, 0, 0x8000⟩⟩),
  (0x9649050000000000, ⟨true, 11, false, false, .movps ⟨5, 0, 0, 0, 0⟩⟩),
  (0x0018050607008000, ⟨false, 0, false, false, .rem ⟨5, 6, 7, 0, 0x8000⟩⟩),
  (0x8050050000000012, ⟨true, 0, false, false, .mfsr ⟨5, 0, 0x12⟩⟩),
  (0x1619050607008000, ⟨false, 11, false, false, .remu ⟨5, 6, 7, 0, 0x8000⟩⟩)] : List (BitVec 64 × SlotWord)),
    decodeSlot 3 0 x.1 = .ok x.2 ∧ encodeSlot x.2 = some x.1 := by decide
/-- 02 R44, 01 R15, R20: words written out from the opcode map and the layouts. -/
theorem test_decode_scalar_2 : ∀ x ∈ ([
  (0x815100060000004F, ⟨true, 0, true, false, .mtsr ⟨0, 6, 0x4f⟩⟩),
  (0x001A050607008000, ⟨false, 0, false, false, .min ⟨5, 6, 7, 0, 0x8000⟩⟩),
  (0x9652050200000000, ⟨true, 11, false, false, .rdli ⟨5, 2, 0, 0, 0⟩⟩),
  (0x001B050607008000, ⟨false, 0, false, false, .max ⟨5, 6, 7, 0, 0x8000⟩⟩),
  (0x8053050600000009, ⟨true, 0, false, false, .mtag ⟨5, 6, 0, 0, 9⟩⟩),
  (0x171C050607008000, ⟨false, 11, true, false, .minu ⟨5, 6, 7, 0, 0x8000⟩⟩),
  (0x8054050600000005, ⟨true, 0, false, false, .mfag ⟨5, 6, 0, 0, 5⟩⟩),
  (0x001D050607008000, ⟨false, 0, false, false, .maxu ⟨5, 6, 7, 0, 0x8000⟩⟩),
  (0x9655050600000005, ⟨true, 11, false, false, .mtbb ⟨5, 6, 0, 0, 5⟩⟩),
  (0x001E050607089000, ⟨false, 0, false, false, .sel ⟨5, 6, 7, 8, 0x9000⟩⟩),
  (0x8156050600000004, ⟨true, 0, true, false, .mfbb ⟨5, 6, 0, 0, 4⟩⟩),
  (0x161F050600009000, ⟨false, 11, false, false, .abs ⟨5, 6, 0, 0, 0x9000⟩⟩),
  (0x806000FFFFFFFFFE, ⟨true, 0, false, false, .br ⟨0, 0xfffffffffe⟩⟩),
  (0x0020050607009000, ⟨false, 0, false, false, .and ⟨5, 6, 7, 0, 0x9000⟩⟩),
  (0x966109FFFFFFFFFE, ⟨true, 11, false, false, .call ⟨9, 0xfffffffffe⟩⟩),
  (0x0121050607009000, ⟨false, 0, true, false, .or ⟨5, 6, 7, 0, 0x9000⟩⟩),
  (0x8062000600000000, ⟨true, 0, false, false, .ret ⟨0, 6, 0, 0, 0⟩⟩),
  (0x1622050607009000, ⟨false, 11, false, false, .xor ⟨5, 6, 7, 0, 0x9000⟩⟩),
  (0x8063050600000000, ⟨true, 0, false, false, .jmpr ⟨5, 6, 0, 0, 0⟩⟩),
  (0x0023050607009000, ⟨false, 0, false, false, .andn ⟨5, 6, 7, 0, 0x9000⟩⟩),
  (0x9764050000000003, ⟨true, 11, true, false, .loop ⟨5, 3⟩⟩),
  (0x0024050689ABCDEF, ⟨false, 0, false, false, .andi ⟨5, 6, 0x89abcdef⟩⟩),
  (0x8065020000000000, ⟨true, 0, false, false, .brk ⟨2, 0⟩⟩),
  (0x1625050689ABCDEF, ⟨false, 11, false, false, .ori ⟨5, 6, 0x89abcdef⟩⟩)] : List (BitVec 64 × SlotWord)),
    decodeSlot 3 0 x.1 = .ok x.2 ∧ encodeSlot x.2 = some x.1 := by decide
/-- 02 R44, 01 R15, R20: words written out from the opcode map and the layouts. -/
theorem test_decode_scalar_3 : ∀ x ∈ ([
  (0x8066000000000000, ⟨true, 0, false, false, .yield⟩),
  (0x0126050689ABCDEF, ⟨false, 0, true, false, .xori ⟨5, 6, 0x89abcdef⟩⟩),
  (0x966700000000BEEF, ⟨true, 11, false, false, .trap ⟨0, 0xbeef⟩⟩),
  (0x0028050607008000, ⟨false, 0, false, false, .shl ⟨5, 6, 7, 0, 0x8000⟩⟩),
  (0x8068000000000000, ⟨true, 0, false, false, .eret⟩),
  (0x1629050607008000, ⟨false, 11, false, false, .shr ⟨5, 6, 7, 0, 0x8000⟩⟩),
  (0x8169050607000000, ⟨true, 0, true, false, .lscale ⟨5, 6, 7, 0, 0⟩⟩),
  (0x002A050607008000, ⟨false, 0, false, false, .sar ⟨5, 6, 7, 0, 0x8000⟩⟩),
  (0x8070C98000000003, ⟨true, 0, false, false, .cbr ⟨0xc9, 0x8000000003⟩⟩),
  (0x002B050607008000, ⟨false, 0, false, false, .rol ⟨5, 6, 7, 0, 0x8000⟩⟩),
  (0x8071020600000000, ⟨true, 0, false, false, .cbrx ⟨2, 6, 0, 0, 0⟩⟩),
  (0x172C05060000003F, ⟨false, 11, true, false, .shli ⟨5, 6, 0x3f⟩⟩),
  (0x8072030607000000, ⟨true, 0, false, false, .membw ⟨3, 6, 7, 0, 0⟩⟩),
  (0x002D05060000003F, ⟨false, 0, false, false, .shri ⟨5, 6, 0x3f⟩⟩),
  (0x9673050100000001, ⟨true, 11, false, false, .membr ⟨5, 1, 0, 0, 1⟩⟩),
  (0x002E05060000003F, ⟨false, 0, false, false, .sari ⟨5, 6, 0x3f⟩⟩),
  (0x8174050200000000, ⟨true, 0, true, false, .cbst ⟨5, 2, 0, 0, 0⟩⟩),
  (0x1630050600009000, ⟨false, 11, false, false, .clz ⟨5, 6, 0, 0, 0x9000⟩⟩),
  (0x807505060C00000F, ⟨true, 0, false, false, .bkt ⟨5, 6, 0xc, 0, 0xf⟩⟩),
  (0x0031050600009000, ⟨false, 0, false, false, .ctz ⟨5, 6, 0, 0, 0x9000⟩⟩),
  (0x9632050600009000, ⟨true, 11, false, false, .popc ⟨5, 6, 0, 0, 0x9000⟩⟩),
  (0x0133050600009000, ⟨false, 0, true, false, .bswap ⟨5, 6, 0, 0, 0x9000⟩⟩),
  (0x8034050607009000, ⟨true, 0, false, false, .ext ⟨5, 6, 7, 0, 0x9000⟩⟩),
  (0x1635050607089000, ⟨false, 11, false, false, .dep ⟨5, 6, 7, 8, 0x9000⟩⟩)] : List (BitVec 64 × SlotWord)),
    decodeSlot 3 0 x.1 = .ok x.2 ∧ encodeSlot x.2 = some x.1 := by decide
/-- 02 R45, 01 R15, R20: words written out from the opcode map and the layouts. -/
theorem test_decode_vector_1 : ∀ x ∈ ([
  (0x803A050600000150, ⟨true, 0, false, false, .exp2 ⟨5, 6, 0, 0, 0x150⟩⟩),
  (0x0010050607001D30, ⟨false, 0, false, false, .vAdd ⟨5, 6, 7, 0, 0x1d30⟩⟩),
  (0x973B050600000150, ⟨true, 11, true, false, .log2 ⟨5, 6, 0, 0, 0x150⟩⟩),
  (0x0011050607001D30, ⟨false, 0, false, false, .vSub ⟨5, 6, 7, 0, 0x1d30⟩⟩),
  (0x8040050607008007, ⟨true, 0, false, false, .vcmp ⟨5, 6, 7, 0, 0x8007⟩⟩),
  (0x1612050607000400, ⟨false, 11, false, false, .vMul ⟨5, 6, 7, 0, 0x400⟩⟩),
  (0x8041050607000000, ⟨true, 0, false, false, .mkand ⟨5, 6, 7, 0, 0⟩⟩),
  (0x0113050607008001, ⟨false, 0, true, false, .vMin ⟨5, 6, 7, 0, 0x8001⟩⟩),
  (0x9642050607000000, ⟨true, 11, false, false, .mkor ⟨5, 6, 7, 0, 0⟩⟩),
  (0x0014050607001000, ⟨false, 0, false, false, .vMax ⟨5, 6, 7, 0, 0x1000⟩⟩),
  (0x8043050607000000, ⟨true, 0, false, false, .mkxor ⟨5, 6, 7, 0, 0⟩⟩),
  (0x1615050600000150, ⟨false, 11, false, false, .vAbs ⟨5, 6, 0, 0, 0x150⟩⟩),
  (0x8144050600000000, ⟨true, 0, true, false, .mknot ⟨5, 6, 0, 0, 0⟩⟩),
  (0x0016050600000150, ⟨false, 0, false, false, .neg ⟨5, 6, 0, 0, 0x150⟩⟩),
  (0x9645050607080110, ⟨true, 11, false, false, .selv ⟨5, 6, 7, 8, 0x110⟩⟩),
  (0x0018050607008170, ⟨false, 0, false, false, .vAnd ⟨5, 6, 7, 0, 0x8170⟩⟩),
  (0x8048050600003202, ⟨true, 0, false, false, .cvt ⟨5, 6, 0, 0, 0x3202⟩⟩),
  (0x1719050607008170, ⟨false, 11, true, false, .vOr ⟨5, 6, 7, 0, 0x8170⟩⟩),
  (0x804C050600001000, ⟨true, 0, false, false, .bcst ⟨5, 6, 0, 0, 0x1000⟩⟩),
  (0x001A050607008170, ⟨false, 0, false, false, .vXor ⟨5, 6, 7, 0, 0x8170⟩⟩),
  (0x964D050607000000, ⟨true, 11, false, false, .perm ⟨5, 6, 7, 0, 0⟩⟩),
  (0x001B050607008170, ⟨false, 0, false, false, .vAndn ⟨5, 6, 7, 0, 0x8170⟩⟩),
  (0x814E0506000001F0, ⟨true, 0, true, false, .movv ⟨5, 6, 0, 0, 0x1f0⟩⟩),
  (0x161C050607008170, ⟨false, 11, false, false, .vShl ⟨5, 6, 7, 0, 0x8170⟩⟩)] : List (BitVec 64 × SlotWord)),
    decodeSlot 3 1 x.1 = .ok x.2 ∧ encodeSlot x.2 = some x.1 := by decide
/-- 02 R45, 01 R15, R20: words written out from the opcode map and the layouts. -/
theorem test_decode_vector_2 : ∀ x ∈ ([
  (0x804F050600008000, ⟨true, 0, false, false, .iota ⟨5, 6, 0, 0, 0x8000⟩⟩),
  (0x001D050607008170, ⟨false, 0, false, false, .vShr ⟨5, 6, 7, 0, 0x8170⟩⟩),
  (0x9650050600008000, ⟨true, 11, false, false, .rsum ⟨5, 6, 0, 0, 0x8000⟩⟩),
  (0x011E050607008170, ⟨false, 0, true, false, .vSar ⟨5, 6, 7, 0, 0x8170⟩⟩),
  (0x8051050600000150, ⟨true, 0, false, false, .rmax ⟨5, 6, 0, 0, 0x150⟩⟩),
  (0x161F050607008001, ⟨false, 11, false, false, .vMulh ⟨5, 6, 7, 0, 0x8001⟩⟩),
  (0x8052050600000150, ⟨true, 0, false, false, .rmin ⟨5, 6, 0, 0, 0x150⟩⟩),
  (0x0030050607080D20, ⟨false, 0, false, false, .fma ⟨5, 6, 7, 8, 0xd20⟩⟩),
  (0x9758050600000000, ⟨true, 11, true, false, .part ⟨5, 6, 0, 0, 0⟩⟩),
  (0x0031050607080D20, ⟨false, 0, false, false, .fms ⟨5, 6, 7, 8, 0xd20⟩⟩),
  (0x805C050600000003, ⟨true, 0, false, false, .gnorm ⟨5, 6, 0, 0, 3⟩⟩),
  (0x1632050607080D20, ⟨false, 11, false, false, .fnma ⟨5, 6, 7, 8, 0xd20⟩⟩),
  (0x8038050600000150, ⟨true, 0, false, false, .rcp ⟨5, 6, 0, 0, 0x150⟩⟩),
  (0x0139050600000150, ⟨false, 0, true, false, .rsq ⟨5, 6, 0, 0, 0x150⟩⟩)] : List (BitVec 64 × SlotWord)),
    decodeSlot 3 1 x.1 = .ok x.2 ∧ encodeSlot x.2 = some x.1 := by decide
/-- 02 R46, 01 R15, R20: words written out from the opcode map and the layouts. -/
theorem test_decode_matrix : ∀ x ∈ ([
  (0x9621050000000006, ⟨true, 11, false, false, .scgb ⟨5, 0, 0, 0, 6⟩⟩),
  (0x0001050000000000, ⟨false, 0, false, false, .chb ⟨5, 0, 0, 0, 0⟩⟩),
  (0x8030000000000000, ⟨true, 0, false, false, .rwfl⟩),
  (0x1602050000000000, ⟨false, 11, false, false, .che ⟨5, 0, 0, 0, 0⟩⟩),
  (0x81312A860084C000, ⟨true, 0, true, false, .prkld ⟨0xa, 5, 3, 0, 4, 0x4c000⟩⟩),
  (0x0004050000000000, ⟨false, 0, false, false, .oclm ⟨5, 0, 0, 0, 0⟩⟩),
  (0x96402A8600992000, ⟨true, 11, false, false, .knld ⟨0xa, 5, 3, 0, 4, 0x192000⟩⟩),
  (0x0005050000000000, ⟨false, 0, false, false, .orel ⟨5, 0, 0, 0, 0⟩⟩),
  (0x8041020803000001, ⟨true, 0, false, false, .fchb ⟨2, 8, 3, 0, 1⟩⟩),
  (0x1710020405013001, ⟨false, 11, true, false, .mms ⟨2, 4, 5, 1, 0x3001⟩⟩),
  (0x8042011400000006, ⟨true, 0, false, false, .spl ⟨1, 0x14, 0, 0, 6⟩⟩),
  (0x001102040500100C, ⟨false, 0, false, false, .mmz ⟨2, 4, 5, 0, 0x100c⟩⟩),
  (0x9643011415000001, ⟨true, 11, false, false, .spld ⟨1, 0x14, 0x15, 0, 1⟩⟩),
  (0x0018280307001400, ⟨false, 0, false, false, .accrdV ⟨0x28, 3, 7, 0, 0x1400⟩⟩),
  (0x81442A8600844C80, ⟨true, 0, true, false, .gref ⟨0xa, 5, 3, 0, 4, 0x44c80⟩⟩),
  (0x16192A86008D4752, ⟨false, 11, false, false, .accrdSp ⟨0xa, 5, 3, 0, 4, 0xd4752⟩⟩),
  (0x8045050300000003, ⟨true, 0, false, false, .fdrn ⟨5, 3, 0, 0, 3⟩⟩),
  (0x00202A8600912000, ⟨false, 0, false, false, .cbld ⟨0xa, 5, 3, 0, 4, 0x112000⟩⟩)] : List (BitVec 64 × SlotWord)),
    decodeSlot 3 3 x.1 = .ok x.2 ∧ encodeSlot x.2 = some x.1 := by decide
/-- 02 R47, 01 R15, R20: words written out from the opcode map and the layouts. -/
theorem test_decode_load : ∀ x ∈ ([
  (0x9638050602070100, ⟨true, 11, false, false, .topk ⟨5, 6, 0, 2, 0x70100⟩⟩),
  (0x0110050600FFFFFF, ⟨false, 0, true, false, .ldB ⟨5, 6, 0, 0, 0xffffff⟩⟩),
  (0x8040050E00000005, ⟨true, 0, false, false, .popw ⟨5, 0xe, 0, 0, 5⟩⟩),
  (0x1611050600FFFFF8, ⟨false, 11, false, false, .ldH ⟨5, 6, 0, 0, 0xfffff8⟩⟩),
  (0x804805060407FFF8, ⟨true, 0, false, false, .aadd ⟨5, 6, 0, 4, 0x7fff8⟩⟩),
  (0x0012050612000000, ⟨false, 0, false, false, .ldW ⟨5, 6, 1, 2, 0⟩⟩),
  (0x974905060407FFF8, ⟨true, 11, true, false, .aand ⟨5, 6, 0, 4, 0x7fff8⟩⟩),
  (0x0013050608FFFFF8, ⟨false, 0, false, false, .ldD ⟨5, 6, 0, 8, 0xfffff8⟩⟩),
  (0x804A05060407FFF8, ⟨true, 0, false, false, .aor ⟨5, 6, 0, 4, 0x7fff8⟩⟩),
  (0x1614050600FFFFF8, ⟨false, 11, false, false, .ldBs ⟨5, 6, 0, 0, 0xfffff8⟩⟩),
  (0x804B05060407FFF8, ⟨true, 0, false, false, .axor ⟨5, 6, 0, 4, 0x7fff8⟩⟩),
  (0x0115050600FFFFF8, ⟨false, 0, true, false, .ldHs ⟨5, 6, 0, 0, 0xfffff8⟩⟩),
  (0x964C05060407FFF8, ⟨true, 11, false, false, .amin ⟨5, 6, 0, 4, 0x7fff8⟩⟩),
  (0x0016050600FFFFF8, ⟨false, 0, false, false, .ldWs ⟨5, 6, 0, 0, 0xfffff8⟩⟩),
  (0x804D05060407FFF8, ⟨true, 0, false, false, .amax ⟨5, 6, 0, 4, 0x7fff8⟩⟩),
  (0x1617050600FFFFF8, ⟨false, 11, false, false, .ldV ⟨5, 6, 0, 0, 0xfffff8⟩⟩),
  (0x814E05060407FFF8, ⟨true, 0, true, false, .aswp ⟨5, 6, 0, 4, 0x7fff8⟩⟩),
  (0x0018050620000809, ⟨false, 0, false, false, .ldg ⟨5, 6, 2, 0, 0x809⟩⟩),
  (0x964F05060407FFF8, ⟨true, 11, false, false, .acas ⟨5, 6, 0, 4, 0x7fff8⟩⟩),
  (0x0020050601000000, ⟨false, 0, false, false, .bbacq ⟨5, 6, 0, 1, 0⟩⟩),
  (0x805005060407FFF8, ⟨true, 0, false, false, .afadd ⟨5, 6, 0, 4, 0x7fff8⟩⟩),
  (0x17282A860084FE00, ⟨false, 11, true, false, .ldb ⟨0xa, 5, 3, 0, 4, 0x4fe00⟩⟩),
  (0x8030050601000007, ⟨true, 0, false, false, .xlt ⟨5, 6, 0, 1, 7⟩⟩)] : List (BitVec 64 × SlotWord)),
    decodeSlot 3 4 x.1 = .ok x.2 ∧ encodeSlot x.2 = some x.1 := by decide
/-- 02 R48, 01 R15, R20: words written out from the opcode map and the layouts. -/
theorem test_decode_store : ∀ x ∈ ([
  (0x0010050600FFFFFF, ⟨false, 0, false, false, .stB ⟨5, 6, 0, 0, 0xffffff⟩⟩),
  (0x9611050600FFFFF8, ⟨true, 11, false, false, .stH ⟨5, 6, 0, 0, 0xfffff8⟩⟩),
  (0x0012050618000000, ⟨false, 0, false, false, .stW ⟨5, 6, 1, 8, 0⟩⟩),
  (0x8113050600FFFFF8, ⟨true, 0, true, false, .stD ⟨5, 6, 0, 0, 0xfffff8⟩⟩),
  (0x1617050600FFFFF8, ⟨false, 11, false, false, .stV ⟨5, 6, 0, 0, 0xfffff8⟩⟩),
  (0x8018050620000809, ⟨true, 0, false, false, .sts ⟨5, 6, 2, 0, 0x809⟩⟩),
  (0x0020000601000000, ⟨false, 0, false, false, .bbrel ⟨0, 6, 0, 1, 0⟩⟩),
  (0x9628000000000000, ⟨true, 11, false, false, .mark⟩),
  (0x0129050600FFFFF8, ⟨false, 0, true, false, .clrf ⟨5, 6, 0, 0, 0xfffff8⟩⟩)] : List (BitVec 64 × SlotWord)),
    decodeSlot 3 5 x.1 = .ok x.2 ∧ encodeSlot x.2 = some x.1 := by decide
/-- 02 R49, 01 R15, R20: words written out from the opcode map and the layouts. -/
theorem test_decode_copy : ∀ x ∈ ([
  (0x80202A86009C8A60, ⟨true, 0, false, false, .xch ⟨0xa, 5, 3, 0, 4, 0x1c8a60⟩⟩),
  (0x16102A8600864B40, ⟨false, 11, false, false, .cpy ⟨0xa, 5, 3, 0, 4, 0x64b40⟩⟩),
  (0x80212A86009C8178, ⟨true, 0, false, false, .xcmb ⟨0xa, 5, 3, 0, 4, 0x1c8178⟩⟩),
  (0x00112A8600874309, ⟨false, 0, false, false, .cpyt ⟨0xa, 5, 3, 0, 4, 0x74309⟩⟩),
  (0x97222A8600848A6B, ⟨true, 11, true, false, .sib ⟨0xa, 5, 3, 0, 4, 0x48a6b⟩⟩),
  (0x00122A860086A24D, ⟨false, 0, false, false, .cpyg ⟨0xa, 5, 3, 0, 4, 0x6a24d⟩⟩),
  (0x80232A860084A2B8, ⟨true, 0, false, false, .gsh ⟨0xa, 5, 3, 0, 4, 0x4a2b8⟩⟩),
  (0x16132A860086A24D, ⟨false, 11, false, false, .cpys ⟨0xa, 5, 3, 0, 4, 0x6a24d⟩⟩),
  (0x80242A860084A2B0, ⟨true, 0, false, false, .mcst ⟨0xa, 5, 3, 0, 4, 0x4a2b0⟩⟩),
  (0x01142A8600894F03, ⟨false, 0, true, false, .cpyo ⟨0xa, 5, 3, 0, 4, 0x94f03⟩⟩),
  (0x96402A8600869550, ⟨true, 11, false, false, .splg ⟨0xa, 5, 3, 0, 4, 0x69550⟩⟩),
  (0x00152A86008691E0, ⟨false, 0, false, false, .trn ⟨0xa, 5, 3, 0, 4, 0x691e0⟩⟩)] : List (BitVec 64 × SlotWord)),
    decodeSlot 3 6 x.1 = .ok x.2 ∧ encodeSlot x.2 = some x.1 := by decide
/-- 02 R50, 01 R15, R20: words written out from the opcode map and the layouts. -/
theorem test_decode_sync : ∀ x ∈ ([
  (0x8020000001130001, ⟨true, 0, false, false, .fmt ⟨0x1130001⟩⟩),
  (0x161014C310000000, ⟨false, 11, false, false, .twait ⟨0xa, 3, 3, 4, 0, 0⟩⟩),
  (0x812414C310058000, ⟨true, 0, true, false, .pfnc ⟨0xa, 3, 3, 4, 0, 0x58000⟩⟩),
  (0x001194C310000000, ⟨false, 0, false, true, .tjoin ⟨0xa, 3, 3, 4, 0, 0⟩⟩),
  (0x9625000000070083, ⟨true, 11, false, false, .lwid ⟨0x70083⟩⟩),
  (0x0018000000000004, ⟨false, 0, false, false, .fence ⟨4⟩⟩),
  (0x802814C310045000, ⟨true, 0, false, false, .launch ⟨0xa, 3, 3, 4, 0, 0x45000⟩⟩),
  (0x171994C310012345, ⟨false, 11, true, true, .drain ⟨0xa, 3, 3, 4, 0, 0x12345⟩⟩),
  (0x8029000000C8244D, ⟨true, 0, false, false, .evwait ⟨0xc8244d⟩⟩),
  (0x001A14C310024A00, ⟨false, 0, false, false, .flag ⟨0xa, 3, 3, 4, 0, 0x24a00⟩⟩),
  (0x001B800000000003, ⟨false, 0, false, true, .bar ⟨3⟩⟩)] : List (BitVec 64 × SlotWord)),
    decodeSlot 3 7 x.1 = .ok x.2 ∧ encodeSlot x.2 = some x.1 := by decide
/-! ### Small states -/

/-- A core that runs a kernel of encoding version 3, alone, with all four collective groups and a gate of 8 KiB. -/
def st : State :=
  { State.reset with
      f := { State.reset.f with fe := .run }
      kn := { State.reset.kn with ver := 3, gateKb := 8, members := 15, coreids := 1 } }
/-- The same in handler mode. -/
def sth : State := { st with f := { st.f with handler := true } }
/-- The same with the executing slot's q false. -/
def stq : State := { st with f := { st.f with cur := { st.f.cur with q := false } } }
/-- The same with S1 and S2 set. -/
def sab (x y : W64) : State := { st with r := { st.r with s := mapPut 0 (mapPut 0 [] 1 x) 2 y } }
/-- The next state of an outcome, or the state after reset. -/
def nextOf (o : Out) : State := match o with | .next t => t | _ => State.reset
/-- The operands S[3], S[1], S[2] of layout RRR. -/
def r3 (mod : BitVec 16) : RRR := ⟨3, 1, 2, 0, mod⟩
/-- S[3] after an instruction of that form. -/
def s3 (f : RRR → Instr) (mod : BitVec 16) (x y : W64) : W64 := sreg (nextOf (exec (f (r3 mod)) (sab x y))) 3

/-! ### Well-formed terms (01 R31): one ill-formed term for each check -/

/-- A reserved bit: MOVSP leaves D reserved (03 R69). -/
theorem test_wf_reserved_bit : staticEncd 3 (.movsp ⟨5, 6, 7, 0, 0⟩) = some 1 := by decide
/-- A register beyond its file: S64 (01 R22). -/
theorem test_wf_register : staticEncd 3 (.add ⟨64, 1, 2, 0, 0x9000⟩) = some 2 := by decide
/-- V128 exists from version 2 on (01 R38). -/
theorem test_wf_register_version : staticEncd 1 (.movv ⟨128, 1, 0, 0, 0⟩) = some 2 ∧ staticEncd 2 (.movv ⟨128, 1, 0, 0, 0⟩) = none := by decide
/-- A refused field value: LOOP with an offset of 0 (03 R76), and EF 0 of ADD (03 R64). -/
theorem test_wf_field : staticEncd 3 (.loop ⟨5, 0⟩) = some 3 ∧ staticEncd 3 (.add ⟨3, 1, 2, 0, 0⟩) = some 3 := by decide
/-- What no check refuses is well formed. -/
theorem test_wf_accepts : WellFormed 3 (.add ⟨3, 1, 2, 0, 0x9000⟩) := by unfold WellFormed; decide
/-- The decoder names the reason: an opcode that the map does not list, a version that does not assign it, a reserved bit, a register, a field
(01 R31, 02 R43). -/
theorem test_decode_refuses :
    decodeSlot 3 0 0x0003000000000000 = .error .opcode ∧ decodeSlot 1 0 0x0070000000000001 = .error .opcode ∧
    decodeSlot 3 0 0x0048050607000000 = .error .reserved ∧ decodeSlot 3 0 0x0010400102009000 = .error .register ∧
    decodeSlot 3 0 0x0064050000000000 = .error .field ∧ decodeSlot 3 0 0x0000000000000001 = .error .reserved := by decide
/-- NOP ignores QP and QN; version 1 has REALN in place of the realign bit (01 R18, R37, R39). -/
theorem test_decode_nop_realn :
    decodeSlot 3 4 0x1700000000000000 = .ok ⟨false, 11, true, false, .nop⟩ ∧
    decodeSlot 1 7 0x00FF000000000000 = .ok ⟨false, 0, false, true, .realn⟩ ∧
    decodeSlot 2 7 0x00FF000000000000 = .error .opcode := by decide
/-- A word of the opcode table is the word of slot 0, and the front end runs it as the first instruction after reset. -/
theorem test_table_word : decodeTableWord 64 0x0001050000000007 = some (.movi ⟨5, 7⟩) := by decide +kernel
theorem test_fetch_word : sreg (nextOf (step (State.reset.withFetchWord 64 0x0001050000000007))) 5 = 7 := by decide +kernel

/-! ### Scalar slot: results by the tables of 03 R65 to R67 -/

theorem test_add_wraps : s3 .add 0x9000 0xFFFFFFFFFFFFFFFF 2 = 1 := by decide
/-- `.i32` sign-extends the 32-bit result. -/
theorem test_add_i32 : s3 .add 0x8000 0x7FFFFFFF 1 = 0xFFFFFFFF80000000 := by decide
theorem test_mulh : s3 .mulh 0x9000 0xFFFFFFFFFFFFFFFF 2 = 0xFFFFFFFFFFFFFFFF := by decide
theorem test_div_by_zero : s3 .div 0x9000 5 0 = 0xFFFFFFFFFFFFFFFF ∧ s3 .rem 0x9000 5 0 = 5 := by decide
/-- The most negative number by −1, and truncation toward zero. -/
theorem test_div_corner : s3 .div 0x9000 0x8000000000000000 0xFFFFFFFFFFFFFFFF = 0x8000000000000000 ∧
    s3 .div 0x9000 (-7) 2 = -3 ∧ s3 .rem 0x9000 (-7) 2 = -1 := by decide
/-- All ones of 32 bits, sign-extended. -/
theorem test_divu_i32 : s3 .divu 0x8000 5 0 = 0xFFFFFFFFFFFFFFFF := by decide
theorem test_min_maxu : s3 .min 0x9000 (-1) 1 = -1 ∧ s3 .maxu 0x9000 (-1) 1 = -1 ∧ s3 .minu 0x9000 (-1) 1 = 1 := by decide
/-- Shift amounts are taken modulo the width. -/
theorem test_shifts : s3 .shl 0x9000 1 65 = 2 ∧ s3 .sar 0x8000 0x80000000 33 = 0xFFFFFFFFC0000000 ∧ s3 .rol 0x8000 0x80000001 1 = 3 := by decide
theorem test_counts : s3 .clz 0x9000 1 0 = 63 ∧ s3 .clz 0x8000 0 0 = 32 ∧ s3 .ctz 0x9000 8 0 = 3 ∧ s3 .popc 0x9000 0xFF 0 = 8 := by decide
theorem test_bswap : s3 .bswap 0x9000 0x0102030405060708 0 = 0x0807060504030201 := by decide
/-- A field of 8 bits from bit 4 on. -/
theorem test_ext : s3 .ext 0x9000 0xABCDE 0x804 = 0xCD := by decide
theorem test_shadd : s3 .shadd 0x9003 5 2 = 42 := by decide
theorem test_movi_movhi : sreg (nextOf (exec (.movi ⟨3, 0xFFFFFFFFFF⟩) st)) 3 = 0xFFFFFFFFFFFFFFFF ∧
    sreg (nextOf (exec (.movhi ⟨3, 1, 0x89ABCDEF⟩) (sab 0xF00000001 0))) 3 = 0x89ABCDEF00000001 := by decide
theorem test_muli : sreg (nextOf (exec (.muli ⟨3, 1, 0xFFFFFFFD⟩) (sab 5 0))) 3 = -15 := by decide
/-- S0 discards its write. -/
theorem test_s0 : sreg (nextOf (exec (.movi ⟨0, 7⟩) st)) 0 = 0 := by decide
/-- 1 < 2 in the normal mode; the zeroing mode writes with q false (01 R25). -/
theorem test_cmp : preg (nextOf (exec (.cmp ⟨3, 9, 0, 2, 1, 2, 0⟩) (sab 1 2))) 3 = true ∧
    preg (nextOf (exec (.cmp ⟨3, 9, 0, 2, 1, 2, 0⟩) (sab 1 2))) 9 = false := by decide
theorem test_cmp_unc_false : preg (nextOf (exec (.cmpu ⟨3, 9, 1, 0, 0, 0, 0⟩) { stq with r := { stq.r with p := 0x8 } })) 3 = false := by decide
/-- Unsigned order after the sign extension of the immediate. -/
theorem test_cmpui : preg (nextOf (exec (.cmpui ⟨3, 9, 0, 2, 1, 0x1FFFFF⟩) (sab 1 0))) 3 = true := by decide
theorem test_movsp_movps : sreg (nextOf (exec (.movps ⟨3, 0, 0, 0, 0⟩) (nextOf (exec (.movsp ⟨0, 1, 2, 0, 0⟩) (sab 0xFF 0xF0))))) 3 = 0xF1 := by decide
/-- A kernel-mode read of TCAUSE raises 0x02; a handler reads TFB. -/
theorem test_mfsr : (nextOf (exec (.mfsr ⟨3, 0, 0x028⟩) { st with kn := { st.kn with trapen := true } })).f.handler = true ∧
    sreg (nextOf (exec (.mfsr ⟨3, 0, 0x02B⟩) sth)) 3 = 0xF4000 := by decide
/-- STKY is W1C; LSSCL keeps at most 254. -/
theorem test_mtsr : (nextOf (exec (.mtsr ⟨0, 1, 0x00A⟩) { sab 2 0 with x := { st.x with stky := 7 } })).x.stky = 5 ∧
    (nextOf (exec (.mtsr ⟨0, 1, 0x010⟩) (sab 300 0))).x.lsscl = 254 := by decide
/-- A written extent returns the running position to the start. -/
theorem test_mtag : let t := nextOf (exec (.mtag ⟨4, 1, 0, 0, 5⟩) { sab 9 0 with r := { (sab 9 0).r with ag := [(4, { Gen.zero with idx := ⟨1, 0, 0, 0⟩ })] } })
    (gen t 4).extent.a = 9 ∧ (gen t 4).idx.a = 0 := by decide
theorem test_loop : let t := nextOf (exec (.loop ⟨1, 3⟩) (sab 5 0))
    t.r.loops = [⟨5, 0, 64, 192, true⟩] ∧ (nextOf (exec (.loop ⟨1, 3⟩) (sab 0 0))).f.cur.act = .goto 256 := by decide
theorem test_brk : let t := nextOf (exec (.brk ⟨0, 0⟩) { st with r := { st.r with loops := [⟨5, 0, 64, 192, true⟩, ⟨6, 1, 0, 512, true⟩] } })
    t.r.loops = [⟨6, 1, 0, 512, true⟩] ∧ t.f.cur.act = .goto 256 := by decide
theorem test_call_ret : sreg (nextOf (exec (.call ⟨9, 0xFFFFFFFFFE⟩) { st with f := { st.f with cur := { st.f.cur with pc := 0x400 } } })) 9 = 0x440 ∧
    (nextOf (exec (.ret ⟨0, 1, 0, 0, 0⟩) (sab 63 0))).f.cur.act = .goto 0 ∧ (nextOf (exec (.ret ⟨0, 0, 0, 0, 0⟩) st)).f.cur.act = .exit := by decide
/-- The state before a step of the table of 03 R84: LSCFG 0x0000_8280_0000_0002. -/
def lsc (e : BitVec 8) (n : BitVec 32) (ov : Bool) : State :=
  { st with x := { st.x with lscfg := 0x828000000002, lsscl := e, lscnt := n }, r := { st.r with p := if ov then 0x100 else 0 } }
/-- Steps 2, 5 and 7 of that table. -/
theorem test_lscale_grow : let t := nextOf (exec (.lscale ⟨9, 8, 10, 0, 0⟩) (lsc 129 1 false))
    t.x.lsscl = 130 ∧ t.x.lscnt = 0 ∧ sreg t 10 = 0x41000000 ∧ preg t 9 = false := by decide
theorem test_lscale_backoff : let t := nextOf (exec (.lscale ⟨9, 8, 10, 0, 0⟩) (lsc 130 2 true))
    let u := nextOf (exec (.lscale ⟨9, 8, 10, 0, 0⟩) (lsc 128 0 true))
    (t.x.lsscl = 129 ∧ sreg t 10 = 0x40800000 ∧ preg t 9 = true ∧ t.x.stky = 0) ∧ u.x.lsscl = 128 ∧ u.x.stky = 4 := by decide
/-- The worked example of 23 R371: counts 33 and 65. -/
def bk (c : W64) : State := { st with r := { st.r with s := [(7, c), (12, 0x0040003000200010)] } }
theorem test_bkt : let t := nextOf (exec (.bkt ⟨8, 7, 12, 0, 3⟩) (bk 33))
    let u := nextOf (exec (.bkt ⟨8, 7, 12, 0, 3⟩) (bk 65))
    (sreg t 8 = 48 ∧ t.f.cur.act = .goto 192 ∧ t.x.stky = 0) ∧ sreg u 8 = 65 ∧ u.f.cur.act = .goto 320 ∧ u.x.stky = 8 := by decide
/-- A member of the group CG2 alone contributes, and the branch resolves at dispatch with its own value. -/
theorem test_cbr_alone : let s := { st with r := { st.r with p := 2 }, f := { st.f with groups := st.f.groups.set 2 { Group.zero with gcore := 1 } } }
    let t := nextOf (exec (.cbr ⟨0x81, 3⟩) s)
    t.f.cur.act = .goto 192 ∧ (t.f.groups.get 2).seq = 1 ∧ (t.f.groups.get 2).last = true := by decide

/-! ### Vector slots (04): lane 0, or a few lanes, of the result in flight -/

/-- V1 and V2 hold two FP32 or INT32 elements each, in elements 0 and 1. -/
def sv (a0 a1 b0 b1 : BitVec 32) : State :=
  { st with
      f := { st.f with cur := { st.f.cur with k := 1 } }
      r := { st.r with v := [(1, (a1 ++ a0).zeroExtend 16384), (2, (b1 ++ b0).zeroExtend 16384)] } }
/-- The i-th w bits of the last result in flight. -/
def lat (o : Out) (w i : Nat) : Nat := match (nextOf o).f.latches.getLast? with | some l => lane l.val w i | none => 0
/-- 1.0 + 2.0 in element 0; a NaN operand gives the canonical NaN in element 1 (04 R91). -/
theorem test_vadd_f32 : let o := exec (.vAdd (r3 0)) (sv 0x3F800000 0x7FC00001 0x40000000 0x3F800000)
    lat o 32 0 = 0x40400000 ∧ lat o 32 1 = 0x7FC00000 := by decide +kernel
/-- INT32 with SAT (04 R95). -/
theorem test_vadd_sat : let o := exec (.vAdd (r3 0x8200)) (sv 0x7FFFFFFF 1 1 2)
    lat o 32 0 = 0x7FFFFFFF ∧ lat o 32 1 = 3 := by decide +kernel
/-- V3 := V1 × V2 + V0: one rounding of 2.0 × 3.0 + 0. -/
theorem test_fma : lat (exec (.fma ⟨3, 1, 2, 0, 0⟩) (sv 0x40000000 0 0x40400000 0)) 32 0 = 0x40C00000 := by decide +kernel
/-- A rounding up of 1 + 2^-24 (04 R91, RM 10). -/
theorem test_vadd_ru : lat (exec (.vAdd (r3 0x0800)) (sv 0x3F800000 0 0x33800000 0)) 32 0 = 0x3F800001 ∧
    lat (exec (.vAdd (r3 0)) (sv 0x3F800000 0 0x33800000 0)) 32 0 = 0x3F800000 := by decide +kernel
/-- −0 is below +0, and a NaN yields to the other operand (04 R93). -/
theorem test_vmin : let o := exec (.vMin (r3 0)) (sv 0 0x7FC00000 0x80000000 0x3F800000)
    lat o 32 0 = 0x80000000 ∧ lat o 32 1 = 0x3F800000 := by decide +kernel
theorem test_iota : let o := exec (.iota ⟨3, 1, 0, 0, 0x8000⟩) { sab 10 0 with f := { st.f with cur := { st.f.cur with k := 2 } } }
    lat o 32 0 = 10 ∧ lat o 32 511 = 521 := by decide +kernel
/-- Unordered: a NaN compares as not equal. -/
theorem test_vcmp : lat (exec (.vcmp ⟨3, 1, 2, 0, 0x0001⟩) (sv 0x7FC00000 1 0x7FC00000 1)) 1 0 = 1 ∧
    lat (exec (.vcmp ⟨3, 1, 2, 0, 0x0001⟩) (sv 0x7FC00000 1 0x7FC00000 1)) 1 1 = 0 := by decide +kernel
theorem test_rsum_int : lat (exec (.rsum ⟨3, 1, 0, 0, 0x8000⟩) (sv 5 7 0 0)) 32 300 = 12 := by decide +kernel
/-- 1.0 in FP32 is 0x3F80 in BF16, in part 0. -/
theorem test_cvt : lat (exec (.cvt ⟨3, 1, 0, 0, 0x1000⟩) (sv 0x3F800000 0x40000000 0 0)) 16 1 = 0x4000 := by decide +kernel
/-- With no mask bit set the indices stand in order, with a count of 0 (04 R102). -/
theorem test_part : lat (exec (.part ⟨3, 1, 0, 0, 0⟩) { sv 0 0 0 0 with r := { st.r with mask := [(1, 4)] } }) 32 0 = 2 + 0x8000 + 0x10000 := by decide +kernel
/-- INT32 ADD lands 2 issue cycles later in its queue, FP32 ADD 4 (04 R87). -/
theorem test_latency : (nextOf (exec (.vAdd (r3 0x8000)) (sv 0 0 0 0))).f.latches.map Latch.due = [2] ∧
    (nextOf (exec (.vAdd (r3 0)) (sv 0 0 0 0))).f.latches.map Latch.due = [4] := by decide +kernel

/-! ### Matrix slot (16, 20) -/

/-- A step without a chain raises 0x0B, one without a claim 0x08 (16 R290, R291). -/
def smx : State := { st with kn := { st.kn with trapen := true }, f := { st.f with cur := { st.f.cur with k := 3 } }, r := { st.r with claims := 3 } }
def causeOf (o : Out) : Nat := (nextOf o).x.tcause.toNat % 64
theorem test_mms_causes : causeOf (exec (.mms ⟨2, 0, 1, 0, 0x1000⟩) smx) = 0x0B ∧ causeOf (exec (.mms ⟨2, 0, 2, 0, 0x1000⟩) smx) = 0x08 := by decide +kernel
theorem test_chb : chain (nextOf (exec (.chb ⟨2, 0, 0, 0, 0⟩) smx)) 2 = some (.mms 0 [] []) ∧
    causeOf (exec (.che ⟨2, 0, 0, 0, 0⟩) smx) = 0x0B := by decide +kernel
theorem test_oclm_orel : claimed (nextOf (exec (.oclm ⟨31, 0, 0, 0, 0⟩) smx)) 31 = true ∧
    claimed (nextOf (exec (.orel ⟨1, 0, 0, 0, 0⟩) smx)) 1 = false := by decide +kernel

/-! ### Memory slots (05) -/

/-- The scratchpad holds 0x85 at 0x100 and 0xFF at 0x101; S6 is 0x100, S7 is 0x1234. -/
def sm : State :=
  { st with
      f := { st.f with cur := { st.f.cur with k := 4 } }
      m := { st.m with cells := [(0x100, 0x85), (0x101, 0xFF)] }
      r := { st.r with s := [(6, 0x100), (7, 0x1234)] } }
def del (o : Out) : Nat := match (nextOf o).f.deliver.getLast? with | some d => d.val.toNat | none => 0
theorem test_ld : del (exec (.ldH ⟨3, 6, 0, 0, 0⟩) sm) = 0xFF85 ∧ del (exec (.ldBs ⟨3, 6, 0, 0, 0⟩) sm) = 0xFFFFFFFFFFFFFF85 := by decide +kernel
/-- A misaligned load raises 0x11, one in the trap area 0x10 (05 R105, R106). -/
theorem test_ld_traps : let s := { sm with kn := { sm.kn with trapen := true } }
    causeOf (exec (.ldH ⟨3, 6, 0, 0, 1⟩) s) = 0x11 ∧ causeOf (exec (.ldB ⟨3, 0, 0, 0, 0x0F4000⟩) s) = 0x10 := by decide +kernel
/-- A store waits in the gate; the load of the same core sees it (05 R112, R121). -/
theorem test_st_gate : let t := nextOf (exec (.stH ⟨7, 6, 0, 0, 0⟩) sm)
    (t.f.gate.map fun g => (g.key, g.bytes)) = [(0x100, [0x34, 0x12])] ∧ t.m.cells = sm.m.cells ∧ del (exec (.ldH ⟨3, 6, 0, 0, 0⟩) t) = 0x1234 := by decide +kernel
/-- A handler's store performs at issue (08 R160). -/
theorem test_st_handler : (nextOf (exec (.stH ⟨7, 6, 0, 0, 0⟩) { sm with f := { sm.f with handler := true } })).m.cells =
    [(0x100, 0x34), (0x101, 0x12)] := by decide +kernel
/-- AADD delivers the old value and adds S[b]. -/
theorem test_aadd : let t := nextOf (exec (.aadd ⟨3, 6, 0, 0, 0x070000⟩) sm)
    del (.next t) = 0xFF85 ∧ readBytes t.m.cells 0x100 3 = [0xB9, 0x11, 0x01] := by decide +kernel
/-- The lines 2 and 3 become empty, and a load of one waits (05 R113, R114). -/
theorem test_clrf : let t := nextOf (exec (.clrf ⟨7, 6, 0, 0, 0⟩) { sm with r := { sm.r with s := [(6, 0x100), (7, 2)] } })
    t.m.empties = [2, 3] ∧ (nextOf (exec (.ldB ⟨3, 6, 0, 0, 0⟩) t)).f.cur.ctl = .wait := by decide +kernel
/-- A bobbin of two slots of two lines at 0x200: the producer takes slot 0, then slot 1, then waits (05 R115). -/
theorem test_bbacq : let b : Bobbin := ⟨0x200, 2, 2, 2, 0, 0, 0, 0, 0⟩
    let t := nextOf (exec (.bbacq ⟨3, 4, 0, 1, 0⟩) { sm with r := { sm.r with bb := [(4, b)] } })
    let u := nextOf (exec (.bbacq ⟨3, 4, 0, 1, 0⟩) t)
    del (.next t) = 0x200 ∧ del (.next u) = 0x300 ∧ (bobbin u 4).free = 0 ∧ (nextOf (exec (.bbacq ⟨3, 4, 0, 1, 0⟩) u)).f.cur.ctl = .wait := by decide +kernel

/-! ### Engines and the sync slot (09) -/

/-- KNLD takes its address, starts, reads 16 bytes, and its token completes. -/
theorem test_knld : let s := { sm with f := { sm.f with cur := { sm.f.cur with k := 3 } } }
    let t := nextOf (exec (.knld ⟨10, 0, 0, 0, 0, (1 <<< 19) + (6 <<< 13)⟩) s)
    let u := nextOf (exec (.engineCommandStart .filet) t)
    let w := nextOf (exec (.tokenCompletion 0) (nextOf (exec (.homeAccess 0) u)))
    (token t 10).pend = [3] ∧ u.e.cmds.map Cmd.active = [true] ∧ (token w 10).pend = [] ∧ knots w 1 = 0xFF85 := by decide +kernel
/-- A TWAIT whose token is pending waits, and goes on once it has completed (09 R185). -/
theorem test_twait : let s (p : List Nat) : State :=
      { st with f := { st.f with cur := { st.f.cur with k := 7, bsn := 5 } }, r := { st.r with tok := [(3, ⟨p, []⟩)] } }
    (nextOf (exec (.twait ⟨10, 1, 3, 0, 0, 0⟩) (s [6]))).f.cur.ctl = .wait ∧
    (nextOf (exec (.twait ⟨10, 1, 3, 0, 0, 0⟩) (s []))).f.cur.ctl = .done := by decide +kernel
/-- A consumer between an errored production and the issue of the next one sees the error, one behind that issue does not (09 R167). -/
theorem test_error_cleared : let t : Token := ⟨[], [⟨8, 0x16, 0x100, false, none, some 24⟩]⟩
    (seenErr t 16).map TokErr.prod = some 8 ∧ seenErr t 32 = none ∧ seenErr t 8 = none := by decide
/-- MTBB takes S[A] as a signed number: a negative COUNT is 1 (03 R72, 15 R276). -/
theorem test_mtbb_negative : let s : State := { st with r := { st.r with s := [(6, 0xFFFFFFFFFFFFFFFF), (7, 300)] } }
    (bobbin (nextOf (exec (.mtbb ⟨5, 6, 0, 0, 2⟩) s)) 5).count = 1 ∧ (bobbin (nextOf (exec (.mtbb ⟨5, 7, 0, 0, 2⟩) s)) 5).count = 256 := by decide +kernel
theorem test_evwait : let s : State := { st with f := { st.f with cur := { st.f.cur with k := 7 } }, c := { st.c with ecs := [(200, 5)] }, r := { st.r with s := [(9, 6)] } }
    (nextOf (exec (.evwait ⟨(200 <<< 16) + (9 <<< 10)⟩) s)).f.cur.ctl = .wait ∧
    (nextOf (exec (.evwait ⟨(200 <<< 16) + (9 <<< 10)⟩) (nextOf (exec (.ecIncrementMessage 200 1) s)))).f.cur.ctl = .done := by decide +kernel

/-! ### Traps (08) -/

/-- Forward entry of a software cause with detail 0xBEEF at bundle 0x400: TCAUSE, TEPC and the loop mask of the frame (08 R152, R153). -/
theorem test_entry : let s : State := { st with kn := { st.kn with trapen := true }, x := { st.x with tvec := 0x8000 }, r := { st.r with loops := [⟨5, 0, 64, 192, true⟩] } }
    let t := enterForward s ⟨0x03, 0xBEEF, 0, 0, 0x400, 7, 0, none⟩ 0x440
    (t.f.pc = 0x8000 ∧ t.f.handler = true ∧ t.x.tcause = 0xBEEF000000000003) ∧ fieldAt t 0x08 8 = 0x440 ∧ fieldAt t 0x18 8 = 0x400 ∧
    fieldAt t 0x20 4 = 7 ∧ fieldAt t 0x24 1 = 1 ∧ fieldAt t 0x98 8 = 192 := by decide +kernel
/-- Without TRAPEN the kernel ends with the fault (08 R164); in a handler the cause is a double trap (08 R163). -/
theorem test_no_trapen : ∃ e, (enterForward st ⟨0x03, 0, 0, 0, 0x400, 7, 0, none⟩ 0x440).f.fe = .exiting e ∧ e.tcause.toNat % 64 = 0x03 :=
  ⟨_, rfl, by decide +kernel⟩
theorem test_double_trap : ∃ e, (raiseR sth 0x11 0 0).f.fe = .exiting e ∧ e.tcause.toNat % 64 = 0x39 := ⟨_, rfl, by decide +kernel⟩
/-- A rollback returns S1 to what it held at the mark and discards the gate (05 R121). -/
theorem test_rollback : let t := rollbackCore (setS { sm with f := { sm.f with gate := [⟨0x100, [1], 0⟩] } } 6 9)
    sreg t 6 = 0x100 ∧ t.f.gate = [] := by decide +kernel
/-- A transition whose condition does not hold is refused by its name. -/
theorem test_not_enabled : step { State.reset with agenda := [.event .markSet] } = .refused (.notEnabled "MARK_SET") := rfl
/-! ### Witnesses: states and operands that meet the hypotheses of each statement of Obligations.lean, clause by clause -/

/-- IntegerArithmetic, Division, LogicShiftsAndByteSwap, ImmediateForms, SelectExtractAndDeposit, PredicateLogicAndMoves,
GeneratorsBobbinsAndLoopIndices, LossScaleSteps and the vector statements that ask for q and a format alone. -/
theorem test_meets_scalar : st.f.cur.q = true ∧ (r3 0x8000).ef = 8 ∧ (r3 0x9000).ef = 9 := by decide
/-- ComparesWriteTheirPredicates: 1 < 2 signed; bit 63 of a tested by 127; PD1 = PD2 = P0. -/
theorem test_meets_compares :
    ((2 : BitVec 4).toNat < 8 ∧ ((3 : BitVec 6) ≠ 9 ∨ (3 : BitVec 6) = 0) ∧ (true = true ↔ condHolds 2 true (opS (sab 1 2) 1) (opS (sab 1 2) 2))) ∧
    ((7 : BitVec 4).toNat < 8 ∧ ((0 : BitVec 6) ≠ 0 ∨ (0 : BitVec 6) = 0) ∧
      (true = true ↔ condHolds 7 false (opS (sab 0x8000000000000000 127) 1) (opS (sab 0x8000000000000000 127) 2))) := by
  refine ⟨⟨by decide, by decide, ?_⟩, by decide, by decide, ?_⟩
  · show true = true ↔ (opS (sab 1 2) 1).toInt < (opS (sab 1 2) 2).toInt
    decide
  · show true = true ↔ (opS (sab 0x8000000000000000 127) 1).getLsbD ((opS (sab 0x8000000000000000 127) 2).toNat % 64) = true
    decide
/-- SpecialRegistersRead and SpecialRegistersWritten: a hidden register in kernel mode and in a handler, a read-only one, a kept one. -/
theorem test_meets_special :
    (0x028 ∈ srAll ∧ 0x028 ∈ srHidden ∧ st.f.handler = false) ∧ (0x02B ∈ srAll ∧ sth.f.handler = true) ∧
    (0x06F ∈ srAll ∧ 0x06F ∈ srPrivileged ∧ sth.f.handler = true ∧ 0x06F ∉ srReadOnly ++ srHidden) ∧ (0x002 ∈ srAll ∧ 0x002 ∈ srReadOnly) ∧
    (0x00A ∈ srAll ∧ 0x00A ∉ srPrivileged ∧ 0x00A ∉ srReadOnly ++ srHidden) := by decide
/-- ControlTransfersAskTheDispatch: both modes. -/
theorem test_meets_transfers : st.f.cur.q = true ∧ st.f.handler = false ∧ sth.f.cur.q = true ∧ sth.f.handler = true := by decide
/-- LoopsPushAndBreak: six levels; a level that ends here; a count of 0; room; BRK of the outermost level, and of one that is not active. -/
def lv (n : Nat) (stop : W64) : State := { sab 5 0 with r := { (sab 5 0).r with loops := List.replicate n ⟨2, 0, 64, stop, true⟩ } }
theorem test_meets_loops :
    6 ≤ ((lv 6 128).r.loops.filter fun l => l.active).length ∧ (∃ l ∈ (lv 1 0).r.loops, l.active = true ∧ l.stop = (lv 1 0).f.cur.pc) ∧
    (opS (lv 5 128) 2 = 0 ∧ ¬6 ≤ ((lv 5 128).r.loops.filter fun l => l.active).length ∧ ¬∃ l ∈ (lv 5 128).r.loops, l.active = true ∧ l.stop = (lv 5 128).f.cur.pc) ∧
    opS (lv 5 128) 1 ≠ 0 ∧ (lv 6 128).r.loops[5]? = some ⟨2, 0, 64, 128, true⟩ ∧ (lv 5 128).r.loops.length ≤ 5 := by
  refine ⟨by decide, ⟨_, List.mem_singleton.2 rfl, by decide⟩, ⟨by decide, by decide, ?_⟩, by decide, by decide, by decide⟩
  rintro ⟨l, hl, -, h⟩
  rw [show (lv 5 128).r.loops = List.replicate 5 ⟨2, 0, 64, 128, true⟩ from rfl] at hl
  rw [(List.mem_replicate.1 hl).2] at h
  exact absurd h (by decide)
/-- NextBundleAndEndCheck: each request of a scalar slot, and a queue to take the bundle. -/
theorem test_meets_next : (setAct st (.goto 64)).f.cur.act = .goto 64 ∧ (setAct st .exit).f.cur.act = .exit ∧ (setAct st .eret).f.cur.act = .eret ∧
    (setAct st (.softTrap 3)).f.cur.act = .softTrap 3 ∧ st.f.cur.act = .none ∧ (setAct st .yield).f.cur.act = .yield ∧ Queue.va ∈ allQueues := by decide
/-- BucketBranchTakesFirstBoundary: the counts 33 and 65 of 23 R371. -/
theorem test_meets_bucket :
    let bnd (c : W64) (q : Nat) : Nat := (opS (bk c) (12 + q / 4)).toNat / 2 ^ (16 * (q % 4)) % 2 ^ 16
    (2 ≤ 3 ∧ (33 : W64).toNat ≤ bnd 33 2 ∧ ∀ j, j < 2 → bnd 33 j < (33 : W64).toNat) ∧ ∀ q, q < 4 → bnd 65 q < (65 : W64).toNat := by decide
/-- A group in a given condition, on a core of a kernel with two cores. -/
def grp (x : Group) : State := { st with kn := { st.kn with coreids := 3 }, f := { st.f with groups := st.f.groups.set 2 x } }
def two : Group := { Group.zero with gcore := 3 }
/-- MembershipAndStatus: a group that the header names, with and without a branch that waits, and one that it does not name. -/
theorem test_meets_membership :
    (st.kn.members.getLsbD 3 = true ∧ (st.f.groups.get 3).wait = false) ∧
    ((grp { two with wait := true }).kn.members.getLsbD 2 = true ∧ ((grp { two with wait := true }).f.groups.get 2).wait = true) ∧
    ({ st with kn := { st.kn with members := 0 } } : State).kn.members.getLsbD 3 = false := by decide
/-- QualifierFalseDoesNothing. -/
theorem test_meets_qualifier : stq.f.cur.q = false := by decide
/-- CollectiveBranchContributesOnce: a kept result, a contribution made, one to make that others wait for, and a group of one. -/
theorem test_meets_contribution :
    (st.f.handler = false ∧ st.f.ahead = none ∧ (BitVec.toNat (0x81 : BitVec 8)) / 64 = 2 ∧ running (grp two) = true) ∧
    ((grp { two with resKept := some true }).f.groups.get 2).resKept = some true ∧
    (((grp { two with contributed := true }).f.groups.get 2).resKept = none ∧ ((grp { two with contributed := true }).f.groups.get 2).contributed = true) ∧
    StillWaits (grp two) 2 false ∧
    (((grp { Group.zero with gcore := 1 }).f.groups.get 2).gcore = 1#64 <<< (grp two).x.coreid.toNat ∧ (grp two).l.partials = []) := by
  refine ⟨by decide, by decide, by decide, ⟨by decide, ⟨1, by decide, by decide, by decide, fun p hp => ?_⟩, fun p hp => ?_⟩, by decide⟩ <;>
    exact absurd hp (List.not_mem_nil)
/-- The owed contribution of a handler. -/
theorem test_meets_cbrx : let s := { grp { two with owed := true } with f := { (grp { two with owed := true }).f with handler := true } }
    s.f.cur.q = true ∧ s.f.handler = true ∧ s.kn.members.getLsbD 2 = true ∧ (s.f.groups.get 2).owed = true ∧ running s = true ∧ StillWaits s 2 false := by
  refine ⟨by decide, by decide, by decide, by decide, by decide, by decide, ⟨1, by decide, by decide, by decide, fun p hp => ?_⟩, fun p hp => ?_⟩ <;>
    exact absurd hp (List.not_mem_nil)
/-- CollectiveBranchTraps: run-ahead, and a broken group. -/
theorem test_meets_branch_traps : ({ st with f := { st.f with ahead := some ⟨0, 0, 0, true⟩ } } : State).f.ahead.isSome = true ∧
    ((grp { two with broken := true }).f.groups.get 2).broken = true ∧ (sth.f.groups.get 2).owed = false := by decide
/-- CausesAreTakenByTheirWay, ForwardEntryWritesTheFrame, RollbackEntryReturnsToTheMark, RollbackUndoesKernelWrites. -/
theorem test_meets_causes : (drained st = true ∧ st.f.ahead = none) ∧
    drained { st with f := { st.f with steps := [⟨0, 0, false, false, 0, 64, 0, 40, 32, [], none, none, false, []⟩] } } = false ∧
    (st.f.cur.rw = none ∧ st.f.handler = false ∧ st.f.fe = .run ∧ st.kn.trapen = false) ∧ sth.f.handler = true ∧
    ({ st with kn := { st.kn with trapen := true } } : State).kn.trapen = true ∧ mapHas sth.f.jr.s 5 = false := by decide
/-- A frame behind an ERET: NREC and NPFMT of the frame are the bytes at TFB + 0x25 and TFB + 0x2C. -/
def fr (nrec npf : BitVec 8) : State :=
  { sth with f := { sth.f with fe := .returning }, m := { sth.m with cells := [(0xF4025, nrec), (0xF402C, npf)].filter fun p => p.2 != 0 } }
theorem test_meets_return : ((fr 17 0).f.fe = .returning ∧ (fr 17 0).f.handler = true ∧ markReady (fr 17 0) = true ∧ (fr 17 0).f.latches = [] ∧
      16 < fieldAt (fr 17 0) 0x25 1 ∧ (fr 17 0).x.tcause.toNat % 64 ≠ 0x38) ∧ 4 < fieldAt (fr 0 5) 0x2C 4 ∧
    (fieldAt (fr 0 0) 0x25 1 = ([] : List LatchRec).length ∧ fieldAt (fr 0 0) 0x2C 4 = 0) := by decide +kernel
/-- One record: a mask result for MK2, with no bit set, three issue cycles from landing. -/
def fr1 : State := { fr 1 0 with m := { (fr 1 0).m with cells := [(0xF4025, 1), (0xF4140, 2), (0xF4141, 0x34)] } }
theorem test_meets_return_record : fieldAt fr1 0x25 1 = 1 ∧ fieldAt fr1 0x2C 4 = 0 ∧ markReady fr1 = true ∧
    FrameHolds fr1 0 ⟨.va, .mk 2, 0, 0, 3, some 0⟩ := by
  refine ⟨by decide +kernel, by decide +kernel, by decide +kernel, by decide +kernel, by decide +kernel, by decide +kernel, by decide +kernel, by decide +kernel, ?_⟩
  intro j _
  rw [show fieldAt fr1 (0x9000 + 512 * 0) 512 = 0 by decide +kernel]
  simp

/-- VectorResultsAreInFlight to VectorReductionsPartAndConversion: no other queue has written; each format; CVT of part 1 of two into BF16. -/
theorem test_meets_vector :
    (NoMix st ∧ st.f.cur.q = true ∧ vecFormat (r3 0x8000) st = 8 ∧ (r3 0x8000).sat = false ∧ vecFormat (r3 0) st = 0 ∧ vecFormat (r3 0x1000) st = 1) ∧
    ((2 : Nat), 16) ∈ [(0, 32), (8, 32), (1, 16), (2, 16), (7, 16), (3, 8), (4, 8), (6, 8), (5, 4)] ∧ (r3 7).xop < 8 ∧
    (let o : RRR := ⟨3, 1, 0, 0, 0x1001⟩
     o.xop * 512 + 512 ≤ max (lanesOf 0) (lanesOf (vecFormat o st)) ∧ min (lanesOf 0) (lanesOf (vecFormat o st)) = 512 ∧ vecFormat o st < 9 ∧
       vecFormat o st ≠ 5) := by
  refine ⟨⟨fun u hu => absurd hu List.not_mem_nil, ?_⟩, ?_⟩ <;> decide
/-- VectorFloatArithmeticRoundsOnce: two finite operands of opposite sign with sum 0; and a NaN. -/
theorem test_meets_float : IsFinite fp32 0x3F800000 ∧ IsFinite fp32 0xBF800000 ∧ 0x3F800000 / 2 ^ (fp32.w - 1) ≠ 0xBF800000 / 2 ^ (fp32.w - 1) ∧
    ratOf fp32 0x3F800000 + ratOf fp32 0xBF800000 = 0 ∧ IsNan fp32 0x7FC00001 ∧ ¬IsNan fp32 0x3F800000 := by
  refine ⟨by unfold IsFinite; decide, by unfold IsFinite; decide, by decide, ?_, by unfold IsNan; decide, by unfold IsNan; decide⟩
  norm_num [ratOf, fp32]
/-- VectorComparesMasksAndMixing: queue VB has written the first element of V1 since the last realign, and the memory queue of a later bundle V1 whole. -/
theorem test_meets_mixing : let s : State := { st with f := { st.f with cur := { st.f.cur with k := 1 }, unord := [⟨.v 1, .vb, 0, 0, 0, 0xFFFFFFFF⟩, ⟨.v 1, .mem, 9, 0, 0, 0⟩] } }
    (∃ u ∈ s.f.unord, u.dst = .v 1 ∧ u.q ≠ queueOf s.f.cur.k ∧ (u.q = .mem ∨ u.q = .mx → s.f.cur.bsn < u.bsn) ∧ laneAt u.wm 32 0 = BitVec.allOnes 32) ∧
    ∃ u ∈ s.f.unord, u.q = .mem ∧ s.f.cur.bsn < u.bsn :=
  ⟨⟨_, List.mem_cons_self, by decide +kernel⟩, _, List.mem_cons_of_mem _ List.mem_cons_self, by decide +kernel⟩
/-- An open chain of two contributions on ACC2, a filet chain on ACC3, and claims of the slots 0 and 1. -/
def sc : State :=
  { smx with r := { smx.r with chains := [(2, .mms 0 [1, 2] []), (3, .filet 4 1 false)], claims := 0xFFF, kn := [(1, 0x43F8000003F800000)] } }
/-- A step on ACC2 that works in the array. -/
def busy : MStep := ⟨2, 0, false, false, 0, 64, 0, 40, 32, [0, 1], none, none, false, []⟩
/-- ChainsClaimsAndBindings. -/
theorem test_meets_chains :
    (chain sc 0 = none ∧ chain sc 2 = some (.mms 0 [1, 2] []) ∧ chain sc 3 = some (.filet 4 1 false) ∧ ∀ x ∈ sc.f.steps, x.acc ≠ 2) ∧
    claimed sc 31 = false ∧ claimed sc 1 = true ∧ (∀ x ∈ sc.f.steps, 1 ∈ x.reads → x.beats = 0 ∨ sc.f.cur.bsn ≤ x.bsn) := by decide +kernel
/-- MatrixSlotCausesAndWaits. -/
theorem test_meets_matrix_causes : let s := { sc with f := { sc.f with steps := [busy] } }
    (chain s 2 ≠ none ∧ (∃ x ∈ s.f.steps, x.acc = 2)) ∧ (∃ x ∈ s.f.steps, 0 < x.beats) ∧ (∀ x ∈ sc.f.steps, x.beats = 0) ∧
    chain sc 0 = none ∧ claimed sc 20 = false ∧ claimed sc 3 = true ∧ (⟨2, 0, 1, 0, 0x1000⟩ : RRR).ta = false ∧ (⟨2, 0, 1, 0, 0x1000⟩ : RRR).tb = false := by decide +kernel
/-- MatrixStepsJoinTheArray: two claimed slots in BF16; and the same step as the general clause takes it. -/
theorem test_meets_steps : let o : RRR := ⟨2, 0, 1, 0, 0x1000⟩
    (sc.f.cur.rw = none ∧ (∀ x ∈ sc.f.steps, x.beats = 0) ∧ stepFmts o sc.f.cur.fmtr = (1, 1) ∧ (1, 1, 64) ∈ stepPairs ∧ o.bsel ≠ 1) ∧
    (claimed sc 0 = true ∧ claimed sc 1 = true ∧ (bindings sc).1.code = 0 ∧ (bindings sc).2.code = 0 ∧ chain sc 2 = some (.mms 0 [1, 2] [])) ∧
    stepCause sc o 64 false false [] [] 2 = none ∧ stepWaits sc 64 false false [] [] 2 = false ∧
    elemFinite 1 (slotElem (oslot sc 0) 1 63 63) := by
  refine ⟨by decide +kernel, by decide +kernel, by decide +kernel, by decide +kernel, Or.inr ?_⟩
  unfold IsFinite
  decide +kernel
/-- FiletStepsJoinTheArray: the knot set KN1 with KNOT0 1.0, H 1.0 and G 4, claims of the named slots; and an unclaimed slot, a knot set of zeros,
and a sample outside a fault-mode grid. -/
theorem test_meets_filet :
    (chain sc 3 = some (.filet 4 1 false) ∧ sc.f.sb = [] ∧ (∀ n ∈ 0 :: (List.range 8).map (4 + ·), claimed sc n = true) ∧
      knotsOk (knots sc 1) 8 = true ∧ anySample (oslot sc 0) (clampFaults (knots sc 1)) = false) ∧
    claimed sc 12 = false ∧ knotsOk (knots sc 0) 8 = false ∧ anySample (oslot sc 0) (clampFaults 0x3043F8000003F800000) = true := by decide +kernel
/-- DrainsDeliverConvertedElements: an E2M1 destination with SAT, and no open chain. -/
theorem test_meets_drains : let o : RRR := ⟨3, 0, 0, 0, 0x5200⟩
    sc.f.cur.rw = none ∧ o.ef = 5 ∧ o.sat = true ∧ chain sc 0 = none ∧ chain sc 3 = some (.filet 4 1 false) := by decide

/-- EveryStepKeepsTheInvariant: a core that runs a kernel, and a byte of memory. -/
theorem test_meets_invariant : Inv sm ∧ ∃ t, step sm = .next t :=
  ⟨⟨by decide, ⟨by decide, fun _ h => by simp [sm, st, State.reset, Seq.reset, Journal.empty] at h⟩, fun _ h => absurd h List.not_mem_nil⟩, _, rfl⟩
/-- DecodeOfEncodeIsTheSlot and OnlyEncodedWordsDecode: ADD S3, S1, S2 under P11, negated, at the end of its group. -/
theorem test_meets_encodable : let x : SlotWord := ⟨true, 11, true, false, .add (r3 0x9000)⟩
    Encodable 3 0 x ∧ encodeSlot x = some 0x9710030102009000 ∧ decodeSlot 3 0 0x9710030102009000 = .ok x := by
  refine ⟨⟨by decide, by decide, by decide, by decide, fun _ => ⟨by unfold WellFormed; decide, 0, 0x10, _, rfl, rfl,
    ⟨0, 0x10, 1, 3, 0, fun x => .add (.ofBits x)⟩, by simp [opRows, scalarRows0], rfl, rfl, by decide, by decide⟩⟩, by decide, by decide⟩
/-- FrontTurnRunsTheDecodedBundle: MOVI S5, 7 as the first bundle of a kernel, its other slots empty. -/
def fw : State := State.reset.withFetchWord 64 0x8001050000000007
def mv : SlotWord := ⟨true, 0, false, false, .movi ⟨5, 7⟩⟩
def no : SlotWord := ⟨false, 0, false, false, .nop⟩
theorem test_meets_front : let u := { fw with agenda := [] }
    let sc : Exe := ⟨0, mv.instr, qualify u mv⟩
    let ys := List.replicate 7 no
    (fw.agenda = [.front] ∧ fw.h.power ≠ .held ∧ u.f.fe = .run ∧ asyncDue u = false ∧ commitDue u = false ∧ u.f.rbFaults = [] ∧ lagged u = false) ∧
    (fetch u = some 0x8001050000000007 ∧ (decodeAt u (inForce u).1 0x8001050000000007).map Prod.fst = .ok (mv :: ys) ∧ cbrUnmarked u mv.instr = none) ∧
    ((sc.q && sc.instr = .yield) = false ∧ sc.q = true ∧ (scalarReady u mv.instr).isSome = true) ∧
    (nextOf (exec mv.instr u)).f.cur.ctl = .done ∧ anyExe (trailing u (mv :: ys)) (evDenied u) = false ∧ u.f.ahead = none ∧
    (u.f.atMark = true ∨ markBefore u (inForce u).1 sc (trailing u (mv :: ys)) = false) ∧
    ∀ y ∈ trailing u (mv :: ys), y.q = true → isTile y.instr = false := by decide +kernel
/-- A bundle of NOPs; one of MARK (02 R48) in slot 5; and one of RWFL (02 R46) in slot 3. -/
def bw (k w : Nat) : State := { State.reset.withFetchWord 512 (w * 2 ^ (64 * k)) with agenda := [] }
def slotsAt (s : State) : Option (List (Instr × Bool × Bool)) :=
  (fetch s).bind fun b => (decodeAt s (inForce s).1 b).toOption.map fun r => r.1.map fun x => (x.instr, x.realign, qualify s x)
def nops (n : Nat) : List (Instr × Bool × Bool) := List.replicate n (.nop, false, false)
theorem test_meets_bundles :
    (∀ s ∈ [bw 0 0, bw 5 0x8028000000000000, bw 3 0x8030000000000000], s.f.fe = .run ∧ s.f.ahead = none ∧ asyncDue s = false ∧ s.f.rbFaults = [] ∧
      lagged s = false ∧ s.f.preempt = false ∧ s.r.loops = [] ∧ s.f.reserved ≤ gateBytes s) ∧
    slotsAt (bw 0 0) = some (nops 8) ∧ slotsAt (bw 5 0x8028000000000000) = some (nops 5 ++ (.mark, false, true) :: nops 2) ∧
    slotsAt (bw 3 0x8030000000000000) = some (nops 3 ++ (.rwfl, false, true) :: nops 4) := by decide +kernel
/-- The bundle of MARK is dispatched, and its mark is set: the next bundle is its position. -/
theorem test_mark : let t := nextOf (exec .bundleDispatch (bw 5 0x8028000000000000))
    t.f.fe = .marking ∧ t.f.pc = 64 ∧ (nextOf (exec .bundleDispatch (bw 3 0x8030000000000000))).f.fe = .run ∧
    (nextOf (exec .bundleDispatch (bw 0 0))).f.bsn = 1 := by decide +kernel
/-- QueueAndEventTurnsRunExec: IOTA at the head of VA; and an event with its condition. -/
def io : QSlot := ⟨1, .iota ⟨3, 1, 0, 0, 0x8000⟩, true, [(1, .known 10)], [], none, 0, none, false⟩
def sqv : State := { st with agenda := [.queue .va], f := { st.f with qs := { st.f.qs with va := [⟨0, 0, false, [], 0, [io]⟩] } } }
theorem test_meets_queue_turn : let v := { sqv with agenda := [] }
    sqv.agenda = .queue .va :: [] ∧ sqv.h.power ≠ .held ∧ getQ v .va = [⟨0, 0, false, [], 0, [io]⟩] ∧ headStopped v .va ⟨0, 0, false, [], 0, [io]⟩ = false ∧
    ∃ u, RunsSlots ⟨0, 0, false, [], 0, [io]⟩ [io] (landDue v .va 0) u :=
  ⟨rfl, by decide, rfl, by decide +kernel, _, .slot _ _ _ _ _ rfl rfl (fun _ h => absurd h (by decide)) (.none _)⟩
theorem test_meets_event_turn : let s := { st with agenda := [.event .machineCheck] }
    s.agenda = .event .machineCheck :: [] ∧ isSlotInstr .machineCheck = false ∧ s.h.power ≠ .held ∧ ∃ t, exec .machineCheck { s with agenda := [] } = .next t :=
  ⟨rfl, by decide, by decide, _, rfl⟩

/-! ### Engine instructions -/

/-- AG0 gives 0x1000 and 0x1020, AG1 0x2000 and 0x2020, AG2 64 rows of 256 bytes; S6 is 0x100, S7 0x4000; the slots 0 to 11 are claimed; KN1 is
the grid of `sc`; a subcube of the logical dimensions 0, 1, 2 on the physical 6, 7, 8. -/
def gn (base : W64) (stride : BitVec 32) (n : BitVec 24) : Gen := ⟨base, ⟨stride, 0, 0, 0⟩, ⟨n, 1, 1, 1⟩, 0, .all 0⟩
def se : State :=
  { st with
      f := { st.f with cur := { st.f.cur with k := 6, claims := 0xFFF } }
      r := { sc.r with s := [(6, 0x100), (7, 0x4000)], ag := [(0, gn 0x1000 32 2), (1, gn 0x2000 32 2), (2, gn 0x8000 512 64), (3, gn 0 0 0)] }
      x := { st.x with kndim := 3, dimmap := 0x876, subm := 0x7FFF } }
/-- EngineInstructionsTakeTheirOperands: room, addresses within the scratchpad, beyond it and out of line. -/
theorem test_meets_tables : CopyRoom se false ∧ CopyRoom se true ∧ (InSpad se 0x100 256 ∧ (0x100 : W64).toNat % 64 = 0) ∧ ¬InSpad se 0x100000 16 ∧
    (InSpad se 0x108 16 ∧ (0x108 : W64).toNat % 16 ≠ 0) ∧ unitParts se false 0x4000 (256 * 64) = some [⟨0, 0x4000, .own 0x4000, 0x4000⟩] ∧ se.f.cur.gens = [] := by
  refine ⟨?_, ?_, ⟨?_, by decide⟩, ?_, ⟨?_, by decide⟩, by decide, rfl⟩ <;> (first | unfold CopyRoom | unfold InSpad) <;> decide
/-- CPY of two runs of 32 bytes between AG0 and AG1. -/
theorem test_meets_copy : let a := nestTaken se false 0
    let b := nestTaken a.2 false 1
    min (sideCount se false 0 32) (sideCount se false 1 32) = 2 ∧
    SideTaken se false 0 32 2 a.1 (.runs [⟨0, 0, 0x1000, 0x1000, 32⟩, ⟨1, 0, 0x1020, 0x1020, 32⟩]) ∧
    SideTaken se false 1 32 2 b.1 (.runs [⟨0, 0, 0x2000, 0x2000, 32⟩, ⟨1, 0, 0x2020, 0x2020, 32⟩]) := by
  refine ⟨by decide, ?_, ?_⟩ <;> (unfold SideTaken; exact ⟨_, by decide, rfl⟩)
/-- CPYG and CPYS, CPYO, TRN, GREF and SPLG. -/
theorem test_meets_rows :
    (locsOf se 32 32 [0x100] = .ok [⟨0, 0, 0x100, 0x100, 32⟩] ∧
      locsOf se 32 1 (genTake se 0 2).1 = .ok [⟨0, 0, 0x1000, 0x1000, 32⟩, ⟨1, 0, 0x1020, 0x1020, 32⟩]) ∧
    (se.f.cur.claims.getLsbD 9 = true ∧ se.f.cur.claims.getLsbD 20 = false ∧ locsOf se 128 16 (genTake se 1 1).1 = .ok [⟨0, 0, 0x2000, 0x2000, 128⟩]) ∧
    (chain se 0 = none ∧ chain se 2 ≠ none ∧ (∃ l, locsOf se (8 * widthOf 1) 32 (genTake se 2 64).1 = .ok l)) ∧
    (knotsOk (knots se 1) 16 = true ∧ ¬13 < 2 * knotG (knots se 1) ∧ posNormal (knotH (knots se 1) - 0x00800000) = true ∧ se.f.sb = []) ∧
    knotsOk (knots se 0) 16 = false ∧ (genTake se 3 64).1 = [] := by
  refine ⟨by decide +kernel, by decide +kernel, ⟨by decide +kernel, by decide +kernel, _, rfl⟩, by decide +kernel, by decide +kernel⟩
/-- GREF from the slots 0 to 6 into 12 to 22 meets unclaimed slots; with every slot claimed it meets none. -/
theorem test_meets_gref : (∃ n ∈ grefSrc 0 4 ++ grefDst 12 4, 32 ≤ n ∨ claimed se n = false) ∧
    ∀ n ∈ grefSrc 0 4 ++ grefDst 12 4, n < 32 ∧ claimed { se with r := { se.r with claims := 0xFFFFFFFF } } n = true ∧
      (n ∈ grefSrc 0 4 → n ∉ grefDst 12 4) := by decide
/-- DimensionInstructionsCheckAndIssue: a dimension of the kernel and one that is not; the ring of the dimensions 0 and 1 at this die, whose
neighbours differ in one dimension each; the multicast over the three dimensions of one hoop group; and the masks that are refused. -/
theorem test_meets_dimensions :
    DimAllowed se 2 ∧ ¬DimAllowed se 3 ∧ locsOf se 32 1 (genTake se 0 (genTotal (gen se 0))).1 = .ok [⟨0, 0, 0x1000, 0x1000, 32⟩, ⟨1, 0, 0x1020, 0x1020, 32⟩] ∧ 2 < se.x.kndim := by
  refine ⟨by unfold DimAllowed; decide, by unfold DimAllowed; decide, by decide, by decide⟩
theorem test_meets_ring : let ds := (List.range 15).filter (3 : Nat).testBit
    ds = [0, 1] ∧ (∀ d ∈ ds, d = 0 ∨ d = 1) ∧ (DimAllowed se 0 ∧ DimAllowed se 1) ∧
    (∀ j < 2, ((0 : Nat) ^^^ 0 / 2).testBit j = (lcoord se).testBit j) ∧
    ((0 ^^^ 0 / 2) ^^^ (1 ^^^ 1 / 2) = 2 ^ 0 ∧ (0 ^^^ 0 / 2) ^^^ (3 ^^^ 3 / 2) = 2 ^ 1) := by
  refine ⟨by decide, by decide, ⟨by unfold DimAllowed; decide, by unfold DimAllowed; decide⟩, by decide, by decide⟩
theorem test_meets_multicast : let ds := (List.range 15).filter (7 : Nat).testBit
    ds = [0, 1, 2] ∧ (∃ g, 2 ≤ g ∧ ∀ p ∈ ds.map fun l => se.x.dimmap.toNat / 2 ^ (4 * l) % 16, p / 3 = g) ∧ 7 < 2 ^ 30 ∧
    (∀ p, p < 15 → (0 : Coord).getLsbD p = (match ds.find? fun d => se.x.dimmap.toNat / 2 ^ (4 * d) % 16 = p with
      | some d => ((7 : Nat) / 2 ^ 15).testBit d | none => se.l.coord.getLsbD p)) ∧
    (ds.map fun l => se.x.dimmap.toNat / 2 ^ (4 * l) % 16).Nodup :=
  ⟨by decide, ⟨2, by decide, by decide⟩, by decide, by decide, by decide⟩

/-! ### Memory slots and the sync slot -/

/-- A page of 64 KiB at IA 0x10_0000, homed here, and range register 0, which lays VA 0x20_0000 on it. S6 is 0x100, S7 0x20_0000, S8 16, S9 the TOPK
descriptor of one row of one column, S10 a barrier's, S11 1; AG4 covers nothing. -/
def pg : Page := ⟨0x100000, false, 0, 0, 0, false, false, .resident, [], none, 0, 0, 0⟩
def sg : State :=
  { st with
      f := { st.f with cur := { st.f.cur with k := 4 } }
      x := { st.x with ranges := [(0, ⟨0x200000, 0x2FFFFF, 0x100000⟩)], kndim := 3, dimmap := 0x876, subm := 0x7FFF }
      m := { st.m with pages := [pg] }
      r := { st.r with s := [(6, 0x100), (7, 0x200000), (8, 16), (9, 0x00100101), (11, 1)] } }
/-- LoadsReadWhatTheCoreSees: LD.w from the scratchpad, beyond it, out of line, at an empty line that has a waiting store for other bytes only, and
from the page; a generator of no addresses; LDG of no elements. -/
theorem test_meets_loads : let o : MEM := ⟨3, 6, 0, 0, 0⟩
    (memAddrs o false sg).1 = [0x100] ∧ (InSpad sg 0x100 4 ∧ (0x100 : W64).toNat % 4 = 0 ∧ waitsOn sg 0x100 = false ∧ badIn sg 0x100 4 = none) ∧
    FirstFailing [0x100000] (fun y => InSpad sg y 4) 0x100000 ∧ FirstFailing [0x102] (fun y => y.toNat % 4 = 0) 0x102 ∧
    waitsOn { sg with m := { sg.m with empties := [2] } } 0x103 = true ∧ (memAddrs ⟨3, 4, 1, 0, 0⟩ true sg).1 = [] ∧
    (unitParts sg false 0x200000 4 = some [⟨0, 0x200000, .ia 0x100000, 4⟩] ∧ 0x100000 % 0x10000 + 4 ≤ 0x10000 ∧ waitsOn sg (iaBase + 0x100000) = false) ∧
    (unitTarget sg false 0x10000000100 4 = some (.self 0x100) ∧ isIa (.self 0x100) = false ∧ unitParts sg false 0x400000 4 = none) := by
  refine ⟨by decide, ⟨by unfold InSpad; decide, by decide, by decide, by decide⟩, ⟨[], [], rfl, fun y hy => absurd hy List.not_mem_nil, by unfold InSpad; decide⟩,
    ⟨[], [], rfl, fun y hy => absurd hy List.not_mem_nil, by decide⟩, by decide, by decide, ⟨by decide, by decide, by decide +kernel⟩, by decide⟩
/-- LoadsReadWhatTheCoreSees and WaitsEndAndFlagWordsArrive: no access is ahead of the load; an earlier bundle's access to the page is; and a store or atomic has a
load ahead. -/
def ah : State := { sg with m := { sg.m with reqs := [⟨3, .core, 0, 0, 4, .load, 0x100000, [(0, 0x100010, 4)], 0x200010, 0, .sent, false, true, false, false⟩] }, f := { sg.f with cur := { sg.f.cur with bsn := 1 } } }
theorem test_meets_ahead : (LoadHeld ah ∧ StoreHeld ah) ∧ ¬LoadHeld sg ∧ ¬StoreHeld sg :=
  ⟨⟨⟨_, List.mem_singleton.2 rfl, rfl, by decide, .inl (by decide)⟩, _, List.mem_singleton.2 rfl, rfl, .inr (by decide)⟩,
    fun ⟨_, h, _⟩ => absurd h List.not_mem_nil, fun ⟨_, h, _⟩ => absurd h List.not_mem_nil⟩
/-- A store in the gate that covers the byte, the last of two. -/
theorem test_meets_gate : let s : State := { sg with f := { sg.f with gate := [⟨0x100, [1, 2], 0⟩, ⟨0x101, [3], 0⟩] } }
    s.f.gate = [⟨0x100, [1, 2], 0⟩] ++ ⟨0x101, [3], 0⟩ :: [] ∧ 0x101 ≤ 0x101 ∧ 0x101 < 0x101 + [(3 : Byte)].length := by decide
/-- StoresWaitInTheGateOrPerform: room in the gate, a gate too small for the store, a handler, a global store with and without other queues to wait for. -/
theorem test_meets_stores :
    (st.f.handler = false ∧ 2048 ≤ 1024 * st.kn.gateKb) ∧
    (({ st with kn := { st.kn with gateKb := 0 } } : State).kn.gateKb * 1024 < 4 ∧ st.m.empties.Nodup ∧ sth.f.handler = true) ∧
    (unitParts sg false 0x200000 8 = some [⟨0, 0x200000, .ia 0x100000, 8⟩] ∧ othersIssued sg = true ∧ sg.f.ahead = none) ∧
    othersIssued { sg with f := { sg.f with qs := { sg.f.qs with cp := [⟨0, 0, false, [], 0, []⟩] } } } = false := by decide
/-- AtomicsBobbinsAndQueries: an atomic in the scratchpad, at its page's home, out of range and out of line, with scope 4; bobbins that are not set up, that
have a slot, that have none, and whose slot may be released; CLRF of two lines; XLT of no bytes, of the page and of what no register covers; TOPK; POPW. -/
theorem test_meets_atomics :
    (unitTarget sg false 0x100 8 = some (.own 0x100) ∧ othersIssued sg = true ∧ remoteAcked sg = true ∧ badIn sg 0x100 8 = none) ∧
    (unitParts sg false 0x200000 8 = some [⟨0, 0x200000, .ia 0x100000, 8⟩] ∧ unitParts sg false 0x400000 8 = none) ∧ (0x104 : W64).toNat % 8 ≠ 0 ∧
    remoteAcked { sg with f := { sg.f with unacked := [⟨3, 8, 0⟩] } } = false := by decide
theorem test_meets_bobbins : let s (b : Bobbin) : State := { sg with r := { sg.r with bb := [(4, b)] } }
    ((bobbin sg 4).slot = 0 ∧ engineWaitsFor sg 4 true 0 = false) ∧ (0 < (bobbin (s ⟨0x200, 2, 2, 1, 1, 0, 0, 1, 1⟩) 4).free ∧ 0 < (bobbin (s ⟨0x200, 2, 2, 1, 1, 0, 0, 1, 1⟩) 4).filled ∧
      (bobbin (s ⟨0x200, 2, 2, 1, 1, 0, 0, 1, 1⟩) 4).prodHeld ≠ 0) ∧
    ((bobbin (s ⟨0x200, 2, 2, 0, 2, 0, 0, 0, 0⟩) 4).free = 0 ∧ (bobbin (s ⟨0x200, 2, 2, 0, 2, 0, 0, 0, 0⟩) 4).prodHeld = 0) := by decide
theorem test_meets_queries :
    (opS sg 11 ≠ 0 ∧ InSpad sg 0x100 (128 * (opS sg 11).toNat) ∧ (0x100 : W64).toNat % 128 = 0) ∧
    (opS sg 12 = 0 ∧ opS sg 8 ≠ 0 ∧ translate sg 0x400000 = none) ∧
    (translate sg 0x200000 = some (.ia 0x100000) ∧ xltPages sg 0x200000 [] 2048 0 16 = some [(0, 0x100000, 16)]) ∧
    ((opS sg 9).toNat / 2 ^ 8 % 2 ^ 10 = 1 ∧ InSpad sg 0x100 4 ∧ (∀ i, i < 4 → waitsOn sg (0x100 + i) = false) ∧ ¬IsNan fp32 (leNat (seenBytes sg 0x100 4))) ∧
    (DimAllowed sg 2 ∧ ¬DimAllowed sg 3 ∧ stream sg 2 = []) ∧ stream { sg with r := { sg.r with w := [(2, [5])] } } 2 = 5 :: [] := by
  refine ⟨⟨by decide, by unfold InSpad; decide, by decide⟩, by decide, by decide, ⟨by decide, by unfold InSpad; decide, by decide, by unfold IsNan; decide⟩,
    ⟨by unfold DimAllowed; decide, by unfold DimAllowed; decide, by decide⟩, by decide +kernel⟩
/-- A core whose sync slot executes at BSN 5, with one of its tokens pending or errored. -/
def sy (t : Token) : State := { sg with f := { sg.f with cur := { sg.f.cur with k := 7, bsn := 5 } }, r := { sg.r with tok := [(3, t)] } }
/-- SyncSlotsWaitForTheirCondition. -/
theorem test_meets_sync :
    (TokensReady (sy ⟨[], []⟩) [3] ∧ drainReady (sy ⟨[], []⟩) = true ∧ EarlierPerformed (sy ⟨[], []⟩)) ∧ needsDone (sy ⟨[8], []⟩) (needsOf (sy ⟨[8], []⟩) [3]) = false ∧
    (needsDone (sy ⟨[], [⟨8, 0x16, 0x100, false, none, none⟩]⟩) (needsOf (sy ⟨[], [⟨8, 0x16, 0x100, false, none, none⟩]⟩) [3]) = true ∧
      firstErr (sy ⟨[], [⟨8, 0x16, 0x100, false, none, none⟩]⟩) (needsOf (sy ⟨[], [⟨8, 0x16, 0x100, false, none, none⟩]⟩) [3]) = some ⟨8, 0x16, 0x100, false, none, none⟩) ∧
    ¬EarlierPerformed { sy ⟨[], []⟩ with f := { (sy ⟨[], []⟩).f with qs := { Queues.empty with mem := [⟨4, 0, false, [], 0, []⟩] } } } := by
  refine ⟨⟨⟨by decide, by decide⟩, by decide, fun e h => absurd h List.not_mem_nil, fun e h => absurd h List.not_mem_nil, fun e h => absurd h List.not_mem_nil⟩,
    by decide, by decide, fun h => absurd (h.1 _ (List.mem_singleton.2 rfl)) (by decide)⟩
theorem test_meets_events_bars :
    ((opS (sy ⟨[], []⟩) 11).toNat ≤ (ec { sg with c := { sg.c with ecs := [(200, 1)] } } 200).toNat ∧ (ec sg 200).toNat < (opS sg 11).toNat) ∧
    (waitSince (sy ⟨[], []⟩) 7 5 = none ∧ (sg.f.barsReached.get 0 + 1 ≤ ({ sg.f with barsDone := ⟨1, 0, 0, 0⟩ } : Seq).barsDone.get 0) ∧
      1 ≤ arrivedOf { sg with l := { sg.l with barArrived := [(1, 0, 0, 1)] } } 1 (0, 0)) ∧
    (sg.f.barsDone.get 1 < 1 ∧ arrivedOf sg 2 (sg.l.coord, sg.x.coreid) < 1) := by decide
/-- FlagsPortsAndLaunches: the table word of the page; LWID that fits a board port and one that does not; a LAUNCH record of zeros but for its type. -/
theorem test_meets_flags :
    (unitTarget sg false 0x200008 8 = some (.ia 0x100008) ∧ (0x200008 : W64).toNat % 8 = 0 ∧ flagReady (sy ⟨[], []⟩) = true ∧
      countOf sg (homeOf sg 0x100) 5 < 2 ^ 24 ∧ homeOf sg 0x100 = sg.l.coord) ∧
    (unitTarget sg false 0x400000 8 = none ∧ (0x200004 : W64).toNat % 8 ≠ 0) ∧ DimAllowed sg 0 ∧ sg.x.dimmap.toNat / 2 ^ (4 * 2) % 16 = 8 ∧
    (InSpad sg 0x100 64 ∧ ¬InSpad sg 0x200000 64 ∧ launchRecord sg (1 <<< 64) = .ok (1 <<< 64) ∧ queueLen sg 16 < 16) ∧
    16 ≤ queueLen { sg with c := { sg.c with queues := [(16, List.replicate 16 ⟨0, 0, 0, 0, none, 0, 0⟩)] } } 16 := by
  refine ⟨by decide +kernel, by decide, by unfold DimAllowed; decide, by decide, ⟨by unfold InSpad; decide, by unfold InSpad; decide, by decide +kernel, by decide⟩, by decide⟩
/-- A step that lands in an open chain on an element that an engine has written meanwhile (18 R319). -/
theorem test_meets_chain_landing :
    let x : MStep := { busy with left := 1, beats := 0, prior := [(65, 3, none)] }
    let s : State := { sc with f := { sc.f with fe := .marking, qs := .empty, steps := [x] } }
    mxCounts s = true ∧ chain s x.acc = some (.mms 0 [1, 2] []) ∧ (∀ p ∈ x.prior, x.lo ≤ p.1 / 64 ∧ p.1 / 64 < x.hi) ∧ x.shadow = false := by decide +kernel
/-- ResultsLandInTheirRegisters: a latch that is due beside one that is not; delivered values; a step that lands, and one that frees the array. -/
def la (bsn due : Nat) : Latch := ⟨.va, .v 3, 1, 1, bsn, due, none, none⟩
def sl : State := { st with f := { st.f with
  qs := { Queues.empty with va := [⟨5, 0, false, [], 0, []⟩] }, latches := [la 3 5, la 4 6]
  deliver := [⟨.s, 3, 4, 7, scalarBits, true, 0, .mem⟩, ⟨.v, 3, 4, 7, 255, true, 0, .mem⟩]
  steps := [{ busy with left := 1, beats := 0 }, { busy with left := 10, beats := 2 }] } }
theorem test_meets_landings :
    (getQ sl .va = ⟨5, 0, false, [], 0, []⟩ :: [] ∧ sl.f.latches = [] ++ la 3 5 :: [la 4 6] ∧ ((la 3 5).q = .va ∧ (la 3 5).due ≤ 5) ∧
      (∀ x ∈ [] ++ [la 4 6], ¬(x.q = .va ∧ x.due ≤ 5)) ∧ NoClash sl .va (.v 3)) ∧
    (sl.f.deliver[0]? = some ⟨.s, 3, 4, 7, scalarBits, true, 0, .mem⟩ ∧ (∀ x ∈ sl.f.deliver, x.file = .s → x.n = 3 → 4 ≤ x.bsn) ∧
      sl.f.deliver[1]? = some ⟨.v, 3, 4, 7, 255, true, 0, .mem⟩ ∧ NoClash sl .mem (.v 3)) ∧
    (mxCounts sl = true ∧ sl.f.steps = [] ++ { busy with left := 1, beats := 0 } :: [{ busy with left := 10, beats := 2 }]) ∧
    ∃ x ∈ ({ busy with left := 10, beats := 2 } :: [] : List MStep), x.beats = 2 ∧ 1 < x.left := by
  refine ⟨⟨rfl, rfl, by decide +kernel, by decide +kernel, fun u h => absurd h List.not_mem_nil⟩, ⟨rfl, by decide +kernel, rfl, fun u h => absurd h List.not_mem_nil⟩, ⟨by decide +kernel, rfl⟩, _,
    List.mem_singleton.2 rfl, by decide +kernel⟩

/-! ### Waits that end, marks, engines at work -/

/-- A slot at the head of its queue that has waited since TICK 0, at BSN 5. -/
def qsl (k : Nat) (i : Instr) : QSlot := ⟨k, i, true, [], [], none, 0, none, false⟩
def qen (k : Nat) (i : Instr) : QEntry := ⟨5, 0, false, [], 0, [qsl k i]⟩
def wt (k : Nat) (i : Instr) : State :=
  { sg with
      tick := 0x10000000
      f := { sg.f with
        qs := (if k = 7 then { Queues.empty with sy := [qen 7 i] } else { Queues.empty with mem := [qen 4 i] })
        waits := [⟨k, 5, 0⟩] } }
/-- WaitsEndAndFlagWordsArrive: a load, a bobbin, a POPW, TWAIT, TJOIN, DRAIN, EVWAIT and BAR at the head, with what they wait for. -/
theorem test_meets_waits :
    (HeadHasWaited (wt 4 (.ldW ⟨3, 6, 0, 0, 0⟩)) (qen 4 (.ldW ⟨3, 6, 0, 0, 0⟩)) (qsl 4 (.ldW ⟨3, 6, 0, 0, 0⟩)) 0 ∧
      (memAddrs ⟨3, 6, 0, 0, 0⟩ false (withSlot (wt 4 (.ldW ⟨3, 6, 0, 0, 0⟩)) (qen 4 (.ldW ⟨3, 6, 0, 0, 0⟩)) (qsl 4 (.ldW ⟨3, 6, 0, 0, 0⟩)))).1 = [0x100] ∧
      ∀ b, b < 4 → waitsOn (wt 4 (.ldW ⟨3, 6, 0, 0, 0⟩)) (0x100 + b) = false) ∧
    (stream (wt 4 (.popw ⟨3, 2, 0, 0, 0⟩)) 2 = [] ∧ 1048576 ≤ ((wt 4 (.popw ⟨3, 2, 0, 0, 0⟩)).tick - 0).toNat) ∧
    (headSlot (wt 7 (.twait ⟨10, 1, 3, 0, 0, 0⟩)) 7 = some (qen 7 (.twait ⟨10, 1, 3, 0, 0, 0⟩), qsl 7 (.twait ⟨10, 1, 3, 0, 0, 0⟩)) ∧
      waitSince (wt 7 (.twait ⟨10, 1, 3, 0, 0, 0⟩)) 7 5 = some 0) ∧
    TokensReady (withSlot (wt 7 (.twait ⟨10, 1, 3, 0, 0, 0⟩)) (qen 7 (.twait ⟨10, 1, 3, 0, 0, 0⟩)) (qsl 7 (.twait ⟨10, 1, 3, 0, 0, 0⟩))) [3] ∧
    (drainReady (wt 7 (.drain ⟨10, 0, 0, 0, 0, 0⟩)) = true ∧
      drainReady { wt 7 (.drain ⟨10, 0, 0, 0, 0, 0⟩) with f := { (wt 7 (.drain ⟨10, 0, 0, 0, 0, 0⟩)).f with unacked := [⟨3, 8, 0⟩] } } = false ∧
      4194304 ≤ ((wt 7 (.drain ⟨10, 0, 0, 0, 0, 0⟩)).tick - 0).toNat) := by
  refine ⟨⟨by unfold HeadHasWaited; decide +kernel, by decide +kernel, by decide +kernel⟩, by decide +kernel, by decide +kernel,
    ⟨by decide +kernel, by decide +kernel⟩, by decide +kernel⟩
theorem test_meets_waits_sync : let o : SYN := ⟨(200 <<< 16) + (11 <<< 10) + 1⟩
    (opS (wt 7 (.evwait o)) 11).toNat ≤ (ec { wt 7 (.evwait o) with c := { sg.c with ecs := [(200, 1)] } } 200).toNat ∧
    (¬(opS (wt 7 (.evwait o)) 11).toNat ≤ (ec (wt 7 (.evwait o)) 200).toNat ∧ o.f 9 0 ≠ 0 ∧ 65536 * o.f 9 0 ≤ ((wt 7 (.evwait o)).tick - 0).toNat) ∧
    (barrierSet sg 1 = [(0, 0)] ∧ 1 ≤ arrivedOf { sg with l := { sg.l with barArrived := [(1, 0, 0, 1)] } } 1 (0, 0)) := by decide +kernel
/-- A barrier arrival of the kernel's other core; FLAG words of this core and of another die, sent, arrived and ready to be written. -/
def fm (die : Coord) : FlagMsg := ⟨0x100, 0, 9, 0, die, 0, 4, []⟩
def fc : Cmd := ⟨0, .sync, 7, 2, 0, .flag 4 0x100, 10, 23, [], none, none, true, none, none, none, none, Xfer.none⟩
def sf : State := { grp two with
  l := { st.l with sentFlags := [fm 0], flags := [fm 0] }, e := { st.e with cmds := [fc] }, f := { (grp two).f with unacked := [⟨7, 8, 0⟩] } }
theorem test_meets_flag_words :
    (running sf = true ∧ ((0 : Coord), (1 : BitVec 6)) ∈ barrierSet sf 2 ∧ (1 : BitVec 6) ≠ sf.x.coreid) ∧
    (fm 0 ∈ sf.l.sentFlags ∧ (fm 0).die = sf.l.coord ∧ (fm 0).core = sf.x.coreid ∧ (fm 0).addr < iaBase ∧ inGoneWindow sf (fm 0).addr = false) ∧
    ((fm 1).die ≠ sf.l.coord ∧ homeOf sf (fm 1).addr = sf.l.coord) ∧
    (sf.l.flags = fm 0 :: [] ∧ sf.m.reqs = [] ∧ fc.xf.segs = [] ∧
      (sf.e.cmds.find? fun c => match c.work with | .flag id _ => decide (id = (fm 0).id) | _ => false) = some fc) ∧
    sf.l.sentFlags = fm 0 :: [] ∧ (∀ p ∈ sf.l.ports, ∀ x ∈ p.2.cord ++ p.2.cordBack, x.msg ≠ .flag (fm 0)) ∧
    ((fm 1).cnt ≤ performedOf sf (fm 1).die (fm 1).core) ∧ (∃ u ∈ sf.f.unacked, u.id = 7) ∧
    (∀ m ∈ sf.l.sentFlags ++ sf.l.flags, m.id = 7 → m.die ≠ sf.l.coord ∨ m.core ≠ sf.x.coreid) ∧ (∀ r ∈ sf.m.reqs, r.id ≠ 7) ∧
    (flagAhead sf 5 0x100 8 = true ∧ unitParts sf false 0x100 8 = some [⟨0, 0x100, .own 0x100, 8⟩]) ∧ flagAhead sg 5 0x100 8 = false := by decide
/-- MarksInterruptsAndPreemption: the front end that marks, lands, has landed, exits; a branch to commit; a realign bundle at the head of every queue;
a cause that waits; an expired watchdog; the draw above and below the limit; a kernel that is asked to give way, and one that did not land. -/
def fe (f : Fe) : State := { st with f := { st.f with fe := f } }
def rl : State := { st with f := { st.f with qs :=
  let e : QEntry := ⟨5, 0, true, [], 0, []⟩
  ⟨[e], [e], [e], [e], [e], [e]⟩ } }
def rn : Run := ⟨1, 0, ⟨0, 0, 0, 0, none, 0, 0⟩, [], st.kn, 0, [0], 0, 0, true, false, false, none, 0, [], []⟩
def ask : State := { fe .landed with c := { st.c with runs := [{ rn with asked := some 0 }] } }
def cmt : State := let s := grp { two with resKept := some true }
  { s with f := { s.f with ahead := some ⟨2, 0, 0, true⟩ } }
theorem test_meets_marks :
    ((fe .marking).f.rbFaults = [] ∧ markComplete (fe .marking) = true ∧ markReady (fe .landing) = true ∧ (fe .marking).f.ahead = none ∧ (fe .landing).f.fe = .landing) ∧
    ((cmt.f.groups.get 2).resKept = some true ∧ commitReady cmt = true) ∧
    (∀ q ∈ allQueues, getQ rl q = ⟨5, 0, true, [], 0, []⟩ :: []) ∧ rl.f.realigned ≤ 5 ∧
    (∀ p ∈ [(0x33, 0), (0x06, 0)], ({ st.f with asyncs := [p] } : Seq).asyncs = [p]) ∧ (0x06 ∈ [0x38, 0x06, 0x30, 0x31, 0x37] ∧ drained st = true) := by decide
theorem test_meets_interrupts :
    (running st = true ∧ ({ st with x := { st.x with wdog := 100 }, tick := 100 } : State).x.wdog.toNat ≤ ((100 : W64) - st.f.wcount).toNat) ∧
    (exitReady (fe (.exiting .ok)) .ok = true ∧ (fe (.exiting .ok)).f.rbFaults = []) ∧
    (st.c.thr = false ∧ st.c.limit.toNat < (601 : BitVec 16).toNat ∧ ({ st.c with thr := true } : Cp).thr = true ∧ (599 : BitVec 16).toNat < st.c.limit.toNat) ∧
    (rn.here = true ∧ rn.suspended = false ∧ rn.killed = false ∧ ask.f.fe = .landed ∧ tokensDone ask = true ∧ mayAsk ask rn = true) ∧
    8000000 ≤ ((0x10000000 : W64) - 0).toNat := by decide +kernel
/-- EngineCommandsStartAndComplete: a command that waits, one whose token was errored, a timed one that is due. -/
def cm (w : Work) (act : Bool) (t : Option W64) : Cmd := ⟨0, .copy, 6, 2, 0, w, 10, 22, [(3, 16)], none, t, act, none, none, none, none, Xfer.none⟩
def sw (c : Cmd) (t : Token) : State := { se with e := { se.e with cmds := [c] }, r := { se.r with tok := [(3, t)] }, tick := 50 }
theorem test_meets_commands :
    (((sw (cm .null false none) Token.fresh).e.cmds.map Cmd.id).Nodup ∧ needsDone (sw (cm .null false none) Token.fresh) [(3, 16)] = true ∧
      tokenDone (sw (cm .null false none) Token.fresh) 10 22 = true ∧ earlierDone (sw (cm .null false none) Token.fresh) 2 = true ∧
      enginesOf (cm .null false none) = [.copy] ∧
      (sw (cm .null false none) Token.fresh).e.cmds.find? (fun x => (enginesOf x).contains .copy && !x.active && x.time.isNone) = some (cm .null false none) ∧
      sourcesOf (sw (cm .null false none) Token.fresh) (cm .null false none) = [] ∧ firstErr (sw (cm .null false none) Token.fresh) [(3, 16)] = none) ∧
    firstErr (sw (cm .null false none) ⟨[], [⟨8, 0x16, 0x100, false, none, none⟩]⟩) [(3, 16)] = some ⟨8, 0x16, 0x100, false, none, none⟩ ∧
    ((sw (cm .null false (some 50)) Token.fresh).e.cmds.filter fun x => !x.active && x.time.isSome) = [cm .null false (some 50)] := by decide +kernel
/-- A piece of the own scratchpad; a copy of 32 bytes from 0x1000 to 0x2000 that has its source to read, and one that has read it and has its sector to write. -/
def pc (k n : Nat) : Piece := ⟨0, 0, BitVec.ofNat 64 k, k, n⟩
def cpw : Work := .copy (.runs [pc 0x1000 32]) (.runs [pc 0x2000 32]) 32 32 1 0 0
def sx (w : Work) (x : Xfer) : State := sw { cm w true none with xf := x } Token.fresh
theorem test_meets_accesses :
    (isDim cpw = false ∧ (engActs (sx cpw { Xfer.none with reads := [⟨pc 0x1000 32, none⟩] }))[0]? = some (0, .read 0) ∧ badIn se 0x1000 32 = none) ∧
    ((engActs (sx cpw { Xfer.none with segs := [[⟨0, [pc 0x2000 32], none, false, []⟩]] }))[1]? = some (0, .write 0) ∧
      gotRun { Xfer.none with got := [(pc 0x1000 32, List.replicate 32 7)] } 0 0 32 = some (List.replicate 32 7)) ∧
    ∀ x ∈ [pc 0x1000 32], ∀ y ∈ [pc 0x2000 32], x.key + x.len ≤ y.key ∨ y.key + y.len ≤ x.key := by decide +kernel
/-- Commands whose transfer is done: a table, a knot set, a row of a slot, and a copy that has stopped at a fault. -/
theorem test_meets_work :
    (∀ w ∈ [Work.null, .cbld 2 (pc 0x100 256), .knld 1 (pc 0x100 16), .fillO 9 3 [pc 0x2000 128], cpw],
      (sx w Xfer.none).e.cmds[0]? = some (cm w true none) ∧ (sx w Xfer.none).e.sent = []) ∧
    (∀ n ∈ [16, 128, 256], gotRun { Xfer.none with got := [(pc 0x100 n, List.replicate n 7)] } 0 0 n = some (List.replicate n 7)) ∧
    readersDone se 2 .o 9 = true ∧ (∀ g ∈ ({ Xfer.none with got := [(pc 0x100 128, List.replicate 128 7)] } : Xfer).got, g.1.run < 1) ∧
    (hasDest cpw = true ∧ ({ Xfer.none with stop := some (0, 0x13, 0x1000) } : Xfer).stop = some (0, 0x13, 0x1000)) := by decide +kernel
/-- CollectiveMessagesAndTimeouts: a branch that waits, has contributed and runs ahead on what is agreed and on what is not; the partner's part; a group that
breaks; an expired count; counts that stop and start. -/
def wai : Group := { two with wait := true, contributed := true, gdim := 1, gcore := 1, since := 0, pred := true, any := true }
theorem test_meets_collective :
    (running (grp wai) = true ∧ (grp wai).kn.members.getLsbD 2 = true ∧ wai.broken = false ∧ wai.contributed = true ∧ (wai.gcore.getLsbD 0 = true)) ∧
    (({ (grp wai).f with ahead := some ⟨2, 0, 0, false⟩ } : Seq).ahead = some ⟨2, 0, 0, false⟩) ∧
    (∀ i, i < 15 → wai.gdim.getLsbD i = decide (i = 0)) ∧ wai.gcore = 1#64 <<< (grp wai).x.coreid.toNat ∧
    ({ (grp wai).l with partials := [⟨⟨0, 0, 2, 1, 1⟩, 0, true, [(0, true)], [], [0]⟩] } : Fab).partials =
      [⟨groupId (grp wai) 2, wai.seq, true, [((grp wai).x.coreid, true)], [], [0]⟩] ∧
    (canResult wai true = true ∧ cbtoExpired (grp wai) 2 = false ∧ wai.pred = true ∧ wai.any = true ∧ canResult { wai with pred := false } false = true ∧
      cbtoExpired { grp wai with x := { (grp wai).x with cbto := 10 }, tick := 50 } 2 = true) ∧
    (wai.stopped = 0 ∧ ({ (grp wai).x with cbto := 10 } : Spec).cbto ≠ 0 ∧ (10 : BitVec 32).toNat ≤ ((50 : W64) - wai.since).toNat ∧
      ∀ h, h < 2 → ((grp wai).f.groups.get h).wait = false) ∧ 0 < ({ wai with stopped := 1 } : Group).stopped := by decide

/-! ### Homes, links, records and the package -/

/-- A load and a store of this core at a page whose home is this die, first of the requests, with its access in flight; the page refused in three ways. -/
def rq (op : ReqOp) : Req := ⟨3, .core, 5, 0, 4, op, 0x100000, [(0, 0x100010, 4)], 0x200010, 0, .sent, false, true, false, false⟩
def hm (p : Page) (op : ReqOp) : State := { sg with m := { sg.m with pages := [p], reqs := [rq op] } }
theorem test_meets_home_requests :
    (∀ x ∈ [(pg, ReqOp.load), (pg, .store [1, 2, 3, 4]), ({ pg with owner := 9 }, .load), ({ pg with ro := true }, .store [1, 2, 3, 4]),
        ({ pg with st := .offloaded 2 0 }, .load)], ReqAt (hm x.1 x.2) (rq x.2) [] x.1 0x100010 4) ∧
    (WriteFree (hm pg (.store [1, 2, 3, 4])) (rq (.store [1, 2, 3, 4])) 0x100010 4) ∧
    (pg.owner = (rq .load).owner ∧ pg.st = .resident ∧ badIn (hm pg .load) (iaBase + 0x100010) 4 = none ∧ (hm pg .load).f.gate = [] ∧ pg.ro = false) ∧
    (let c : Access := ⟨5, 4, .v, 3, 0, 255, 1, 0, true⟩
     c.bsn = (rq .load).bsn ∧ c.k = (rq .load).k ∧ c.left = 1 ∧ c.val = 0 ∧ c.file = .v) ∧ min 4 32 = 4 ∧ min 64 32 < 64 := by
  refine ⟨fun x h => ⟨rfl, fun q hq => absurd hq List.not_mem_nil, rfl, rfl, by show (0x100000 : Nat) ≠ 2 ^ 52; decide, rfl, fun x hx => absurd hx List.not_mem_nil, rfl, ?_⟩,
    ⟨fun i hi => absurd hi List.not_mem_nil, by decide +kernel⟩, by decide +kernel⟩
  revert x
  decide +kernel
/-- A store of two pieces to the scratchpad. -/
theorem test_meets_pads : let r : Req := ⟨3, .core, 5, 0, 6, .pads [1, 2, 3, 4, 5, 6, 7, 8], noPage, [(0, 0x100, 4), (4, 0x200, 4)], 0, 0, .checked, true, true, true, false⟩
    departed { sg with m := { sg.m with reqs := [r] } } r.id = true ∧ sg.f.rbFaults = [] ∧ r.stage ≠ .held ∧ 0 % 32 + 4 ≤ 32 ∧ 0 + 4 ≤ 8 := by decide +kernel
/-- A directory die that is asked; a page that moves, is offloaded, is offloading and returns; a host region that holds it. -/
def hp (x : PageState) : State :=
  { sg with
      tick := 1024000
      m := { sg.m with pages := [{ pg with st := x }], counts := [⟨0x100000, 8, 1, 4096⟩], freeFrames := [(0, 5), (8, 40)], offloadAsked := true, interval := 1 }
      h := { sg.h with regions := [(2, ⟨0, 0, 0, 0, 0x10000⟩)] }
      c := { sg.c with tenants := [⟨0, 0, 8, [], []⟩] } }
theorem test_meets_pages :
    isDirDie ⟨0, 0, 8, [], []⟩ 0x100000 0 = true ∧ (({ pg with st := .moving 8 5 } : Page).st = .moving 8 5 ∧ (8 : Coord) ≠ pg.home) ∧
    (∀ x ∈ [PageState.resident, .moving 8 5, .offloading 2 0, .offloaded 2 0, .returning 2 0],
      ((hp x).m.pages.find? fun q => q.ia = pg.ia) = some { pg with st := x }) ∧
    ((hp .resident).m.interval < (hp .resident).tick.toNat / 512000 ∧ pinned (hp .resident) pg = false ∧ awaited (hp .resident) pg = false ∧ frames pg ≤ freeOf (hp .resident) 8 ∧ pg.tack = none ∧ pg.moves = []) ∧
    (mapFind (hp .resident).h.regions 2 = some ⟨0, 0, 0, 0, 0x10000⟩ ∧ 0 + pageSize pg ≤ 0x10000 ∧ (2 : Nat) ∉ (hp .resident).h.lost ∧
      mapHas (hp (.returning 2 0)).h.regions 2 = true) ∧
    (dirDie ⟨0, 0, 8, [], []⟩ 0x100000 = 0 ∧ dirDie ⟨0, 0, 8, [], []⟩ 0x300000 = 8 ∧ (hp .resident).l.coord = 0) := by decide +kernel
/-- A request that is held for its home, before others that are not. -/
theorem test_meets_lookup : ({ rq .load with stage := .held } : Req).stage = .held ∧ trueHome (hm pg .load) (rq .load).page = (hm pg .load).l.coord ∧
    outstanding { hm pg .load with m := { (hm pg .load).m with reqs := [{ rq .load with stage := .held }] } } (rq .load).page = false := by decide +kernel
/-- A link of a dimension, up, in a state of its port. -/
def pt (d : Nat) (p : Port) : State := { st with tick := 0x10000000, l := { st.l with ports := [(d, p)] } }
def up : Port := { Port.reset with installed := true, stage := .up, lanes := 4, ded := 4, striped := 4 }
/-- A data flit that the neighbour of dimension 0 sealed under a counter; and one of this die, which has no number of its pair yet. -/
def fl (d ctr : Nat) : Flit :=
  let g : Flit := ⟨0, 0, 0, 1, 0, 0, 0, .request ⟨1, 2, false, [(0x100000, 4)], [], 0, none, true⟩, [], 0, none, false, 0, ctr, 0⟩
  { g with tag := integrity (partner st.l.coord d) d none g }
def mk : Flit :=
  let g : Flit := ⟨0, 3, 0, 1, 0, 0, 0, .marker 1, [], 0, none, false, 0, 0, 0⟩
  { g with tag := integrity (partner st.l.coord 0) 0 none g }
def own : Flit := { fl 7 0 with orig := 0, dest := 8 }
theorem test_meets_link_up : LinkUp (pt 0 up) 0 ∧ LinkUp (pt 7 up) 7 ∧
    (0 < { up with rxSince := 3 }.rxSince ∧ up.replay.length < 1024 ∧ up.txCtr < 2 ^ 40 ∧ 2000 ≤ ((pt 0 up).tick - up.rxAckSince).toNat) ∧
    (∃ f ∈ { up with replay := [fl 0 9] }.replay, f.epoch = 0 ∧ f.counter = 9) ∧ 40000 ≤ ((pt 0 up).tick - up.ackSince).toNat ∧
    (2 ^ 39 ≤ { up with txCtr := 2 ^ 39 }.txCtr ∧ 2 ^ 39 < 2 ^ 40 ∧ up.oldSlot = none ∧ up.txEpoch + 1 ≠ 2 ^ 32 - 1) ∧ linkEnd 8 0 ≠ linkEnd st.l.coord 0 ∧ linkEnd 1 0 = linkEnd st.l.coord 0 ∧ EnginesRest (pt 7 up) ∧
    (up.nakDue = false ∧ { up with nakDue := true }.nakDue = true ∧ ¬(List.replicate 1024 (fl 0 9)).length < 1024) := by
  unfold LinkUp
  refine ⟨by decide, by decide, by decide, ⟨fl 0 9, List.mem_singleton.2 rfl, rfl, rfl⟩, by decide, by decide, by decide, by decide, fun c h => absurd h List.not_mem_nil, rfl, rfl, ?_⟩
  rw [List.length_replicate]; decide
/-- A flit that waits for its turn, and messages that wait for a control flit, alone and beside it. -/
theorem test_meets_sending : let m : CordMsg := ⟨0, 8, 0, [], 0x7FFF, .flag (fm 0)⟩
    ({ up with outq := [(.relay, own)] }.outq = [(.relay, own)] ∧ up.portFence = none ∧ up.circFence = none ∧ up.cord = [] ∧ up.halfSent = false ∧ own.numbered = false ∧
      own.orig = (pt 7 up).l.coord ∧ up.installed = true ∧ up.txCtr < 2 ^ 39) ∧
    ({ up with cord := [m] }.cord ≠ [] ∧ { up with cord := [m] }.outq = [] ∧ 8 ≤ ((pt 7 up).tick - up.cordSince).toNat) ∧
    (7 ≤ { up with cordGap := 7, outq := [(.relay, own)] }.cordGap ∧ { up with cordGap := 7, outq := [(.relay, own)] }.outq ≠ []) := by
  exact ⟨⟨rfl, rfl, rfl, rfl, rfl, rfl, rfl, rfl, by decide⟩, ⟨List.cons_ne_nil _ _, rfl, by decide⟩, by decide, List.cons_ne_nil _ _⟩
/-- LPCTL of reset: a lane parks at an empty queue after its time and wakes at 64 flits. -/
theorem test_meets_lanes : let wake := up.lpctl.toNat / 2 ^ 48
    (wake ≠ 0 ∧ up.outq.length ≤ min (up.lpctl.toNat / 2 ^ 32 % 2 ^ 16) (wake - 1) ∧
      16 * (up.lpctl.toNat / 2 ^ 16 % 2 ^ 16) ≤ ((pt 7 up).tick - up.lowSince).toNat ∧ max 1 (up.lpctl.toNat % 2 ^ 5) < up.striped) ∧
    (wake ≤ (List.replicate 64 ((.relay, fl 7 0) : Requester × Flit)).length ∧ { up with striped := 1 }.striped < stripeOf (pt 7 { up with striped := 1 }) 7) ∧
    1 < up.lanes := by
  exact ⟨by decide, ⟨by rw [List.length_replicate]; decide, by decide⟩, by decide⟩
/-- A flit out of order, one that fails its check, one that passes it, and a marker. -/
theorem test_meets_flits : ((fl 0 4).ftype ≠ 4 ∧ (fl 0 4).counter ≠ up.rxCtr) ∧ flitGood (pt 0 up) 0 { fl 0 0 with ftype := 5 } = false ∧
    (flitGood (pt 0 up) 0 (fl 0 0) = true ∧ (fl 0 0).epoch = up.rxEpoch ∧ (fl 0 0).counter = up.rxCtr ∧ (fl 0 0).dest = st.l.coord ∧ (fl 0 0).dims ≠ 7 ∧
      (fl 0 0).pseq.toNat = lookupSeq st.l.rxSeq (fl 0 0).orig ∧ up.rxSince < 15 ∧ up.rxFails < 2) ∧
    (mk.ftype = 3 ∧ mk.body = .marker 1 ∧ flitGood (pt 0 up) 0 mk = true) :=
  ⟨⟨(by decide), (by decide)⟩, rfl, ⟨decide_eq_true rfl, rfl, rfl, rfl, by decide, rfl, by decide, by decide⟩, rfl, rfl, decide_eq_true rfl⟩
/-- Bring-up: stages and their bounds; a shared fibre that a crowded port may be granted, and one that retunes. -/
def gr : Grant := ⟨0, 24, (partner (0 : Coord) 7).extractLsb' 6 3, .widen 7⟩
theorem test_meets_bringup :
    (∀ x ∈ [Stage.down, .fast, .training, .aligned], (port (pt 7 { up with stage := x }) 7).stage = x) ∧
    200000 < ((pt 7 up).tick - up.since).toNat ∧ 4000000 ≤ ((pt 7 up).tick - up.since).toNat ∧ ((100 : W64) - up.since).toNat ≤ 200000 ∧
    ({ up with fastFailed := some 5 }.fastFailed = some 5 ∧ 4000000 ≤ ((pt 7 up).tick - 5).toNat ∧ 1 ≤ 8 ∧ up.dead = false) ∧
    (gr.grp < 3 ∧ 24 ≤ gr.fibre ∧ gr.fibre < 32 ∧ 6 + 3 * gr.grp ≤ 7 ∧ 7 < 9 + 3 * gr.grp ∧ (pt 7 up).l.grants = [] ∧ (pt 7 up).l.retuning = [] ∧
      (pt 7 up).e.cmds = [] ∧ gr.colour = (partner (pt 7 up).l.coord 7).extractLsb' (6 + 3 * gr.grp) 3 ∧ up.lpctl.toNat / 2 ^ 48 ≠ 0 ∧
      up.lpctl.toNat / 2 ^ 48 ≤ (List.replicate 64 ((.relay, fl 7 0) : Requester × Flit)).length) ∧
    (∀ x ∈ (pt 7 up).l.ports, (∀ y ∈ x.2.outq, y.2.via = []) ∧ ∀ m ∈ x.2.cord, m.via = []) ∧ ({ up with lanes := 0 }.lanes = 0 ∧ up.lanes ≠ 0) ∧
    (∀ m ∈ [7], (port { pt 7 { up with circFence := some 0 } with l := { (pt 7 { up with circFence := some 0 }).l with retuning := [⟨0, 24, [7]⟩] } } m).circFence = some 0) := by
  refine ⟨by decide +kernel, by decide, by decide, by decide, by decide, ⟨by decide, by decide, by decide, by decide, by decide, rfl, rfl, rfl, by decide, by decide, ?_⟩,
    by decide +kernel, by decide, by decide +kernel⟩
  rw [List.length_replicate]; decide
/-- An image at IA 0 of a kernel of one core, its header in chunks, with its CRC (01 R34), and a queue whose head is a record. -/
def img1 : List Byte :=
  [0x47, 0x52, 0x41, 0x4C, 3, 0, 1, 1] ++ List.replicate 16 0 ++ List.replicate 7 0xFF ++ [0x0F] ++ bytesLE 256 8 ++ bytesLE 64 8
def img0 : List Byte := img1 ++ (List.replicate 50 0 ++ (List.replicate 50 0 ++ (List.replicate 50 0 ++ List.replicate 50 0)))
def img : List Byte := img0 ++ [214, 142, 87, 57, 90, 118, 120, 254]
theorem crcOf_append (c : BitVec 64) (a b : List Byte) : crcOf c (a ++ b) = crcOf (crcOf c a) b := by
  induction a generalizing c with
  | nil => rfl
  | cons x a ih => exact ih _
theorem crc_chunk_0 : crcOf 0 img1 = 0x1c34343d37f34374 := by decide +kernel
theorem crc_chunk_1 : crcOf 0x1c34343d37f34374 (List.replicate 50 0) = 0xefbaa263c140fd1d := by decide +kernel
theorem crc_chunk_2 : crcOf 0xefbaa263c140fd1d (List.replicate 50 0) = 0x201a2df2e142da82 := by decide +kernel
theorem crc_chunk_3 : crcOf 0x201a2df2e142da82 (List.replicate 50 0) = 0x26f0da54e1781bda := by decide +kernel
theorem crc_chunk_4 : crcOf 0x26f0da54e1781bda (List.replicate 50 0) = 0xfe78765a39578ed6 := by decide +kernel
theorem crc_img : crc64 (img.take 248) = 0xfe78765a39578ed6 := by
  rw [show img.take 248 = img0 by decide +kernel, crc64, img0, crcOf_append, crcOf_append, crcOf_append, crcOf_append, crc_chunk_0, crc_chunk_1,
    crc_chunk_2, crc_chunk_3, crc_chunk_4]
def rc (bits : BitVec 512) : Rec := ⟨bits, 7, 0, 0, some 0, 0, 0⟩
def lc (bits : BitVec 512) : State :=
  { st with
      m := { st.m with cells := (img.zipIdx.filter fun x => x.1 != 0).map (fun x => (iaBase + x.2, x.1)), pages := [{ pg with ia := 0, owner := 7 }] }
      c := { st.c with tenants := [⟨7, 0, 0, [], []⟩], queues := [(2, [rc bits])] } }
theorem test_meets_records : OnlyHead (lc 0) 2 (rc 0) [] ∧ (imageHeld (lc 0) (rc 0) = false ∧ imageHeld (lc (1 <<< 64)) (rc (1 <<< 64)) = false ∧ (lc 0).l.early = []) ∧
    (acceptCode (lc (64 <<< 64)) (rc (64 <<< 64)) = some 1 ∧ acceptCode { lc 0 with c := st.c } (rc 0) = some 2) ∧
    (acceptCode (lc (1 <<< 64)) (rc (1 <<< 64)) = none ∧ recType (rc (1 <<< 64)) = 1) := by
  unfold OnlyHead; decide +kernel
theorem headerOf_lc : headerOf (lc 0) (rc 0) = img := by decide +kernel
theorem test_image_accepted : hdrRefused img 0 = false := by
  rw [hdrRefused, crc_img]
  decide +kernel
theorem test_meets_launch : acceptCode (lc 0) (rc 0) = none ∧ recType (rc 0) = 0 ∧ tenantOf (lc 0) 7 = some ⟨7, 0, 0, [], []⟩ ∧
    placementOk (lc 0) 7 (headerOf (lc 0) (rc 0)) ⟨0, [], [0], true, none⟩ = true ∧ placedAs (lc 0) (headerOf (lc 0) (rc 0)) ⟨0, [], [0], true, none⟩ = some 0 := by
  refine ⟨?_, by decide +kernel⟩
  unfold acceptCode
  rw [headerOf_lc, show recField (rc 0).bits 0x20 63 0 = 0 by decide +kernel, test_image_accepted]
  decide +kernel
/-- A kernel of the lowest class on every cluster, which gives way to the head of the queue. -/
def low : Run := { rn with clusters := List.range 8, kernel := { st.kn with cls := 3 } }
def prs : State := { lc 0 with c := { (lc 0).c with runs := [low] } }
theorem test_meets_pressed : mayAsk prs low = true ∧ headPresses prs low = true := by
  have h0 : headerOf prs (rc 0) = img := headerOf_lc
  have h1 : acceptCode prs (rc 0) = none := by
    unfold acceptCode
    rw [h0, show recField (rc 0).bits 0x20 63 0 = 0 by decide +kernel, test_image_accepted]
    decide +kernel
  refine ⟨by decide +kernel, ?_⟩
  rw [headPresses, show heads prs = [(2, rc 0)] by decide +kernel]
  simp only [List.any_cons, List.any_nil, Bool.or_false, needsPlace, h1, cannotPlace, h0]
  decide +kernel
/-- Completions of a record and of a run that has ended here; a head that ages. -/
theorem test_meets_completion : let x : Run := { rn with rcd := rc 0 }
    (st.c.runs = [] ∧ st.h.power ≠ .ending ∧ recSaddr (rc 0) = 0 ∧ recEc (rc 0) 0x0E = none) ∧
    (x.here = true ∧ x.suspended = false ∧ x.killed = false ∧ x.unacked = [] ∧ alone x = true ∧ x.queue < 16 ∧ remoteAcked st = true) ∧
    ((rc 0).eligible = some 0 ∧ (rc 0).aged < ((rc 0).spent + ((8000000 : W64) - 0).toNat) / 8000000) := by decide +kernel
/-- A package with a management and a tenant's queue pair, a bound queue, a window, a host region, a read and the tenant's page. -/
def wn : Window := ⟨0, 0x10000, 7, 5, 2⟩
def pk : State :=
  { State.reset with
      m := { State.reset.m with pages := [{ pg with ia := 0, owner := 7 }] }
      c := { Cp.reset with tenants := [⟨7, 0, 0, [], [9]⟩], bind := [(3, 7)] }
      h := { Pkg.reset with qps := [(0, .management), (1, .tenant 7)], windows := [(2, wn)], reads := [⟨0, ⟨2, 0, 0, 0, 1, 0, 9, 8⟩, 0, .reading⟩] } }
def mh (qp : Nat) (ty : BitVec 8) : MsgHdr := ⟨qp, ty, 0, 0, 0, false⟩
/-- At the anchor a message needs no relayed entry. -/
theorem heard_at_anchor {s : State} {h : MsgHdr} {ty : BitVec 8} (h0 : dieNo s = 0)
    (h1 : h.reserved = false ∧ h.mtype = ty ∧ h.qp < 4096 ∧ itsTurn s h = true) : HeardAny s h ty :=
  ⟨h1.1, h1.2.1, h1.2.2.1, h1.2.2.2, fun x => absurd h0 x⟩
theorem test_meets_messages : (Heard pk (mh 1 1) 1 ∧ mapFind pk.c.bind 3 = some 7 ∧ actsFor pk 1 7 = true ∧ pk.h.power = .ready ∧ queueLen pk 3 < 256) ∧
    isMgmt pk 0 = true ∧ isMgmt pk 1 = false ∧ (Heard pk (mh 0 3) 3 ∧ pk.c.queues = [] ∧ pk.c.runs = []) :=
  ⟨⟨⟨by decide, heard_at_anchor (by decide) (by decide +kernel)⟩, by decide +kernel⟩, by decide, by decide,
    ⟨by decide, heard_at_anchor (by decide) (by decide +kernel)⟩, by decide⟩
theorem test_meets_windows :
    (mapHas pk.h.windows 9 = false ∧ pagesOwned pk 7 0 0x10000 2 = true ∧ packageHas pk 7 = true ∧ ∀ p ∈ pk.m.pages, p.st = .resident) ∧
    (mapFind pk.h.windows 2 = some wn ∧ windowBusy { pk with h := { pk.h with reads := [] } } 2 wn = false ∧ (∃ x, tenantOf pk 7 = some x ∧ 9 ∈ x.ecs)) ∧
    (wn.rkey = 5 ∧ wn.iabase ≤ 0x100 ∧ 0x100 + 4 ≤ wn.iabase + wn.len ∧ wn.qpset.getLsbD 1 = true ∧ dieNo pk = 0) ∧ regionUsed pk 4 = false :=
  ⟨by decide +kernel, ⟨by decide +kernel, by decide +kernel, _, rfl, by decide⟩, by decide +kernel, by decide⟩
/-- A message for another die of the package; a read whose data the page takes; the header of an SPDM message at the port. -/
theorem test_meets_package :
    (({ mh 1 1 with die := 3 } : MsgHdr).die ≠ 0 ∧ itsTurn pk { mh 1 1 with die := 3 } = true) ∧
    (pk.h.reads = [⟨0, ⟨2, 0, 0, 0, 1, 0, 9, 8⟩, 0, .reading⟩] ∧ nvBusy pk 0 = false ∧ mapFind pk.h.windows 2 = some wn) ∧
    (let p : Page := ⟨0x10000, false, 7, 3, 0, false, false, .resident, [], none, 0, 0, 0⟩
     pageFits { pk with m := { pk.m with freeFrames := [(0, 5)] } } p = true ∧ pageFits pk { p with ia := 0 } = false) ∧
    ({ pk.c with queues := [(2, [rc 0])] } : Cp).queues = [(2, [rc 0])] ∧
    HeardAny pk pk.h.spdm 0x08 ∧ dieNo { pk with l := { pk.l with coord := 1 } } ≠ 0 :=
  ⟨by decide +kernel, by decide +kernel, by decide +kernel, by decide +kernel, heard_at_anchor (by decide) (by decide +kernel), by decide⟩

/-! ### Further witnesses, of clauses over special operands, special places and other dies -/

/-- NextBundleAndEndCheck: a level that ends at the bundle, a CBR in its scalar slot, and queues that hold nothing of its number. -/
theorem test_meets_end_check : (∃ l, (lv 1 0).r.loops.head? = some l ∧ l.active = true ∧ l.stop = (lv 1 0).f.pc) ∧
    (∃ o, (⟨0, .cbr ⟨0x81, 3⟩, true⟩ : Exe).instr = .cbr o) ∧
    (([⟨1, io.instr, true⟩, ⟨4, .ldW ⟨3, 6, 0, 0, 0⟩, true⟩] : List Exe).map Exe.k).Nodup ∧ ∀ p ∈ allQueues, getQ st p = [] :=
  ⟨⟨_, rfl, by decide, by decide⟩, ⟨_, rfl⟩, by decide, by decide⟩
/-- CollectiveBranchContributesOnce: the last contribution of a die's part of a group of two cores, and a group of one core over one dimension. -/
theorem test_meets_last_contribution : let s : State := { grp two with l := { st.l with partials := [⟨groupId (grp two) 2, 0, false, [(1, true)], [], []⟩] } }
    let cs : List (BitVec 6 × Bool) := [(1, true)]
    ((s.f.groups.get 2).gdim = 0 ∧ (s.f.groups.get 2).gcore.getLsbD s.x.coreid.toNat = true ∧
      (∀ c, c < 64 → (s.f.groups.get 2).gcore.getLsbD c = true → c ≠ s.x.coreid.toNat → ∃ q ∈ cs, q.1.toNat = c) ∧
      (∀ q ∈ cs, q.1 ≠ s.x.coreid) ∧ s.l.partials = [⟨groupId s 2, (s.f.groups.get 2).seq, false, cs, [], []⟩]) ∧
    let x : Group := { Group.zero with gdim := 1, gcore := 1 }
    (∀ i, i < 15 → ((grp x).f.groups.get 2).gdim.getLsbD i = decide (i = 0)) ∧ ((grp x).f.groups.get 2).gcore = 1#64 <<< (grp x).x.coreid.toNat := by
  decide +kernel
/-- FloatMinMaxAbsNeg: operands of each clause of RCP, RSQ, EXP2 and LOG2: NaNs, infinities, zeros, the bounds of the ranges, powers of 2 and whole numbers; and
groups of GNORM whose sum is a NaN, vanishes, or neither. -/
theorem test_meets_functions : (IsNan fp32 0x7FC00000 ∧ IsInfinite fp32 0x7F800000 ∧ signBit fp32 0xFF800000 = true) ∧
    (IsFinite fp32 0x00200000 ∧ |ratOf fp32 0x00200000| ≤ 1 / 2 ^ 128) ∧ (IsFinite fp32 0x00200001 ∧ 1 / 2 ^ 128 < |ratOf fp32 0x00200001|) ∧
    ratOf fp32 0x80000000 = 0 ∧ ratOf fp32 0xBF800000 < 0 ∧ 0 < ratOf fp32 0x3F800000 ∧
    (128 : ℚ) ≤ ratOf fp32 0x43000000 ∧ ratOf fp32 0xC3160000 ≤ -150 ∧ (-150 < ratOf fp32 0x40400000 ∧ ratOf fp32 0x40400000 < 128 ∧ ratOf fp32 0x40400000 = (3 : Int)) ∧
    (ratOf fp32 0x3F800000 = 1 ∧ ratOf fp32 0x40800000 = 2 ^ (2 : Int) ∧ 2 < ratOf fp32 0x40800000) := by
  refine ⟨⟨by unfold IsNan; decide, by unfold IsInfinite; decide, by decide⟩, ⟨by unfold IsFinite; decide, ?_⟩, ⟨by unfold IsFinite; decide, ?_⟩, ?_⟩ <;>
    norm_num [ratOf, fp32, abs_of_pos]
theorem test_meets_gnorm : let o : RRR := ⟨3, 1, 0, 0, 1⟩
    (o.xop + 1 = 2 ∧ 512 / 2 = 256 ∧ o.me = false) ∧ ¬IsFinite fp32 0x7FC00000 ∧ (IsFinite fp32 0 ∧ |ratOf fp32 0| < 1 / 2 ^ 126) ∧
    (IsFinite fp32 0x40400000 ∧ 1 / 2 ^ 126 ≤ |ratOf fp32 0x40400000|) := by
  refine ⟨by decide, by unfold IsFinite; decide, ⟨by unfold IsFinite; decide, ?_⟩, by unfold IsFinite; decide, ?_⟩ <;> norm_num [ratOf, fp32, abs_of_pos]
/-- MatrixStepsJoinTheArray: operand B by codebook indices, with scales bound to operand A; and operand A read transposed. -/
def sg3 : State := { sc with r := { sc.r with ag := [(2, gn 0x8000 128 64)], bindA := ⟨1, 0x100, 16, 0, 32, 4, 0⟩ } }
theorem test_meets_codebook : let o : RRR := ⟨2, 0, 1, 0, 0x3001⟩
    (stepFmts o sg3.f.cur.fmtr).1 = 3 ∧ o.bsel = 1 ∧ o.ta = false ∧ o.tb = false ∧ kStep 3 = 128 ∧ bindUsed (bindings sg3).1 3 = true ∧ bindUsed (bindings sg3).2 3 = false ∧
    stepCause sg3 o 128 true false [] [] 1 = none ∧ stepWaits sg3 128 true false [] [] 1 = false ∧ stepBad sg3 128 true false [] [] 1 = none := by decide +kernel
theorem test_meets_transposed : let o : RRR := ⟨2, 2, 1, 0, 0x1004⟩
    let a := (transVas sg3 o.ta o.a 64).1
    stepFmts o sg3.f.cur.fmtr = (1, 1) ∧ o.ta = true ∧ o.tb = false ∧ a.length = 64 ∧
    stepCause sg3 o 64 false false a [] 2 = none ∧ stepWaits sg3 64 false false a [] 2 = false ∧ stepBad sg3 64 false false a [] 2 = none := by decide +kernel
/-- FrontTurnRunsTheDecodedBundle: a TRN of two rows of 2 bytes from AG0 to AG1 in the window, and one that joins it: from AG1 on, behind the first one's token. -/
def trn (kp : BitVec 6) (cm : BitVec 3) (src dst : Nat) : ENG := ⟨kp, cm, 6, 0, 0, BitVec.ofNat 21 (dst * 2 ^ 17 + src * 2 ^ 13 + 2 ^ 5)⟩
def tq (i : Instr) (gens : List (Nat × List W64)) : QSlot := ⟨6, i, true, [], gens, none, 0xFFF, none, true⟩
def tu : QSlot := tq (.trn (trn 6 0 0 1)) [(0, [0x1000, 0x1020]), (1, [0x2000, 0x2020])]
def tt : QSlot := { tq (.trn (trn 7 1 1 2)) [] with joined := false }
def te (bsn : Nat) (x : QSlot) : QEntry := ⟨bsn, 64 * BitVec.ofNat 64 bsn, false, [], 0, [x]⟩
def rwn : State := { se with
  f := { se.f with qs := { Queues.empty with cp := [te 0 tu] }, window := [(0, 6)] }
  r := { se.r with pricking := [(0, ⟨0, true, 3⟩)] } }
theorem test_meets_window : let y := (captureTile rwn 0 { tt with joined := true }).1
    let c := (captureTile rwn 0 { tt with joined := true }).2
    (rwn.f.window.drop (rwn.f.window.length - 7)).filterMap (memberAt c) = [] ++ (te 0 tu, tu) :: [] ∧ rwn.r.pricking = [] ++ (0, ⟨0, true, 3⟩) :: [] ∧
    FiresAt c ⟨0, true, 3⟩ (te 0 tu, tu) (te 5 tt, y) [] ∧ NeverFires c ⟨0, true, 3⟩ (te 5 tt, y) [] ∧ ∀ m ms, NeverFires c ⟨3, true, 3⟩ m ms := by
  refine ⟨by decide +kernel, rfl, ⟨.inl rfl, rfl, ⟨trn 6 0 0 1, trn 7 1 1 2, rfl, rfl, by decide +kernel, rfl, rfl, by decide +kernel, by decide +kernel⟩,
    fun m h => absurd h List.not_mem_nil⟩, ?_, ?_⟩
  · rintro (_ | ⟨_, _⟩) u post h <;> simp at h
  · rintro m ms pre u post - ⟨h | ⟨h, -⟩ | ⟨h, -⟩, -⟩ <;> exact absurd h (by decide)
/-- An exact value rounds to its own code. -/
theorem rounds_to_itself {x : ℚ} {c : Nat} (hc : IsFinite fp32 c) (hx : ratOf fp32 c = x)
    (ht : |x| < ratOf fp32 fp32.maxCode + (ratOf fp32 fp32.maxCode - ratOf fp32 (fp32.maxCode - 1)) / 2) : RoundsTo fp32 0 x c := by
  simp only [RoundsTo, ht, ↓reduceIte]
  refine ⟨hc, fun y _ => ?_⟩
  rcases eq_or_ne (ratOf fp32 y) (ratOf fp32 c) with h | h
  · exact .inr (.inl h)
  · refine .inl ?_
    rw [hx, sub_self, abs_zero]
    exact abs_pos.2 (sub_ne_zero.2 (hx ▸ h))
/-- FiletStepsJoinTheArray, EngineCommandsStartAndComplete: the input 0 lies below the grid of `sc`, whose cells keep the value at its end; and it touches a row. -/
theorem test_meets_cell (c : Nat → ℚ) : CellIs false (knots sc 1) 0 c (splineAt splineBasis 4 0 c) := by
  refine .inr ⟨by unfold IsNan; decide, 0xBF800000, ⟨fun _ => ?_, fun h => absurd h (by unfold IsInfinite; decide)⟩, .inr ⟨0, .inl ⟨rfl, .inl ⟨?_, ?_⟩⟩, ?_⟩⟩
  · rw [show knot0 (knots sc 1) = 0x3F800000 by decide +kernel, show knotH (knots sc 1) = 0x3F800000 by decide +kernel]
    refine rounds_to_itself (by unfold IsFinite; decide) ?_ ?_ <;> norm_num [ratOf, fp32]
  · unfold IsFinite; decide
  · norm_num [ratOf, fp32]
  · rw [show knotClamp (knots sc 1) = 0 by decide +kernel, show knotG (knots sc 1) = 4 by decide +kernel]
    rfl
theorem test_meets_touched : ((touched (knots sc 1) 0)[5]?.map fun r => (r.1, r.2.1)) = some (0, 5) ∧ 64 % 4 = 0 ∧ 64 + 32 ≤ 256 := by decide +kernel
/-- LoadsReadWhatTheCoreSees, StoresWaitInTheGateOrPerform: two units in two pages; a unit that nothing maps, one that another step maps, and one out of line. -/
theorem test_meets_units : InPages sg [0x200000, 0x210000] 4 4 [0x100000, 0x110000] ∧
    FirstFailing [0x400000] (InStep sg [0x400000] 4) 0x400000 ∧ FirstFailing [0x200000, 0x10000000100] (InStep sg [0x200000, 0x10000000100] 4) 0x10000000100 ∧
    (∀ y ∈ [0x200002], InStep sg [0x200002] 4 y) ∧ FirstFailing [(0x200002 : W64)] (fun y => y.toNat % 4 = 0) 0x200002 :=
  ⟨⟨List.cons_ne_nil _ _, .cons (by decide) (.cons (by decide) .nil)⟩, ⟨[], [], rfl, fun y hy => absurd hy List.not_mem_nil, fun h => h.1 (by decide)⟩,
    ⟨[0x200000], [], rfl, fun y hy => by rw [List.mem_singleton.1 hy]; exact ⟨by decide, rfl⟩, fun h => absurd h.2 (by decide)⟩,
    fun y hy => by rw [List.mem_singleton.1 hy]; exact ⟨by decide, rfl⟩, [], [], rfl, fun y hy => absurd hy List.not_mem_nil, by decide⟩
theorem test_meets_waiting_units : waitsOn sg (iaBase + 0x100000) = false ∧
    waitsOn { sg with m := { sg.m with empties := [(iaBase + 0x100000) / 128] } } (iaBase + 0x100000) = true := by decide +kernel
/-- AtomicsBobbinsAndQueries: CLRF of no lines, of a negative count, beyond the scratchpad, and out of line; XLT of a negative length. -/
theorem test_meets_clrf : let c (x : W64) : Nat := (opS { sg with r := { sg.r with s := [(11, x)] } } 11).toInt.toNat
    c 0 = 0 ∧ c (-1) = 0 ∧ c 1 = 1 ∧ ¬InSpad sg 0x100000 128 ∧ (InSpad sg 0x108 128 ∧ (0x108 : W64).toNat % 128 ≠ 0) ∧ InSpad sg 0x100 128 := by
  unfold InSpad; decide +kernel
/-- SyncSlotsWaitForTheirCondition: a barrier over the dies of the dimensions; one that completed before. -/
theorem test_meets_far_bars : scopeDies sg 3 ≠ [] ∧ scopeDies sg 1 = [] ∧
    (let s : State := { sg with f := { sg.f with barsDone := ⟨0, 0, 1, 0⟩ }, l := { sg.l with barArrived := [(3, 0, 0, 1)] } }
     s.f.barsReached.get 2 + 1 ≤ s.f.barsDone.get 2 ∧ s.f.barsReached.get 2 + 1 ≤ arrivedOf s 3 (s.l.coord, s.x.coreid)) := by decide +kernel
/-- FlagsPortsAndLaunches: a FLAG word that two range registers lay into one page and apart; a count of 2^24; a port with a standing fence, and messages behind it. -/
def cut : State := { sg with x := { sg.x with ranges := [(0, ⟨0x200000, 0x200003, 0x100000⟩), (1, ⟨0x200004, 0x2FFFFF, 0x100010⟩)] } }
theorem test_meets_flag_cut :
    (unitParts sg false 0x200000 8 = some [⟨0, 0x200000, .ia 0x100000, 8⟩] ∧
      unitParts cut false 0x200000 8 = some [⟨0, 0x200000, .ia 0x100000, 4⟩, ⟨4, 0x200004, .ia 0x100010, 4⟩]) ∧
    (let s : State := { sy ⟨[], []⟩ with f := { (sy ⟨[], []⟩).f with flagCnt := [(0, 0, 2 ^ 24)] } }
     2 ^ 24 ≤ countOf s (homeOf s 0x100) 5 ∧ flagReady s = true ∧ (0x100 : W64).toNat % 8 = 0) ∧
    (let m : CordMsg := ⟨0, 8, 0, [], 0x7FFF, .flag (fm 0)⟩
     let p : Port := { up with portFence := some 3, cordBack := [m] }
     (port (pt 7 p) 7).portFence = some 3 ∧ (port (pt 7 p) 7).cord = [] ∧ (port (pt 7 p) 7).cordBack ≠ []) := by decide +kernel
/-- ResultsLandInTheirRegisters: a head that another queue's realign holds. -/
theorem test_meets_stopped_head : let s : State := { sl with f := { sl.f with qs := { sl.f.qs with va := [⟨5, 0, true, [], 0, []⟩] } } }
    getQ s .va = ⟨5, 0, true, [], 0, []⟩ :: [] ∧ headStopped s .va ⟨5, 0, true, [], 0, []⟩ = true := by decide +kernel
/-- WaitsEndAndFlagWordsArrive: the places of a word, in one part and in two, and a part in a window of a core that is gone. -/
theorem test_meets_flag_places : FlagPlaces (fm 0) ∧ FlagPlaces { fm 0 with apart := [(4, 0x200, 4)] } ∧
    (∃ p ∈ flagParts { fm 0 with addr := windowBase + 0x100 }, inGoneWindow { sg with m := { sg.m with gone := 1 } } p.2.1 = true) := by
  unfold FlagPlaces; decide +kernel
/-- MarksInterruptsAndPreemption: a landing in time; a handler that ends now and one that does not. -/
theorem test_meets_endings : landLate (fe .landing) = false ∧ endsNow { sth with f := { sth.f with fe := .exiting ⟨true, 0, 0, 0, none⟩ } } = true ∧ endsNow sth = false := by
  decide +kernel
/-- EngineCommandsStartAndComplete: a tile of two rows of two elements of 2 bytes that has been read, cancelled or not; a row of SPLG with its sector to write. -/
def tr (k : Nat) : Piece := ⟨k, 0, BitVec.ofNat 64 (0x1000 + 0x20 * k), 0x1000 + 0x20 * k, 4⟩
def td (k : Nat) : Piece := ⟨k, 0, BitVec.ofNat 64 (0x2000 + 0x20 * k), 0x2000 + 0x20 * k, 4⟩
def tx : Xfer := { Xfer.none with got := [(tr 0, [1, 2, 3, 4]), (tr 1, [5, 6, 7, 8])], segs := [[⟨0, [td 0], none, false, []⟩]] }
def tw : Work := .trn [tr 0, tr 1] [td 0, td 1] 2 2
theorem test_meets_tile : (engActs (sx tw tx))[1]? = some (0, .write 0) ∧ (td 0).key + (td 0).len ≤ 2 ^ 20 ∧ (td 0).run < 2 ∧ (td 0).off + (td 0).len ≤ 2 * 2 ∧
    (∀ k, k < 2 → gotRun tx k 0 (2 * 2) = some (([[1, 2, 3, 4], [5, 6, 7, 8]] : List (List Byte)).getD k [])) ∧
    ({ cm tw true none with rw := some ⟨0, [], .cancelled false 3⟩ } : Cmd).rw = some ⟨0, [], .cancelled false 3⟩ := by decide +kernel
def sp : Piece := ⟨5, 64, 0x3040, 0x3040, 32⟩
def spw : Work := .splg [⟨5, 0, 0x3000, 0x3000, 256⟩] 0 0 (knots sc 1) false
theorem test_meets_scatter : (engActs (sx spw { Xfer.none with segs := [[⟨0, [sp], none, false, []⟩]] }))[1]? = some (0, .write 0) ∧ sp.off % 4 = 0 ∧ sp.len % 4 = 0 ∧
    sp.off + sp.len ≤ 256 ∧ (∀ b, b < sp.len → isEmptyLine se (sp.key + b) = false) ∧ badIn se sp.key sp.len = none ∧ IsFinite fp32 (slotElem 0 0 16 0) := by
  unfold IsFinite; decide +kernel
/-- A receive over the dimension 6 whose stream has come whole, and one that combines it with what it has read. -/
def rxs : RxStream := ⟨64, none, List.replicate 32 1, true, []⟩
def dw (op : Option Nat) (send : List Piece) : Work := .dim 0 0 6 6 send (.runs [pc 0x2000 32]) 32 op false true
def dc (op : Option Nat) (send : List Piece) (got : List (Piece × List Byte)) : Cmd :=
  { cm (dw op send) true none with eng := .dim 6, xf := { Xfer.none with segs := [[⟨0, [pc 0x2000 32], none, false, []⟩]], got := got } }
def ds (c : Cmd) : State := { sw c Token.fresh with e := { se.e with cmds := [c], rx := [rxs] } }
theorem test_meets_receive : let c := dc none [] []
    let d := dc (some 0) [pc 0x1000 32] [(pc 0x1000 32, List.replicate 32 2)]
    (matched (ds c) c = some rxs ∧ rxs.complete = true ∧ (engActs (ds c))[1]? = some (0, .write 0) ∧ c.xf.fed = 0 ∧ c.xf.stop = none ∧ (ds c).m.reqs = []) ∧
    (matched (ds d) d = some rxs ∧ streamGot d.xf ([pc 0x1000 32].flatMap cutSectors) = (List.replicate 32 2, true) ∧ 0 < 7 ∧ 32 * 0 + 0 + 32 ≤ 32) := by decide +kernel
/-- A command that met a fault; a refinement of KN1's cells into free slots; a dimension command that neither sends nor receives any more. -/
theorem test_meets_completions : let g : Work := .gref 12 0 2 (knots sc 1)
    let q : Work := .dim 0 0 6 6 [] (.runs []) 32 none false false
    ({ cm cpw true none with err := some (0x13, 0x1000) } : Cmd).err = some (0x13, 0x1000) ∧
    (knotsOk (knots sc 1) 16 = true ∧ posNormal (knotH (knots sc 1) - 0x00800000) = true ∧ 2 * knotG (knots sc 1) ≤ 13 ∧
      (∀ n ∈ grefSrc 0 4, pendingOn (sx g Xfer.none) .o n 2 = false) ∧ (∀ n ∈ grefDst 12 4, readersDone (sx g Xfer.none) 2 .o n = true) ∧
      readersDone (sx g Xfer.none) 2 .kn 2 = true) ∧ quiet q = q ∧ hasDest q = true ∧ quiet cpw = cpw := by decide +kernel
/-- HomesServeRequestsAndMovePages: a request whose runs perform together; a page at another die of the package than the anchor, with flits of it queued and without. -/
theorem test_meets_tiers : let s : State := { hp (.offloading 2 0) with l := { (hp (.offloading 2 0)).l with coord := 1 } }
    let t : State := { s with l := { s.l with ports := [(0, { up with outq := [(.memory, { fl 0 0 with orig := 1, body := .tier 0x100000 0 true })] })] } }
    dieNo s ≠ 0 ∧ tierLeft s 0x100000 = false ∧ tierLeft t 0x100000 = true ∧ pageSize pg / 128 ≤ mapGet 0 [(0x100000, 512)] 0x100000 ∧
    ({ rq .load with whole := true } : Req).whole = true := by decide +kernel
/-- LinksSendAcknowledgeAndTrain: a pair with 2^21 flits unacknowledged, and one with none. -/
theorem test_meets_pair_bound : 2 ^ 21 ≤ pairUnacked { pt 7 up with l := { (pt 7 up).l with detoured := List.replicate (2 ^ 21) own } } own ∧
    pairUnacked (pt 7 up) own < 2 ^ 21 := by
  refine ⟨?_, by decide⟩
  rw [pairUnacked, List.filter_replicate, if_pos (by decide)]
  simp only [List.length_replicate]
  exact le_of_eq rfl
/-- PackageMessagesAndResets: another die, that the anchor has relayed a message to; a warm reset there and at the anchor, up to its end. -/
def dk (inbox : List (MsgHdr × HostMsg)) (p : Power) (coord : Coord) : State :=
  { pk with l := { pk.l with coord := coord }, h := { pk.h with inbox := inbox, power := p } }
theorem test_meets_other_die : let h : MsgHdr := { mh 0 2 with die := 1 }
    HeardAny (dk [(h, .wclose 3)] .ready 1) h 0x02 ∧ h.die = dieNo (dk [(h, .wclose 3)] .ready 1) ∧ isMgmt (dk [(h, .wclose 3)] .ready 1) h.qp = true := by
  refine ⟨⟨by decide, by decide, by decide, by decide +kernel, fun _ => ⟨.wclose 3, List.mem_singleton.2 rfl⟩⟩, by decide, by decide⟩
theorem test_meets_warm : let b : List (MsgHdr × HostMsg) := [(mh 0 3, .warmReset)]
    ((mh 0 3, HostMsg.warmReset) ∈ b ∧ dieNo (dk b .ready 1) ≠ 0 ∧ dieNo (dk b .ending 0) = 0) ∧
    ((dk b .ending 0).c.runs = [] ∧ (dk b .ending 0).c.finished = [] ∧ (dk b .ending 0).c.waiting = [] ∧ ∀ x ∈ (dk b .ending 0).h.relayed, x.1 ≠ 0) ∧
    (dk b .ended 1).h.power = .ended ∧ matesQuiet (dk b .ended 1) = true := by decide +kernel
theorem test_meets_tenants : let good (d : TenantDesc) : Prop := d.base &&& d.mask = 0 ∧ d.ranges.length ≤ 16 ∧ ∀ e ∈ d.ecs, e < 256
    (good ⟨0, 7, [(0x1000, 0x1FFF, 0x2000)], [9]⟩ ∧ ¬good ⟨1, 7, [], []⟩) ∧ (tenantUsed pk 7 = true ∧ tenantOf pk 7 = some ⟨7, 0, 0, [], [9]⟩) ∧ tenantUsed pk 9 = false := by
  decide +kernel
theorem test_meets_opening : let s := dk [(mh 0 4, .wopen 9 wn)] .ready 0
    ((mh 0 4, HostMsg.wopen 9 wn) ∈ s.h.inbox ∧ (∀ x ∈ s.h.relayed, x.1 ≠ 0) ∧ (∀ x ∈ s.h.pinsDue, x.1 ≠ 9) ∧ ∀ p ∈ s.m.pages, p.st = .resident) ∧
    (∀ x ∈ pk.h.inbox, ∀ v, x.2 ≠ .wopen 9 v) ∧ farDies { pk with c := { pk.c with tenants := [⟨7, 0, 8, [], []⟩] } } 7 = [8] := by
  refine ⟨⟨List.mem_singleton.2 rfl, by decide +kernel⟩, fun x h => absurd h List.not_mem_nil, by decide +kernel⟩
theorem test_meets_reads : let x : NvRun := ⟨0, ⟨2, 0, 0, 0, 1, 0, 9, 8⟩, 3, .status⟩
    let r (p : NvPhase) : List NvRun := [{ x with phase := p }]
    256 ≤ (List.replicate 256 x).length ∧ (∀ p ∈ [NvPhase.reading, .data 0 false, .data 0 true, .status], r p = [{ x with phase := p }]) ∧
    x.die ≠ dieNo pk ∧ nvBusy pk 0 = false ∧ x.cmd.count ≤ 2048 ∧ x.cmd.off + 512 * x.cmd.count ≤ wn.len := by
  refine ⟨by rw [List.length_replicate], by decide, by decide, by decide, by decide, by decide⟩

end Sys2Proof.Tests
end

section
/-! Division of the scalar slot (03 R65, R66): each division instruction is an ALU instruction of two sources, and an ALU
instruction completes with its result at every width, so what remains of a division is its quotient or remainder as a number. -/

namespace Sys2Proof.Machine

/-! ### An ALU instruction of two sources completes with its result -/

/-- An operation that is a signed function at both widths writes that function's word, and the instruction goes on to the next state. -/
theorem aluExec_signed {op : (w : Nat) → BitVec w → BitVec w → BitVec w} {f : Nat → Int → Int → Int}
    (hop : ∀ w, ∀ x y : BitVec w, op w x y = BitVec.ofInt w (f w x.toInt y.toInt)) (o : RRR) (s : State) (hq : s.f.cur.q = true) :
    ∃ t, aluExec o op s = .next t ∧ WroteScalar s t o.d.toNat (signedWord o f (opS s o.a.toNat) (opS s o.b.toNat)) :=
  toS_completes s o.d _ _ hq (alu_signed o op f _ _ fun w _ => hop w)
/-- The same for an operation that is an unsigned function. -/
theorem aluExec_unsigned {op : (w : Nat) → BitVec w → BitVec w → BitVec w} {f : Nat → Nat → Nat → Nat}
    (hop : ∀ w, ∀ x y : BitVec w, op w x y = BitVec.ofNat w (f w x.toNat y.toNat)) (o : RRR) (s : State) (hq : s.f.cur.q = true) :
    ∃ t, aluExec o op s = .next t ∧ WroteScalar s t o.d.toNat (unsignedWord o f (opS s o.a.toNat) (opS s o.b.toNat)) :=
  toS_completes s o.d _ _ hq (alu_unsigned o op f _ _ fun w _ => hop w)

/-! ### The division instructions -/

theorem exec_div (o : RRR) (s : State) : exec (.div o) s = aluExec o opDiv s := rfl
theorem exec_rem (o : RRR) (s : State) : exec (.rem o) s = aluExec o opRem s := rfl
theorem exec_divu (o : RRR) (s : State) : exec (.divu o) s = aluExec o opDivu s := rfl
theorem exec_remu (o : RRR) (s : State) : exec (.remu o) s = aluExec o opRemu s := rfl

/-- Settles O2: each of the four is an ALU instruction whose operation is the quotient or remainder of 03 R66 at every width;
the most negative value by −1 needs no case of its own, for its quotient wraps to the dividend. -/
theorem divisionRaisesNoTrap : Obligations.DivisionRaisesNoTrap := by
  unfold Obligations.DivisionRaisesNoTrap divisionOps udivisionOps
  refine ⟨List.forall_mem_cons.2 ⟨fun o s hq _ => ?div, List.forall_mem_singleton.2 fun o s hq _ => ?rem⟩,
    List.forall_mem_cons.2 ⟨fun o s hq _ => ?divu, List.forall_mem_singleton.2 fun o s hq _ => ?remu⟩⟩
  case div => rw [exec_div]; exact aluExec_signed opDiv_eq o s hq
  case rem => rw [exec_rem]; exact aluExec_signed opRem_eq o s hq
  case divu => rw [exec_divu]; exact aluExec_unsigned opDivu_eq o s hq
  case remu => rw [exec_remu]; exact aluExec_unsigned opRemu_eq o s hq

end Sys2Proof.Machine
end

section
/-! Lanes of the wide registers (04 R85): what a register made from its lanes holds in each of them, and what a merge under a mask of
whole elements shows. -/

namespace Sys2Proof.Machine

/-! ### Numbers packed from lanes -/

theorem packN_lt (w : Nat) (f : Nat → Nat) (n : Nat) : packN w f n < 2 ^ (w * n) := by
  induction n with
  | zero => simp [packN]
  | succ n ih =>
    have hlane : f n % 2 ^ w + 1 ≤ 2 ^ w := Nat.mod_lt _ (Nat.two_pow_pos w)
    have htop := Nat.mul_le_mul_right (2 ^ (w * n)) hlane
    rw [Nat.add_mul, ← Nat.pow_add, Nat.add_comm w] at htop
    rw [packN, Nat.shiftLeft_eq, Nat.mul_succ]
    omega
/-- A register of n bits holds the whole number made of the lanes that fit into it. -/
theorem toNat_ofNat_packN (n w : Nat) (f : Nat → Nat) : (BitVec.ofNat n (packN w f (n / w))).toNat = packN w f (n / w) :=
  Nat.mod_eq_of_lt ((packN_lt w f _).trans_le (Nat.pow_le_pow_right Nat.two_pos (Nat.mul_div_le n w)))
/-- Packing is undone lane by lane: lane i is f i, cut to the width. -/
theorem laneN_packN {w i n : Nat} (f : Nat → Nat) (hi : i < n) : laneN (packN w f n) w i = f i % 2 ^ w := by
  induction n with
  | zero => omega
  | succ n ih =>
    rw [packN, laneN, Nat.shiftRight_eq_div_pow, Nat.shiftLeft_eq]
    obtain hlow | rfl := Nat.lt_succ_iff_lt_or_eq.1 hi
    · obtain ⟨d, rfl⟩ := Nat.exists_eq_add_of_lt hlow
      have hsplit : f (i + d + 1) % 2 ^ w * 2 ^ (w * (i + d + 1)) = 2 ^ (w * i) * (2 ^ w * (f (i + d + 1) % 2 ^ w * 2 ^ (w * d))) := by
        rw [show w * (i + d + 1) = w * i + (w + w * d) by ring, Nat.pow_add, Nat.pow_add]; ring
      rw [hsplit, Nat.add_mul_div_left _ _ (Nat.two_pow_pos _), Nat.add_mul_mod_self_left, ← Nat.shiftRight_eq_div_pow]
      exact ih hlow
    · rw [Nat.add_mul_div_right _ _ (Nat.two_pow_pos _), Nat.div_eq_of_lt (packN_lt w f i), Nat.zero_add, Nat.mod_mod]

/-! ### Lanes of a register -/

theorem laneAt_toNat {n : Nat} (v : BitVec n) (w i : Nat) : (laneAt v w i).toNat = lane v w i := BitVec.extractLsb'_toNat ..
theorem laneAt_getLsbD {n : Nat} (v : BitVec n) (w i k : Nat) : (laneAt v w i).getLsbD k = (decide (k < w) && v.getLsbD (w * i + k)) :=
  BitVec.getLsbD_extractLsb' ..
/-- A register made from its lanes holds them, each cut to the width. -/
theorem laneAt_vecOf_toNat {w i : Nat} (f : Nat → Nat) (hi : i < 16384 / w) : (laneAt (vecOf w f) w i).toNat = f i % 2 ^ w := by
  rw [laneAt_toNat, lane, vecOf, toNat_ofNat_packN, laneN_packN f hi]
theorem laneAt_vecOf {w i : Nat} (f : Nat → Nat) (hi : i < 16384 / w) : laneAt (vecOf w f) w i = BitVec.ofNat w (f i) := by
  apply BitVec.eq_of_toNat_eq
  rw [laneAt_vecOf_toNat f hi, BitVec.toNat_ofNat]
/-- Every bit of an element of the mask says whether the element is taken. -/
theorem elems_getLsbD (f : Nat → Bool) {j : Nat} (hj : j < 16384) : (elems f).getLsbD j = f (j / 32) := by
  have hbit := laneAt_getLsbD (elems f) 32 (j / 32) (j % 32)
  rw [Nat.div_add_mod, decide_eq_true (Nat.mod_lt j (by decide)), Bool.true_and] at hbit
  have hlane : laneAt (elems f) 32 (j / 32) = BitVec.ofNat 32 (if f (j / 32) then 2 ^ 32 - 1 else 0) := laneAt_vecOf _ (by omega)
  have hk : j % 32 < 32 := Nat.mod_lt j (by decide)
  rw [← hbit, hlane, BitVec.getLsbD_ofNat, decide_eq_true hk, Bool.true_and]
  cases f (j / 32)
  · exact Nat.zero_testBit _
  · rw [if_pos rfl, Nat.testBit_two_pow_sub_one, decide_eq_true hk]
theorem merge_getLsbD {n : Nat} (old new mark : BitVec n) (j : Nat) :
    (merge old new mark).getLsbD j = if mark.getLsbD j then new.getLsbD j else old.getLsbD j := by
  by_cases hj : j < n
  · simp only [merge, BitVec.getLsbD_or, BitVec.getLsbD_and, BitVec.getLsbD_not, hj]
    cases mark.getLsbD j <;> simp
  · simp [BitVec.getLsbD_of_ge _ j (Nat.le_of_not_lt hj)]
/-- A merge under a mask of whole elements takes each element whole. -/
theorem laneAt_merge_elems (old new : Vec) (f : Nat → Bool) {i : Nat} (hi : i < 512) :
    laneAt (merge old new (elems f)) 32 i = if f i then laneAt new 32 i else laneAt old 32 i := by
  apply BitVec.eq_of_getLsbD_eq
  intro k hk
  have hdiv : (32 * i + k) / 32 = i := by omega
  rw [laneAt_getLsbD, merge_getLsbD, elems_getLsbD f (by omega), hdiv]
  cases f i <;> simp [laneAt_getLsbD]

end Sys2Proof.Machine
end

section
/-! The sources and results of a vector slot (04 R86, R89, R90): what a slot reads where no write can mix with it, and the one result
that it puts in flight under its element mask. -/

namespace Sys2Proof.Machine

/-! ### Sources with which no write mixes (07 R138, R139) -/

/-- Writes that the reader sees in order leave the register as it stands. -/
theorem mixOld_inOrder {w : Nat} {q : Queue} {bsn : Nat} {us : List Unordered} (h : ∀ u ∈ us, unorderedRead q bsn u = false)
    (n : Nat) (free x : Vec) : mixOld w q bsn n free x us = x := by
  induction us generalizing free with
  | nil => rfl
  | cons u us ih =>
    rw [List.forall_mem_cons] at h
    rw [mixOld, h.1]
    exact ih h.2 _
theorem NoMix.unorderedRead_eq_false {s : State} (h : NoMix s) {u : Unordered} (hu : u ∈ s.f.unord) :
    unorderedRead (queueOf s.f.cur.k) s.f.cur.bsn u = false := by
  obtain hown | ⟨hlocked, hbsn⟩ := h u hu
  · simp [unorderedRead, hown]
  · have hq : interlockedQ u.q = true := by simpa [interlockedQ] using hlocked
    simp [unorderedRead, hq, Nat.not_lt.2 hbsn]
theorem NoMix.readMixed_eq {s : State} (h : NoMix s) (w n : Nat) (d : Dst) (x : Vec) : readMixed s w n d x = x :=
  mixOld_inOrder (fun _ hu => h.unorderedRead_eq_false (List.mem_filter.1 (List.mem_reverse.1 hu)).1) ..
theorem NoMix.srcV_eq {s : State} (h : NoMix s) (n : Nat) : srcV s n = vreg s n := h.readMixed_eq ..
theorem NoMix.srcM_eq {s : State} (h : NoMix s) (n : Nat) : srcM s n = mreg s n := by
  rw [srcM, h.readMixed_eq]
  exact BitVec.setWidth_setWidth_of_le _ (by decide)

/-! ### Results -/

/-- The format in force is EF, or FMTR's vector format for EF 0xF. -/
theorem efv_eq_vecFormat (o : RRR) (s : State) : efv o s = vecFormat o s := rfl
/-- Without an element mask every element is governed, and with one those whose bit is 1. -/
theorem NoMix.governs_eq {s : State} (h : NoMix s) (o : RRR) (i : Nat) : governs o s i = (!o.me || (mreg s o.mkn).getLsbD i) := by
  unfold governs
  rw [h.srcM_eq]
  cases o.me <;> rfl
theorem NoMix.written_governed {s : State} (h : NoMix s) (o : RRR) : WritesGoverned o s (written o s) := by
  intro j hj
  rw [← h.governs_eq o, written]
  cases hme : o.me
  · rw [if_neg Bool.false_ne_true, BitVec.getLsbD_allOnes, decide_eq_true hj, governs, hme]
    rfl
  · rw [if_pos rfl, elems_getLsbD _ hj]
theorem inFlight_latches (d : Dst) (l : Nat) (val wm : Vec) (sticky : Option (BitVec 4)) (s : State) :
    (inFlight d l val wm sticky s).f.latches =
      s.f.latches ++ [⟨vqOf s.f.cur.k, d, val, wm, s.f.cur.bsn, s.f.cur.bsn + l, sticky, none⟩] := rfl
/-- An instruction with a vector result puts that result in flight, bound for the elements that its mask governs. -/
theorem putsInFlight_toV {i : Instr} {o : RRR} {l : Nat} {val : State → Vec} {s : State} (hi : exec i s = toV o l val s)
    (hq : s.f.cur.q = true) (hm : NoMix s) {p : Latch → Prop} (hp : ∀ x : Latch, WritesGoverned o s x.wm → x.val = val s → p x) :
    PutsInFlight i s p := by
  refine ⟨inFlight (.v o.d.toNat) l (val s) (written o s) none s, _, ?_, inFlight_latches .., hp _ (hm.written_governed o) rfl⟩
  rw [hi, toV, ifQ, if_pos hq]

end Sys2Proof.Machine
end

section
/-! The moves and selections of the vector slots (04 R96): each is one vector result, so what remains of an instruction is what its
result holds lane by lane. -/

namespace Sys2Proof.Machine

theorem exec_movv (o : RRR) (s : State) : exec (.movv o) s = toV o 2 (fun s => srcV s o.a.toNat) s := rfl
theorem exec_iota (o : RRR) (s : State) :
    exec (.iota o) s = toV o 2 (fun s => vecOf 32 fun i => (opS s o.a.toNat).toNat + i) s := rfl
theorem exec_perm (o : RRR) (s : State) :
    exec (.perm o) s = toV o 3 (fun s => map1 32 (fun x => lane (srcV s o.a.toNat) 32 (x % 512)) (srcV s o.b.toNat)) s := rfl
theorem exec_selv (o : RRR) (s : State) : exec (.selv o) s =
    toV o 2 (fun s => merge (srcV s o.b.toNat) (srcV s o.a.toNat) (elems fun i => (srcM s o.c.toNat).toNat.testBit i)) s := rfl
theorem exec_bcst (o : RRR) (s : State) :
    exec (.bcst o) s = toV o 2 (fun s => vecOf (widthOf (efv o s)) fun _ => (opS s o.a.toNat).toNat) s := rfl

/-- A register permuted by the elements of another: bits 8:0 of each name the element taken. -/
theorem laneAt_permuted (a b : Vec) {j : Nat} (hj : j < 512) :
    laneAt (map1 32 (fun x => lane a 32 (x % 512)) b) 32 j = laneAt a 32 ((laneAt b 32 j).toNat % 512) := by
  rw [map1, laneAt_vecOf _ hj, ← laneAt_toNat, ← laneAt_toNat, BitVec.ofNat_toNat, BitVec.setWidth_eq]
/-- The widths of the formats by their EF codes (04 R85). -/
theorem widthOf_of_mem {p : Nat × Nat}
    (h : p ∈ [(0, 32), (8, 32), (1, 16), (2, 16), (7, 16), (3, 8), (4, 8), (6, 8), (5, 4)]) : widthOf p.1 = p.2 :=
  (by decide : ∀ p ∈ [(0, 32), (8, 32), (1, 16), (2, 16), (7, 16), (3, 8), (4, 8), (6, 8), (5, 4)], widthOf p.1 = p.2) p h

/-- Settles O29: no write mixes with what the slot reads, so each result is a function of the registers as they stand. -/
theorem vectorMovesAndSelections : Obligations.VectorMovesAndSelections := by
  unfold Obligations.VectorMovesAndSelections
  intro o s hq hm
  refine ⟨?movv, ?iota, ?perm, ?selv, fun w hw => ?bcst⟩
  case movv =>
    refine putsInFlight_toV (exec_movv o s) hq hm fun l hwm hval => ⟨hwm, fun j _ => ?_⟩
    rw [hval, hm.srcV_eq]
  case iota =>
    refine putsInFlight_toV (exec_iota o s) hq hm fun l hwm hval => ⟨hwm, fun j hj => ?_⟩
    rw [hval, laneAt_vecOf _ hj]
    apply BitVec.eq_of_toNat_eq
    simp
  case perm =>
    refine putsInFlight_toV (exec_perm o s) hq hm fun l hwm hval => ⟨hwm, fun j hj => ?_⟩
    rw [hval, hm.srcV_eq, hm.srcV_eq, laneAt_permuted _ _ hj]
  case selv =>
    refine putsInFlight_toV (exec_selv o s) hq hm fun l hwm hval => ⟨hwm, fun j hj => ?_⟩
    rw [hval, hm.srcV_eq, hm.srcV_eq, hm.srcM_eq, laneAt_merge_elems _ _ _ hj]
    rfl
  case bcst =>
    refine putsInFlight_toV (exec_bcst o s) hq hm fun l hwm hval => ⟨hwm, fun j hj => ?_⟩
    rw [hval, efv_eq_vecFormat, widthOf_of_mem hw, laneAt_vecOf_toNat _ hj]

end Sys2Proof.Machine
end
